-- ==== Sys2Proof/Word.lean ====
section
/-! DEFINITION. The words of the ZV-7, and the names of its cores (R3, R13 to R18). -/

namespace Sys2Proof

abbrev Byte := BitVec 8
abbrev Half := BitVec 16
abbrev W32 := BitVec 32
abbrev Dword := BitVec 64
/-- A virtual address, a code address (R220). -/
abbrev VAddr := BitVec 56
/-- A vector register, 512 bits; an L0 core uses the low 256 (R60). -/
abbrev Vec := BitVec 512

/-- What a core is: one of the four layers, the boot core (R395) or a cluster's service core (R15). -/
inductive CoreKind where
  | l0 | l1 | l2 | l3 | boot | service
  deriving DecidableEq, Repr

/-- A core of the device: its kind and its FLAT within that kind (R17).
The boot core is index 0; the service core of cluster c of die d is 36 d + c (R31). -/
structure CoreId where
  kind : CoreKind
  idx  : Nat
  deriving DecidableEq, Repr

/-- The code of a kind in a core's key. -/
def CoreKind.code : CoreKind → Nat
  | .l0 => 0 | .l1 => 1 | .l2 => 2 | .l3 => 3 | .boot => 4 | .service => 5

/-- One number per core, the key of the sparse map of cores. -/
def CoreId.key (c : CoreId) : Nat := c.idx * 8 + c.kind.code

end Sys2Proof
end

