-- ==== Sys2Proof/Syntax.lean ====
section
/-! DEFINITION. The steps of the ZV-7: one constructor for each row of the opcode table. An instruction carries its
decoded fields (R39 to R45); a device step carries the names of the units it is about. -/

namespace Sys2Proof

/-- The fields of a register prefix (R42). -/
structure RegPrefix where
  dhi  : Bool
  shi  : Bool
  tsrc : BitVec 5
  pneg : Bool
  psel : BitVec 3
  deriving DecidableEq, Repr

/-- The fields of a modifier prefix (R44). -/
structure ModPrefix where
  fmt   : BitVec 4
  rnd   : BitVec 3
  scope : BitVec 3
  sat   : Bool
  deriving DecidableEq, Repr

/-- The operand fields of one instruction chain: the base word's DST, SRC and AUX (R39; AUX is 0 on page 0, whose
MINOR is part of the opcode), and the prefixes it carries (R42, R44, R45). -/
structure Fields where
  dst : BitVec 4
  src : BitVec 4
  aux : BitVec 3
  reg : Option RegPrefix
  mod : Option ModPrefix
  imm : List (BitVec 11)
  deriving DecidableEq, Repr

/-- What may give an error: a word of memory by location, a lane of a core's matrix unit, a core's logic, a cluster (R329), or a line that a
core's instruction cache holds, by location ÷ 64 (R126, R318). -/
inductive ErrUnit where
  | memory (loc : Nat) | lane (core : CoreId) | logic (core : CoreId) | cluster (clus : Nat) | code (core : CoreId) (line : Nat)
  deriving DecidableEq, Repr

/-- A function whose readiness bit is set by FUNCTION_READY (R372, R373). -/
inductive Function where
  | hbm (stack : Nat) | sram (die : Nat) | l0die (die : Nat) | upper (layer : Nat) | cluster (clus : Nat)
  | host (qtab : Nat) | mgmt | rot | quekin (port : Nat)
  deriving DecidableEq, Repr

/-- What a service core's walk for a requester's miss found at stage 2 (R230): the context, its unit and its miss number, the original
address, the guest-physical address, the ASID, whether the fault is a permission fault, whether it arose in the walk of a stage-1 table,
and the ACC of the failing access. -/
structure Stage2Fault where
  core : CoreId
  ctx  : Nat
  unit : Nat
  seq  : Byte
  va   : VAddr
  gpa  : Dword
  asid : BitVec 16
  perm : Bool
  walk : Bool
  acc  : BitVec 2
  deriving DecidableEq, Repr

/-- The steps of the device, one constructor for each row of the opcode table. -/
inductive Instr where
  /-- ADD (R99): Integer add of A and B, with optional .i32/.n32 format and saturation. -/
  | add (f : Fields)
  /-- SUB (R99): Integer subtract A minus B, with optional format and saturation. -/
  | sub (f : Fields)
  /-- AND (R99): Bitwise and of A and B. -/
  | and (f : Fields)
  /-- OR (R99): Bitwise or of A and B. -/
  | or (f : Fields)
  /-- XOR (R99): Bitwise xor of A and B. -/
  | xor (f : Fields)
  /-- ANDN (R99): A and not B. -/
  | andn (f : Fields)
  /-- SHL (R99): Shift A left by B[5:0]. -/
  | shl (f : Fields)
  /-- SHR (R99): Logical shift A right by B[5:0]. -/
  | shr (f : Fields)
  /-- SRA (R99): Arithmetic shift A right by B[5:0]. -/
  | sra (f : Fields)
  /-- MUL (R99): Integer multiply, low 64 bits, with optional format and saturation. -/
  | mul (f : Fields)
  /-- MULHS (R99): High 64 bits of the signed 128-bit product. -/
  | mulhs (f : Fields)
  /-- MULHN (R99): High 64 bits of the unsigned 128-bit product. -/
  | mulhn (f : Fields)
  /-- DIVS (R99): Signed division truncated toward zero, with defined results for zero and overflow. -/
  | divs (f : Fields)
  /-- DIVN (R99): Unsigned division, all ones on divide by zero. -/
  | divn (f : Fields)
  /-- REMS (R99): Signed remainder. -/
  | rems (f : Fields)
  /-- REMN (R99): Unsigned remainder. -/
  | remn (f : Fields)
  /-- MIN (R99): Signed minimum. -/
  | min (f : Fields)
  /-- MAX (R99): Signed maximum. -/
  | max (f : Fields)
  /-- MINN (R99): Unsigned minimum. -/
  | minn (f : Fields)
  /-- MAXN (R99): Unsigned maximum. -/
  | maxn (f : Fields)
  /-- ADDI (R99): Add a sign-extended immediate. -/
  | addi (f : Fields)
  /-- ANDI (R99): And with a sign-extended immediate. -/
  | andi (f : Fields)
  /-- ORI (R99): Or with a sign-extended immediate. -/
  | ori (f : Fields)
  /-- XORI (R99): Xor with a sign-extended immediate. -/
  | xori (f : Fields)
  /-- SHLI (R99): Shift left by an immediate count. -/
  | shli (f : Fields)
  /-- SHRI (R99): Logical shift right by an immediate count. -/
  | shri (f : Fields)
  /-- SRAI (R99): Arithmetic shift right by an immediate count. -/
  | srai (f : Fields)
  /-- MULI (R99): Multiply by a sign-extended immediate. -/
  | muli (f : Fields)
  /-- MOV (R102): Copy a scalar register. -/
  | mov (f : Fields)
  /-- MOVI (R102): Write a sign-extended immediate. -/
  | movi (f : Fields)
  /-- MOVHI (R102): Write the immediate into bits 63:32, keeping bits 31:0. -/
  | movhi (f : Fields)
  /-- LEA (R102): d gets a plus b shifted left by k. -/
  | lea (f : Fields)
  /-- SEL (R104): Select A or B by a predicate bit. -/
  | sel (f : Fields)
  /-- SEXT (R102): Sign-extend from bit k. -/
  | sext (f : Fields)
  /-- ZEXT (R102): Zero-extend from bit k. -/
  | zext (f : Fields)
  /-- BFX (R102): Extract a bit field with sign extension. -/
  | bfx (f : Fields)
  /-- BFXN (R102): Extract a bit field with zero extension. -/
  | bfxn (f : Fields)
  /-- BFI (R102): Insert a bit field into d. -/
  | bfi (f : Fields)
  /-- CLZ (R102): Count leading zero bits. -/
  | clz (f : Fields)
  /-- CTZ (R102): Count trailing zero bits. -/
  | ctz (f : Fields)
  /-- POPC (R102): Count one bits. -/
  | popc (f : Fields)
  /-- CMPEQ (R103): Predicate set when A equals B. -/
  | cmpeq (f : Fields)
  /-- CMPNE (R103): Predicate set when A differs from B. -/
  | cmpne (f : Fields)
  /-- CMPLT (R103): Signed less-than compare. -/
  | cmplt (f : Fields)
  /-- CMPLE (R103): Signed less-or-equal compare. -/
  | cmple (f : Fields)
  /-- CMPLTN (R103): Unsigned less-than compare. -/
  | cmpltn (f : Fields)
  /-- CMPLEN (R103): Unsigned less-or-equal compare. -/
  | cmplen (f : Fields)
  /-- TST (R103): Predicate set when A and B share a set bit. -/
  | tst (f : Fields)
  /-- PAND (R103): Predicate and. -/
  | pand (f : Fields)
  /-- POR (R103): Predicate or. -/
  | por (f : Fields)
  /-- PXOR (R103): Predicate xor. -/
  | pxor (f : Fields)
  /-- PANDN (R103): Predicate and-not. -/
  | pandn (f : Fields)
  /-- PNOT (R103): Predicate not. -/
  | pnot (f : Fields)
  /-- PSET (R103): Set a predicate to all ones. -/
  | pset (f : Fields)
  /-- PCLR (R103): Clear a predicate to all zeros. -/
  | pclr (f : Fields)
  /-- PMOV (R103): Copy a predicate. -/
  | pmov (f : Fields)
  /-- BR (R105): Branch to addr plus 2I. -/
  | br (f : Fields)
  /-- JMP (R105): Jump to the address in a register. -/
  | jmp (f : Fields)
  /-- CALL (R105): Write the return address to s31 and branch. -/
  | call (f : Fields)
  /-- CALLR (R105): Call through a register. -/
  | callr (f : Fields)
  /-- RET (R105): Jump to s31. -/
  | ret (f : Fields)
  /-- ENTER (R109): Push a frame header on the frame stack, trapping on overflow. -/
  | enter (f : Fields)
  /-- LEAVE (R110): Pop a frame and restore s31, trapping on a delimiter or torn frame. -/
  | leave (f : Fields)
  /-- LOOP (R105): Decrement a counter and branch while nonzero. -/
  | loop (f : Fields)
  /-- BRZ (R105): Branch when a register is zero. -/
  | brz (f : Fields)
  /-- BRNZ (R105): Branch when a register is nonzero. -/
  | brnz (f : Fields)
  /-- LOOPSET (R106): Start the hardware loop with a count and top address. -/
  | loopset (f : Fields)
  /-- LOOPEND (R106): End of hardware loop body: decrement and branch to top. -/
  | loopend (f : Fields)
  /-- NOP (R105): Does nothing. -/
  | nop (f : Fields)
  /-- FADD (R112): Scalar float add, correctly rounded. -/
  | fadd (f : Fields)
  /-- FSUB (R112): Scalar float subtract. -/
  | fsub (f : Fields)
  /-- FMUL (R112): Scalar float multiply. -/
  | fmul (f : Fields)
  /-- FDIV (R112): Scalar float divide. -/
  | fdiv (f : Fields)
  /-- FSQRT (R112): Scalar float square root. -/
  | fsqrt (f : Fields)
  /-- FMA (R112): Fused multiply-add into the old destination. -/
  | fma (f : Fields)
  /-- FMIN (R112): Scalar float minimum. -/
  | fmin (f : Fields)
  /-- FMAX (R112): Scalar float maximum. -/
  | fmax (f : Fields)
  /-- FNEG (R115): Invert the sign bit. -/
  | fneg (f : Fields)
  /-- FABS (R115): Clear the sign bit. -/
  | fabs (f : Fields)
  /-- FSGN (R115): Magnitude of A with the sign of B. -/
  | fsgn (f : Fields)
  /-- FCMPEQ (R113): Float equality compare into a predicate. -/
  | fcmpeq (f : Fields)
  /-- FCMPLT (R113): Float less-than compare into a predicate. -/
  | fcmplt (f : Fields)
  /-- FCMPLE (R113): Float less-or-equal compare into a predicate. -/
  | fcmple (f : Fields)
  /-- FCLASS (R113): Classify a float into a one-hot scalar. -/
  | fclass (f : Fields)
  /-- FMOV (R115): Copy all 64 bits of an f register. -/
  | fmov (f : Fields)
  /-- FCVT (R114): Convert between float formats with rounding. -/
  | fcvt (f : Fields)
  /-- FCVTI (R114): Convert float to integer with saturation. -/
  | fcvti (f : Fields)
  /-- ICVTF (R114): Convert integer to float with rounding. -/
  | icvtf (f : Fields)
  /-- FMVFS (R115): Move f register bits to an s register. -/
  | fmvfs (f : Fields)
  /-- FMVSF (R115): Move s register bits to an f register. -/
  | fmvsf (f : Fields)
  /-- FSEL (R115): Select between two f registers by a predicate. -/
  | fsel (f : Fields)
  /-- FRND (R112): Round a float to an integral value. -/
  | frnd (f : Fields)
  /-- RESERVED_OPCODE (R50): An unallocated opcode or reserved field value: record the cause, post a fault message and park the core. -/
  | reservedOpcode (code : BitVec 11)
  /-- ILLEGAL_CHAIN (R46): A malformed prefix chain takes the illegal-instruction trap. -/
  | illegalChain
  /-- VADD (R155): Element-wise integer add, wrapping or saturating. -/
  | vadd (f : Fields)
  /-- VSUB (R155): Element-wise integer subtract. -/
  | vsub (f : Fields)
  /-- VMUL (R155): Element-wise integer multiply. -/
  | vmul (f : Fields)
  /-- VMULH (R155): Element-wise high half of the product. -/
  | vmulh (f : Fields)
  /-- VMIN (R155): Element-wise integer minimum. -/
  | vmin (f : Fields)
  /-- VMAX (R155): Element-wise integer maximum. -/
  | vmax (f : Fields)
  /-- VABS (R155): Element-wise absolute value. -/
  | vabs (f : Fields)
  /-- VNEG (R155): Element-wise negation. -/
  | vneg (f : Fields)
  /-- VAND (R155): Element-wise bitwise and. -/
  | vand (f : Fields)
  /-- VOR (R155): Element-wise bitwise or. -/
  | vor (f : Fields)
  /-- VXOR (R155): Element-wise bitwise xor. -/
  | vxor (f : Fields)
  /-- VANDN (R155): Element-wise and-not. -/
  | vandn (f : Fields)
  /-- VSHL (R155): Element-wise shift left. -/
  | vshl (f : Fields)
  /-- VSHR (R155): Element-wise logical shift right. -/
  | vshr (f : Fields)
  /-- VSRA (R155): Element-wise arithmetic shift right. -/
  | vsra (f : Fields)
  /-- VNOT (R155): Element-wise bitwise not. -/
  | vnot (f : Fields)
  /-- VFADD (R157): Element-wise float add. -/
  | vfadd (f : Fields)
  /-- VFSUB (R157): Element-wise float subtract. -/
  | vfsub (f : Fields)
  /-- VFMUL (R157): Element-wise float multiply. -/
  | vfmul (f : Fields)
  /-- VFDIV (R157): Element-wise float divide. -/
  | vfdiv (f : Fields)
  /-- VFMA (R157): Element-wise fused multiply-add into d. -/
  | vfma (f : Fields)
  /-- VFMS (R157): Element-wise old d minus A times B, rounded once. -/
  | vfms (f : Fields)
  /-- VFMIN (R157): Element-wise float minimum. -/
  | vfmin (f : Fields)
  /-- VFMAX (R157): Element-wise float maximum. -/
  | vfmax (f : Fields)
  /-- VFABS (R157): Element-wise float absolute value. -/
  | vfabs (f : Fields)
  /-- VFNEG (R157): Element-wise float negation. -/
  | vfneg (f : Fields)
  /-- VFSQRT (R157): Element-wise square root. -/
  | vfsqrt (f : Fields)
  /-- VRCP (R157): Element-wise reciprocal, correctly rounded. -/
  | vrcp (f : Fields)
  /-- VRSQ (R157): Element-wise reciprocal square root. -/
  | vrsq (f : Fields)
  /-- VEXP2 (R157): Element-wise power of two. -/
  | vexp2 (f : Fields)
  /-- VLOG2 (R157): Element-wise base-2 logarithm. -/
  | vlog2 (f : Fields)
  /-- VSEL (R158): Element-wise select by predicate bits. -/
  | vsel (f : Fields)
  /-- VCMPEQ (R158): Element-wise integer equality into predicate bits. -/
  | vcmpeq (f : Fields)
  /-- VCMPLT (R158): Element-wise integer less-than. -/
  | vcmplt (f : Fields)
  /-- VCMPLE (R158): Element-wise integer less-or-equal. -/
  | vcmple (f : Fields)
  /-- VFCMPEQ (R158): Element-wise float equality. -/
  | vfcmpeq (f : Fields)
  /-- VFCMPLT (R158): Element-wise float less-than. -/
  | vfcmplt (f : Fields)
  /-- VFCMPLE (R158): Element-wise float less-or-equal. -/
  | vfcmple (f : Fields)
  /-- VREDSUM (R159): Integer tree-sum reduction into a scalar. -/
  | vredsum (f : Fields)
  /-- VREDMAX (R159): Integer maximum reduction. -/
  | vredmax (f : Fields)
  /-- VREDMIN (R159): Integer minimum reduction. -/
  | vredmin (f : Fields)
  /-- VFREDSUM (R159): Float tree-sum reduction into an f register. -/
  | vfredsum (f : Fields)
  /-- VFREDMAX (R159): Float maximum reduction. -/
  | vfredmax (f : Fields)
  /-- VFREDMIN (R159): Float minimum reduction. -/
  | vfredmin (f : Fields)
  /-- VPERM (R160): Permute elements of A by indices in B. -/
  | vperm (f : Fields)
  /-- VSLIDE (R160): Take n elements from the concatenation of A and B starting at k. -/
  | vslide (f : Fields)
  /-- VZIP (R160): Interleave halves of A and B. -/
  | vzip (f : Fields)
  /-- VUNZIP (R160): De-interleave A and B. -/
  | vunzip (f : Fields)
  /-- VMOV (R160): Copy a vector register. -/
  | vmov (f : Fields)
  /-- VSPLAT (R160): Broadcast a scalar to every element. -/
  | vsplat (f : Fields)
  /-- VEXT (R160): Extract element k to a scalar or f register. -/
  | vext (f : Fields)
  /-- VINS (R160): Insert a scalar into element k. -/
  | vins (f : Fields)
  /-- VDOT (R163): Format-pair block-scaled dot product per lane accumulated into vd. -/
  | vdot (pair : BitVec 5) (f : Fields)
  /-- VCVTN (R164): Narrow elements from format A into a slice of vd. -/
  | vcvtn (pair : BitVec 5) (f : Fields)
  /-- VCVTW (R165): Widen a slice of va exactly into vd. -/
  | vcvtw (pair : BitVec 5) (f : Fields)
  /-- PUSH (R171): Check and enter a 64-byte command into an engine port, releasing prior stores. -/
  | push (f : Fields)
  /-- POP (R171): Take the oldest completion element, waiting while the FIFO is empty. -/
  | pop (f : Fields)
  /-- POPQ (R171): Take a completion element if any, setting a predicate. -/
  | popq (f : Fields)
  /-- ENGST (R172): Read the context's engine status word at a port. -/
  | engst (f : Fields)
  /-- ENGABORT (R171): Remove unstarted commands and stop the running one with STATUS 0x04. -/
  | engabort (f : Fields)
  /-- SLOTLD (R184): Stage a new matrix slot table and slot length for the next rotation. -/
  | slotld (f : Fields)
  /-- ROWPROG (R181): Read the row progress of the context's matrix queue head. -/
  | rowprog (f : Fields)
  /-- CBLOAD (R186): Enter a codebook-load item into the matrix queue. -/
  | cbload (f : Fields)
  /-- MCMD (R174): Start building a matrix command in a register pair. -/
  | mcmd (f : Fields)
  /-- GCMD (R174): Start building a gather command. -/
  | gcmd (f : Fields)
  /-- XCMD (R174): Start building a copy command. -/
  | xcmd (f : Fields)
  /-- SCMD (R174): Start building a collective command. -/
  | scmd (f : Fields)
  /-- CCMD (R174): Start building a sparsifier command. -/
  | ccmd (f : Fields)
  /-- CMDSET (R174): Write doubleword w of a command pair. -/
  | cmdset (f : Fields)
  /-- CMDVC (R174): Write the VALID field of a command. -/
  | cmdvc (f : Fields)
  /-- CMDADR (R174): Write the address bits of doubleword w. -/
  | cmdadr (f : Fields)
  /-- MMA (R174): Start a matrix multiply command with the pair code, rounding and SAT. -/
  | mma (pair : BitVec 5) (f : Fields)
  /-- MTLD (R193): Load 16 rows of 64 bytes into a tile register. -/
  | mtld (f : Fields)
  /-- MTST (R193): Store 16 tile rows to memory. -/
  | mtst (f : Fields)
  /-- MTMMA (R193): Tile multiply-accumulate by the canonical sum. -/
  | mtmma (f : Fields)
  /-- MTZERO (R193): Clear a tile register. -/
  | mtzero (f : Fields)
  /-- MTADD (R193): Element-wise tile add. -/
  | mtadd (f : Fields)
  /-- MTMOV (R193): Copy one tile register to another. -/
  | mtmov (f : Fields)
  /-- MTMOV_ROW_IN (R193): Write a vector register into row k of a tile. -/
  | mtmovRowIn (f : Fields)
  /-- MTMOV_ROW_OUT (R193): Read row k of a tile into a vector register. -/
  | mtmovRowOut (f : Fields)
  /-- MTCVT (R193): Convert FP32 tile elements to a narrow format. -/
  | mtcvt (f : Fields)
  /-- MTRED (R193): Reduce each tile row into a vector lane. -/
  | mtred (f : Fields)
  /-- LD8 (R201): Load a byte, zero-extended. -/
  | ld8 (f : Fields)
  /-- LD8S (R201): Load a byte, sign-extended. -/
  | ld8s (f : Fields)
  /-- LD16 (R201): Load a halfword, zero-extended. -/
  | ld16 (f : Fields)
  /-- LD16S (R201): Load a halfword, sign-extended. -/
  | ld16s (f : Fields)
  /-- LD32 (R201): Load a word, zero-extended. -/
  | ld32 (f : Fields)
  /-- LD32S (R201): Load a word, sign-extended. -/
  | ld32s (f : Fields)
  /-- LD64 (R201): Load a doubleword. -/
  | ld64 (f : Fields)
  /-- LDF (R201): Load a float into an f register. -/
  | ldf (f : Fields)
  /-- ST8 (R201): Store a byte. -/
  | st8 (f : Fields)
  /-- ST16 (R201): Store a halfword. -/
  | st16 (f : Fields)
  /-- ST32 (R201): Store a word. -/
  | st32 (f : Fields)
  /-- ST64 (R201): Store a doubleword. -/
  | st64 (f : Fields)
  /-- STF (R201): Store a float from an f register. -/
  | stf (f : Fields)
  /-- VLD (R201): Load a whole vector register. -/
  | vld (f : Fields)
  /-- VST (R201): Store a whole vector register. -/
  | vst (f : Fields)
  /-- VLDS (R201): Strided vector element load. -/
  | vlds (f : Fields)
  /-- VSTS (R201): Strided vector element store. -/
  | vsts (f : Fields)
  /-- PF (R203): Prefetch hint for reading. -/
  | pf (f : Fields)
  /-- PFW (R203): Prefetch hint for writing. -/
  | pfw (f : Fields)
  /-- QLD (R202): Queue load of 1 to 8 bytes into ldq. -/
  | qld (f : Fields)
  /-- QST (R202): Queue store of the oldest stq entry. -/
  | qst (f : Fields)
  /-- QVLD (R202): Queue load of 32 bytes into ldq. -/
  | qvld (f : Fields)
  /-- CHUNK_END (R208): End the current chunk after this instruction. -/
  | chunkEnd (f : Fields)
  /-- FENCE (R209): Wait until earlier accesses are visible at the scope. -/
  | fence (f : Fields)
  /-- AMOADD (R204): Atomic add, optionally saturating. -/
  | amoadd (f : Fields)
  /-- AMOAND (R204): Atomic and. -/
  | amoand (f : Fields)
  /-- AMOOR (R204): Atomic or. -/
  | amoor (f : Fields)
  /-- AMOXOR (R204): Atomic xor. -/
  | amoxor (f : Fields)
  /-- AMOMIN (R204): Atomic signed minimum. -/
  | amomin (f : Fields)
  /-- AMOMAX (R204): Atomic signed maximum. -/
  | amomax (f : Fields)
  /-- AMOMINN (R204): Atomic unsigned minimum. -/
  | amominn (f : Fields)
  /-- AMOMAXN (R204): Atomic unsigned maximum. -/
  | amomaxn (f : Fields)
  /-- AMOSWP (R204): Atomic swap. -/
  | amoswp (f : Fields)
  /-- AMOCAS (R204): Atomic compare and swap. -/
  | amocas (f : Fields)
  /-- MARK (R299): Plant a tagged delimiter on the frame stack. -/
  | mark (f : Fields)
  /-- CUT (R303): Copy frames above the innermost tagged delimiter into a slice and resume at the delimiter. -/
  | cut (f : Fields)
  /-- GRAFT (R306): Check, claim and lay a slice onto the stack and resume it. -/
  | graft (f : Fields)
  /-- SLFREE (R308): Mark a slice freed. -/
  | slfree (f : Fields)
  /-- SLINFO (R309): Report a slice's header or the size a cut would need. -/
  | slinfo (f : Fields)
  /-- UNMARK (R299): Pop a delimiter and return its G and TAG. -/
  | unmark (f : Fields)
  /-- BAR (R259): Arrive at the domain's barrier rendezvous. -/
  | bar (f : Fields)
  /-- VOTE_ALL (R262): Vote rendezvous giving the and of participants' bits. -/
  | voteAll (f : Fields)
  /-- VOTE_ANY (R262): Vote rendezvous giving the or of participants' bits. -/
  | voteAny (f : Fields)
  /-- VOTE_SUM (R262): Vote rendezvous giving the sum of participants' values. -/
  | voteSum (f : Fields)
  /-- WAIT (R257): Stall until an arrival counter reaches a threshold and return its word. -/
  | wait (f : Fields)
  /-- ARRIVE (R218): Count one arrival on a counter of masked cluster cores at commit. -/
  | arrive (f : Fields)
  /-- TRIG (R75): Add one to a trigger counter at commit or barrier release. -/
  | trig (f : Fields)
  /-- TTSEL (R266): Select a timetable slot from the last vote result. -/
  | ttsel (f : Fields)
  /-- TTLD (R266): Check and load a timetable image into slot k. -/
  | ttld (f : Fields)
  /-- TTGO (R266): Arm the selected timetable slot for the next release. -/
  | ttgo (f : Fields)
  /-- TTST (R266): Wait for the router to be idle and read TT.STAT. -/
  | ttst (f : Fields)
  /-- CCLR (R257): Clear an arrival counter at commit. -/
  | cclr (f : Fields)
  /-- SPLIT (R93): Let a fused gang's members continue independently. -/
  | split (f : Fields)
  /-- FUSE (R93): Wait for every gang member's fuse and refuse or trap on divergence. -/
  | fuse (f : Fields)
  /-- TRAP (R119): Software trap: enter the handler or take a precise trap. -/
  | trap (f : Fields)
  /-- RTE (R120): Return from a software-trap handler. -/
  | rte (f : Fields)
  /-- CSRR (R121): Read a control register. -/
  | csrr (f : Fields)
  /-- CSRW (R121): Write a control register field by field at commit; the generic row for registers without behaviour of their own. -/
  | csrw (f : Fields)
  /-- CSRS (R121): Set bits in RW fields of a control register. -/
  | csrs (f : Fields)
  /-- CSRC (R121): Clear bits in RW fields of a control register. -/
  | csrc (f : Fields)
  /-- TLBW (R226): Firmware answers a miss by installing an entry and resuming or faulting the requester. -/
  | tlbw (f : Fields)
  /-- TLBINV (R233): Firmware shoot-down of TLB entries, waiting for every acknowledgement. -/
  | tlbinv (f : Fields)
  /-- START (R88): Start a helper context at commit. -/
  | start (f : Fields)
  /-- JOIN (R89): Wait for a helper to end and take its result. -/
  | join (f : Fields)
  /-- PARK (R124): End the context once its earlier effects have committed. -/
  | park (f : Fields)
  /-- JENQ (R73): Check a card and stage it onto a device-fed queue. -/
  | jenq (f : Fields)
  /-- WORKQ (R85): Post a query for the next chunk of the context's card. -/
  | workq (f : Fields)
  /-- BRK (R119): Breakpoint precise trap. -/
  | brk (f : Fields)
  /-- RESTR_PUT (R243): Offer a block to the parent over the up-link. -/
  | restrPut (f : Fields)
  /-- RESTR_COLLECT (R244): Collect children's blocks and write weighted sum, max or min outputs. -/
  | restrCollect (f : Fields)
  /-- PROLG_ADD (R245): Take the parent's offer and add its interpolation into the own block. -/
  | prolgAdd (f : Fields)
  /-- PROLG_PUT (R245): Offer coarse elements to the named children. -/
  | prolgPut (f : Fields)
  /-- RESTRF (R249): Fold restriction within the core's TCM, raising LEVEL.CUR. -/
  | restrf (f : Fields)
  /-- PROLGF (R249): Fold prolongation within the core's TCM, lowering LEVEL.CUR. -/
  | prolgf (f : Fields)
  /-- RWLD (R251): Load a restrict weight set. -/
  | rwld (f : Fields)
  /-- PWLD (R251): Load a prolong weight set. -/
  | pwld (f : Fields)
  /-- WSEL (R251): Select the active weight sets at commit. -/
  | wsel (f : Fields)
  /-- LAYQ (R252): Query the core's layer place or pending link offers. -/
  | layq (f : Fields)
  /-- MATRIX_MUL (R177): Matrix command OP 0 computes and writes C row by row. -/
  | matrixMul (core : CoreId) (ctx : Nat)
  /-- MATRIX_CLEAR (R177): Matrix command OP 1 writes zeros to rows of C. -/
  | matrixClear (core : CoreId) (ctx : Nat)
  /-- MATRIX_MARKER (R177): Matrix command OP 2 completes in queue order. -/
  | matrixMarker (core : CoreId) (ctx : Nat)
  /-- CODEBOOK_ITEM (R186): A cbload item reaching the queue head replaces the matrix codebook. -/
  | codebookItem (core : CoreId) (ctx : Nat)
  /-- GATHER (R187): Gather command copies indexed rows to a destination. -/
  | gather (core : CoreId) (ctx : Nat)
  /-- GMUL (R188): Fused gather multiply over indexed k-chunks with an order-independent tree. -/
  | gmul (core : CoreId) (ctx : Nat)
  /-- COPY (R212): Copy channel operation copying rows in order. -/
  | copy (clus ch : Nat)
  /-- MCAST (R212): Copy channel operation multicasting rows to masked destinations. -/
  | mcast (clus ch : Nat)
  /-- FILL (R212): Copy channel operation filling rows with a pattern. -/
  | fill (clus ch : Nat)
  /-- TOPK (R271): Sparsifier command keeping the k largest magnitudes per block. -/
  | topk (core : CoreId) (ctx : Nat)
  /-- CSUM (R272): Collective engine command combining buffers element by element. -/
  | csum (core : CoreId) (ctx : Nat)
  /-- ENGINE_COMPLETION (R170): A finished engine or channel command delivers its element and counter increment. -/
  | engineCompletion (core : CoreId) (ctx port : Nat)
  /-- ROTATION_BEGIN (R183): The matrix unit begins a slot rotation, applying any staged slot table. -/
  | rotationBegin (core : CoreId)
  /-- ACCESS_HALF_ISSUE (R127): The L0 access half issues a queue instruction ahead of the execute half. -/
  | accessHalfIssue (core : CoreId) (ctx : Nat)
  /-- LDQ_ENTRY_ARRIVAL (R128): A queue load's data lands in ldq. -/
  | ldqEntryArrival (core : CoreId) (ctx : Nat)
  /-- CONTEXT_READY (R129): A stalled context's condition holds and it becomes ready for the pipe. -/
  | contextReady (core : CoreId) (ctx : Nat)
  /-- CHUNK_COMMIT (R207): A chunk asks its homes' arbiters for commit and its stores become visible or it is squashed. -/
  | chunkCommit (core : CoreId) (ctx : Nat)
  /-- QUEUE_ENABLE (R66): A doorbell with ENW 1 and ENV 1 enables a queue, possibly deferred. -/
  | queueEnable (q : Nat) (tailw : BitVec 31)
  /-- QUEUE_ENABLE_DEFERRED (R66): A waiting enable takes effect once HEAD equals TAIL. -/
  | queueEnableDeferred (q : Nat)
  /-- QUEUE_DISABLE (R66): A doorbell with ENW 1 and ENV 0 disables a queue and refuses undealt cards. -/
  | queueDisable (q : Nat) (tailw : BitVec 31)
  /-- TAIL_UPDATE (R66): A doorbell publishes a new TAIL, or sets ERR and disables on a bad value. -/
  | tailUpdate (q : Nat) (tailw : BitVec 31)
  /-- COMPLETION_DOORBELL (R66): A CDB write sets CHEAD, freeing completion entries. -/
  | completionDoorbell (q : Nat) (chead : W32)
  /-- TRIGGER_COUNTER_WRITE (R66): The host writes a trigger counter through the doorbell block. -/
  | triggerCounterWrite (k : Nat) (v : W32)
  /-- CARD_FETCH (R66): The distributor reads a published card and applies the enqueue checks. -/
  | cardFetch (q : Nat)
  /-- QUANTUM_BOUNDARY (R69): At a quantum boundary the oldest slots are released and refilled from the waiting list. -/
  | quantumBoundary (layer : Nat)
  /-- TRIGGER_FIRE (R74): A head card's trigger threshold is met; the counter is reduced and the card becomes dealable. -/
  | triggerFire (q : Nat)
  /-- DEALING_ROUND (R83): A distributor round deals chunks and places contexts, gangs, pairs or sections. -/
  | dealingRound (layer : Nat)
  /-- CYCLE_SECTION_START (R30): A higher-layer section of a cycle program starts once context 0 is free. -/
  | cycleSectionStart (card : Nat) (core : CoreId)
  /-- WORKQ_ANSWER (R86): The distributor writes a chunk or end token answer and counts an arrival. -/
  | workqAnswer (core : CoreId) (ctx : Nat)
  /-- SPALLOC_ALLOCATE (R94): The scratchpad allocator serves an allocate request. -/
  | spallocAllocate (core : CoreId) (ctx : Nat)
  /-- SPALLOC_FREE (R95): The scratchpad allocator serves a free request, deferred in phased cards. -/
  | spallocFree (core : CoreId) (ctx : Nat)
  /-- SPALLOC_RES_READ (R95): A read of SPALLOC.RES waits for the context's latest request result. -/
  | spallocResRead (core : CoreId) (ctx : Nat)
  /-- WATCHDOG_PREEMPT (R79): LIM1 reached: request pre-emption of the card. -/
  | watchdogPreempt (card : Nat)
  /-- WATCHDOG_KILL (R79): LIM2 reached: stop and free the card with STATUS 0x20. -/
  | watchdogKill (card : Nat)
  /-- WATCHDOG_FENCE (R79): LIM3 reached: fence cores still holding the card's contexts. -/
  | watchdogFence (card : Nat)
  /-- IMAGE_LOAD (R37): The boot core selects a variant and enters its cards on the boot queues. -/
  | imageLoad (addr : Nat) (load : VAddr) (asid : BitVec 16)
  /-- VARIANT_RESELECTION (R37): A change of DEFECT.SIG reruns variant selection for loaded images. -/
  | variantReselection
  /-- CARD_RETIREMENT (R366): Once every context ends, the card's commits, frees and compare run in order. -/
  | cardRetirement (card : Nat)
  /-- COMPLETION_RECORD_WRITE (R67): A card's completion record is written in order when flow control allows, and HEAD advances. -/
  | completionRecordWrite (q : Nat)
  /-- FINAL_COMMIT (R364): The last park of a phased domain's contexts discards journals and releases exports. -/
  | finalCommit (dom : Nat)
  /-- CONTEXT_END (R124): A parked context ends once its queries, helpers and commands have completed. -/
  | contextEnd (core : CoreId) (ctx : Nat)
  /-- MISS_MESSAGE (R225): A TLB miss message is taken whole into a mailbox. -/
  | missMessage (core : CoreId) (ctx unit : Nat)
  /-- STAGE2_FAULT_RECORD (R230): A stage-2 fault record is posted to the boot core. -/
  | stage2FaultRecord (x : Stage2Fault)
  /-- LEASE_EXPIRY (R231): An L0 TLB entry's lease expires. -/
  | leaseExpiry (core : CoreId) (entry : Nat)
  /-- SHOOTDOWN_MESSAGE (R233): A shoot-down arrives at a core and removes matching entries. -/
  | shootdownMessage (core : CoreId)
  /-- SHOOTDOWN_ACK (R233): A core acknowledges a shoot-down once its accesses through removed entries are done. -/
  | shootdownAck (core : CoreId)
  /-- WAKE_TLB_INVALIDATE (R234): A gated upper core invalidates its TLB on waking. -/
  | wakeTlbInvalidate (core : CoreId)
  /-- LINK_RENDEZVOUS (R247): A link put and collect or put and add pair up and complete. -/
  | linkRendezvous (parent : CoreId)
  /-- BARRIER_COMMIT (R259): All barrier conditions hold: journals discarded, exports released, superstep advanced. -/
  | barrierCommit (dom : Nat)
  /-- BARRIER_RELEASE (R260): Release of a committed barrier on one delay-matched edge. -/
  | barrierRelease (dom : Nat)
  /-- VOTE_COMMIT (R262): A vote rendezvous completes and delivers the combined result. -/
  | voteCommit (dom : Nat)
  /-- FABRIC_TOKEN (R261): A fabric barrier token arrives on a Quekin port. -/
  | fabricToken (port : Nat) (num : W32)
  /-- TT_SEND_ENTRY (R268): A timetable send entry drives its words on its offset cycles. -/
  | ttSendEntry (core : CoreId) (entry : Nat)
  /-- TT_RECEIVE_ENTRY (R268): A timetable receive entry takes and combines arriving words. -/
  | ttReceiveEntry (core : CoreId) (entry : Nat)
  /-- TT_FORWARD_ENTRY (R268): A timetable forward entry combines and resends words. -/
  | ttForwardEntry (core : CoreId) (entry : Nat)
  /-- TT_LOST_WORD (R269): A word arrives with no entry to take it and is dropped. -/
  | ttLostWord (core : CoreId) (dir : Nat)
  /-- QUEKIN_FLIT (R273): A Quekin flit arrives and is applied or buffered. -/
  | quekinFlit (port peer stream : Nat) (words : List W32)
  /-- FILLER_DISPLACEMENT (R275): A non-filler chunk pre-empts filler contexts on a core. -/
  | fillerDisplacement (core : CoreId)
  /-- MAILBOX_HELD_ENTRY (R314): A held message enters the mailbox when an entry frees. -/
  | mailboxHeldEntry (core : CoreId)
  /-- MBOX_POP (R315): Firmware removes the oldest mailbox message. -/
  | mboxPop (core : CoreId)
  /-- CTX_RESUME (R316): A trapped context continues at TRAP.EPC. -/
  | ctxResume (firmware : CoreId) (target : W32)
  /-- CTX_DELIVER (R316): A stopped context enters its software-trap handler. -/
  | ctxDeliver (firmware : CoreId) (target : W32)
  /-- CTX_KILL (R316): A context's card ends with STATUS 0x25. -/
  | ctxKill (firmware : CoreId) (target : W32)
  /-- CTX_UNPARK (R316): A parked core's contexts except the offender become ready. -/
  | ctxUnpark (firmware : CoreId) (target : W32)
  /-- CTX_ROLLBACK (R316): Firmware rolls back a context's domain. -/
  | ctxRollback (firmware : CoreId) (target : W32)
  /-- CTX_PREEMPT (R316): Firmware pre-empts a context's card. -/
  | ctxPreempt (firmware : CoreId) (target : W32)
  /-- UNCORRECTABLE_ERROR (R318): A memory word fails correction and its line is marked poisoned. -/
  | uncorrectableError (u : ErrUnit)
  /-- PAIR_MISMATCH (R322): Redundant copies differ at the merge router; both stop and the domain rolls back. -/
  | pairMismatch (entry : Nat)
  /-- MERGE_TIMEOUT (R321): An effect waits 4,096 cycles alone at the merge router and counts as a mismatch. -/
  | mergeTimeout (entry : Nat)
  /-- ROLLBACK (R328): The rollback controllers close, stop, discard, restore and release a set of domains. -/
  | rollback (dom : Nat)
  /-- PREEMPTION (R331): A card's contexts stop and their state is saved to a save area. -/
  | preemption (card : Nat)
  /-- PREEMPTION_RESUME (R332): A saved card is resumed once a core and its blocks are free. -/
  | preemptionResume (card : Nat) (core : CoreId)
  /-- CKPT_SEAL (R339): Seal operation pre-empts, checks quotes, streams and commits an encrypted image. -/
  | ckptSeal
  /-- CKPT_RESTORE (R344): Restore operation opens, checks and writes back a sealed image. -/
  | ckptRestore
  /-- CKPT_BIND (R334): Bind operation fills a tenant slot from a policy record. -/
  | ckptBind
  /-- CKPT_QUOTE (R338): Quote operation writes a signed attestation quote. -/
  | ckptQuote
  /-- CKPT_COMMIT_MESSAGE (R343): A peer receives a signed commit and records the counter. -/
  | ckptCommitMessage (tm : List Byte) (counter : Dword) (signed sig akpub akcert : List Byte)
  /-- CKPT_ACK_TIMEOUT (R343): Missing commit acknowledgements after 1 s end the seal with CODE 0x13. -/
  | ckptAckTimeout
  /-- INTERVAL_BOUNDARY (R350): At each accounting interval the die refills and walks boost permits. -/
  | intervalBoundary (meas demand energy : Nat)
  /-- PTP_MESSAGE (R346): An IEEE 1588 message disciplines device time. -/
  | ptpMessage (time : Dword) (domain : Byte)
  /-- TELEMETRY_RECORD (R354): Every 256 intervals a telemetry datagram is sent. -/
  | telemetryRecord
  /-- TEL_ENERGY_READ (R347): A read of TEL.ENERGY also latches the matching TEL.STAMP. -/
  | telEnergyRead (core : CoreId) (ctx : Nat)
  /-- CL_QUIESCE (R356): CL.CTL command 1 starts quiescing a cluster. -/
  | clQuiesce
  /-- CL_SAVE (R356): CL.CTL command 2 saves the cluster's registers to retention. -/
  | clSave
  /-- CL_CLKOFF (R356): CL.CTL command 3 stops the cluster clock. -/
  | clClkoff
  /-- CL_RAILOFF (R356): CL.CTL command 4 turns the cluster rail off. -/
  | clRailoff
  /-- CL_WAKE (R356): A CL.WAKE write returns the cluster toward ON or is latched. -/
  | clWake
  /-- QUIESCE_DONE (R358): The quiescing conditions hold and the cluster becomes QUIESCED. -/
  | quiesceDone (clus : Nat)
  /-- SAVE_DONE (R356): The 1,024-cycle save ends and the cluster becomes SAVED. -/
  | saveDone (clus : Nat)
  /-- CLOCK_STOPPED (R358): The cluster clock has stopped. -/
  | clockStopped (clus : Nat)
  /-- RAIL_OFF (R358): The cluster rail is off. -/
  | railOff (clus : Nat)
  /-- WAKE_DONE (R356): Ramp, retention restore and zeroing end and the cluster is ON. -/
  | wakeDone (clus : Nat)
  /-- DEVICE_RESET (R372): Reset starts the boot core and clears readiness. -/
  | deviceReset
  /-- FUNCTION_READY (R372): A function finishes bring-up and sets its readiness bit. -/
  | functionReady (fn : Function)
  /-- FAULT_MESSAGE (R314): A 32-byte fault message from a trapping, parked, error-consuming or mismatching context arrives and is taken whole into its mailbox target. -/
  | faultMessage (core : CoreId) (ctx : Nat)
  /-- CORRECTED_ERROR (R318): A memory corrects a single-bit error in place and counts it in ERR.CNT.CORR and the corrected-error event counter. -/
  | correctedError (u : ErrUnit)
  /-- HOLDOVER_ENTRY (R346): Device time loses its IEEE 1588 master and runs from the local oscillator, with PTP.STAT.STATE reading holdover. -/
  | holdoverEntry
  /-- QUEKIN_LINK_ERROR (R273): A Quekin link error sets ERR on the counter of the entry that uses the port. -/
  | quekinLinkError (port : Nat)
  /-- CLOCK_RESTART (R356): After a WAKE in state CLKOFF, the restarted cluster clock reaches ON 16 reference cycles later. -/
  | clockRestart (clus : Nat)
  /-- COMMIT_ACKNOWLEDGEMENT (R343): A peer's acknowledgement of a seal commit arrives, sets ACK bit 4 + i, and sets DONE with CODE 0x00 once every acknowledgement has come. -/
  | commitAcknowledgement (env : Nat)
  deriving DecidableEq, Repr

end Sys2Proof
end

