-- ==== Sys2Proof/Machine/Forms.lean ====
section
/-! DEFINITION. The forms of the instructions: which fields each one uses, what each field may hold, on which cores it
exists, and where it ends its chunk (R49 step 4, R98, R154, R161, R164, R171, R174, R192, R199, R242, R257, R266, R298). -/

namespace Sys2Proof

/-- What a register field names. -/
inductive Use where
  /-- the field must be 0 -/
  | zero
  /-- a scalar, float, vector, even vector, predicate or tile register -/
  | s | f | v | vEven | p | m
  /-- a plain number below a bound (a port, a counter) -/
  | num (below : Nat)
  /-- one of a list of codes -/
  | codes (l : List Nat)
  deriving DecidableEq, Repr

/-- What the immediate prefixes carry (R45). -/
inductive ImmUse where
  | none | signed
  | unsigned (lo hi : Nat)
  deriving DecidableEq, Repr

/-- How a register prefix's predicate acts (R42, R98, R152). -/
inductive GuardUse where
  | scalar | elementwise | selector
  deriving DecidableEq, Repr

/-- Where an instruction ends its chunk (R207). -/
inductive Ends where
  | no | before | holding | both
  deriving DecidableEq, Repr

def Ends.isBefore : Ends → Bool | .before => true | .both => true | _ => false
def Ends.isHolding : Ends → Bool | .holding => true | .both => true | _ => false

def onAll : List CoreKind := [.l0, .l1, .l2, .l3, .boot, .service]

/-- The form of an instruction. -/
structure Form where
  layers : List CoreKind := onAll
  dst : Use := .zero
  src : Use := .zero
  tsrc : Use := .zero
  /-- two sources, with the short form of R59 -/
  short : Bool := false
  /-- the register prefix is required (R59) or refused (R93) -/
  needReg : Bool := false
  noReg : Bool := false
  aux : List Nat := [0]
  imm : ImmUse := .none
  fmts : List Nat := [0]
  rnds : List Nat := [0]
  sats : List Nat := [0]
  scopes : List Nat := [0]
  guard : GuardUse := .scalar
  /-- the destination field is read, so queue mode with number 0 is illegal; queue mode is illegal altogether -/
  dstRead : Bool := false
  noQueue : Bool := false
  ends : Ends := .no
  /-- entries of ldq that SRC takes in queue mode -/
  srcQueue : Nat := 1
  paged : Bool := true

/-- The vector width in bits of a kind of core (R60, R395). -/
def CoreKind.vwidth : CoreKind → Nat | .l0 => 256 | _ => 512

/-- The predicate width in bits (R60). -/
def CoreKind.pwidth : CoreKind → Nat | .l0 => 32 | _ => 64

/-- The unsigned immediate I (R45). -/
def Fields.immU (f : Fields) : Nat := f.imm.foldl (fun a x => a * 2048 + x.toNat) 0

/-- The immediate's width, 11 bits a prefix. -/
def Fields.immBits (f : Fields) : Nat := 11 * f.imm.length

/-- The signed immediate; 0 with no prefix (R45). -/
def Fields.immS (f : Fields) : Int :=
  if f.imm = [] then 0
  else if f.immU < 2 ^ (f.immBits - 1) then f.immU else (f.immU : Int) - 2 ^ f.immBits

/-- The full register numbers (R42). -/
def Fields.dstN (f : Fields) : Nat := f.dst.toNat + (match f.reg with | some r => if r.dhi then 16 else 0 | none => 0)
def Fields.srcN (f : Fields) : Nat := f.src.toNat + (match f.reg with | some r => if r.shi then 16 else 0 | none => 0)
def Fields.tsrcN (f : Fields) : Nat := match f.reg with | some r => r.tsrc.toNat | none => 0

def Fields.fmt (f : Fields) : Nat := match f.mod with | some m => m.fmt.toNat | none => 0
def Fields.rnd (f : Fields) : Nat := match f.mod with | some m => m.rnd.toNat | none => 0
def Fields.scope (f : Fields) : Nat := match f.mod with | some m => m.scope.toNat | none => 0
def Fields.sat (f : Fields) : Bool := match f.mod with | some m => m.sat | none => false

/-- PSEL = 0 with PNEG = 1 (R43). -/
def Fields.qpair (f : Fields) : Bool := match f.reg with | some r => r.pneg && r.psel.toNat == 0 | none => false

/-- The number of halfwords of the chain, the base word and a page prefix counted (R46). -/
def Fields.chainLen (f : Fields) (paged : Bool) : Nat :=
  (if paged then 1 else 0) + (if f.reg.isSome then 1 else 0) + (if f.mod.isSome then 1 else 0) + f.imm.length + 1

/-- Whether a number is one the field may hold. A field that the instruction does not have holds 0: R49 asks this of TSRC and AUX, and of DST
and SRC too it is the model's choice (DESIGN CHOICE, log 96). -/
def Use.ok : Use → Nat → Bool
  | .zero, n => n == 0
  | .s, n => n < 32
  | .f, n => n < 16
  | .v, n => n < 32
  | .vEven, n => n < 32 && n % 2 == 0
  | .p, n => n < 8
  | .m, n => n < 8
  | .num b, n => n < b
  | .codes l, n => l.contains n

/-- A field that queue mode can turn into ldq or stq (R43). -/
def Use.queued : Use → Bool | .s => true | .v => true | .vEven => true | _ => false

/-- Whether a form accepts a modifier prefix at all: one whose four fields can only be 0 accepts none, not even a prefix of zeros (R49, R165,
R192; DESIGN CHOICE, log 97). -/
def Form.takesMod (fm : Form) : Bool :=
  fm.fmts != [0] || fm.rnds != [0] || fm.sats != [0] || fm.scopes != [0]

/-- Whether the immediate is within limits. -/
def ImmUse.ok : ImmUse → Fields → Bool
  | .none, f => f.imm == []
  | .signed, _ => true
  | .unsigned lo hi, f => lo ≤ f.immU && f.immU ≤ hi

/-- Step 4 of R49, except the limits that depend on the layer's vector width: those are `Form.legal`'s caller's. Unused DST and SRC: log 96. -/
def Form.fieldsOk (fm : Form) (f : Fields) : Bool :=
  fm.dst.ok f.dstN && fm.src.ok f.srcN
  && (if fm.short && f.reg.isNone then true else fm.tsrc.ok f.tsrcN)
  && (!fm.needReg || f.reg.isSome) && (!fm.noReg || f.reg.isNone)
  && fm.aux.contains f.aux.toNat && fm.imm.ok f
  && (f.mod.isNone || fm.takesMod)
  && fm.fmts.contains f.fmt && fm.rnds.contains f.rnd && fm.scopes.contains f.scope
  && fm.sats.contains (if f.sat then 1 else 0)

/-- Queue mode is legal: only on L0, not where the form forbids it, and not with a destination it reads named stq. -/
def Form.queueOk (fm : Form) (k : CoreKind) (f : Fields) : Bool :=
  !f.qpair || (k == .l0 && !fm.noQueue && !(fm.dstRead && f.dstN == 0))

/-- R49 step 4. -/
def Form.legal (fm : Form) (k : CoreKind) (f : Fields) : Bool :=
  fm.layers.contains k && fm.fieldsOk f && fm.queueOk k f

/-- How many ldq entries the instruction takes (R43). -/
def Form.ldqNeed (fm : Form) (f : Fields) : Nat :=
  if f.qpair then
    (if fm.src.queued && f.srcN == 0 then fm.srcQueue else 0) + (if fm.tsrc.queued && f.tsrcN == 0 then 1 else 0)
  else 0

/-- Whether the destination is stq (R43). -/
def Form.stqDst (fm : Form) (f : Fields) : Bool := f.qpair && fm.dst.queued && !fm.dstRead && f.dstN == 0

namespace Forms

/-- R98: two-source integer -/
def alu : Form := { dst := .s, src := .s, tsrc := .s, short := true, paged := false }
/-- R98, R100 -/
def aluFmt : Form := { dst := .s, src := .s, tsrc := .s, short := true, fmts := [0, 11, 12], sats := [0, 1], paged := false }
/-- R98 -/
def aluImm : Form := { dst := .s, src := .s, imm := .signed, paged := false }
/-- R98, R100 -/
def aluImmFmt : Form := { dst := .s, src := .s, imm := .signed, fmts := [0, 11, 12], sats := [0, 1], paged := false }
/-- R98 -/
def shiftImm : Form := { dst := .s, src := .s, imm := .unsigned 0 63, paged := false }
/-- R98 -/
def unary : Form := { dst := .s, src := .s, paged := false }
/-- R98: (len − 1) × 64 + pos; the further limit pos + len ≤ 64 is `fieldOk` -/
def field : Form := { dst := .s, src := .s, imm := .unsigned 0 4095, paged := false }
/-- R98 -/
def moviF : Form := { dst := .s, imm := .signed, paged := false }
/-- R98 -/
def movhiF : Form := { dst := .s, imm := .unsigned 0 4294967295, paged := false }
/-- R98 -/
def leaF : Form := { dst := .s, src := .s, tsrc := .s, needReg := true, imm := .unsigned 0 6, paged := false }
/-- R98 -/
def selF : Form := { dst := .s, src := .s, tsrc := .s, needReg := true, guard := .selector, paged := false }
/-- R98 -/
def cmp : Form := { dst := .p, src := .s, tsrc := .s, needReg := true, paged := false }
/-- R98 -/
def pred2 : Form := { dst := .p, src := .p, tsrc := .p, short := true, paged := false }
/-- R98 -/
def pred1 : Form := { dst := .p, src := .p, paged := false }
/-- R98 -/
def pred0 : Form := { dst := .p, paged := false }
/-- R105 -/
def branch : Form := { imm := .signed, paged := false }
/-- R105 -/
def branchOn : Form := { src := .s, imm := .signed, paged := false }
/-- R105 -/
def loopF : Form := { dst := .s, imm := .signed, paged := false }
/-- R105 -/
def jump : Form := { src := .s, paged := false }
/-- R105 -/
def bare : Form := { paged := false }
/-- R109 -/
def enterF : Form := { src := .s, imm := .unsigned 1 2047, paged := false }
/-- R112 -/
def fop2 : Form := { dst := .f, src := .f, tsrc := .f, short := true, fmts := [0, 1, 2, 3, 4], rnds := [0, 1, 2, 3, 4], paged := false }
/-- R112 -/
def fop1 : Form := { dst := .f, src := .f, fmts := [0, 1, 2, 3, 4], rnds := [0, 1, 2, 3, 4], paged := false }
/-- R112 -/
def fmaF : Form := { dst := .f, src := .f, tsrc := .f, needReg := true, fmts := [0, 1, 2, 3, 4], rnds := [0, 1, 2, 3, 4], paged := false }
/-- R112, R115 -/
def fop2n : Form := { dst := .f, src := .f, tsrc := .f, short := true, fmts := [0, 1, 2, 3, 4], paged := false }
/-- R113 -/
def fcmp : Form := { dst := .p, src := .f, tsrc := .f, needReg := true, fmts := [0, 1, 2, 3, 4], paged := false }
/-- R113 -/
def fclassF : Form := { dst := .s, src := .f, needReg := true, fmts := [0, 1, 2, 3, 4], paged := false }
/-- R114 -/
def fcvtF : Form := { dst := .f, src := .f, tsrc := .codes [0, 1, 2, 3, 4], fmts := [0, 1, 2, 3, 4], rnds := [0, 1, 2, 3, 4], paged := false }
/-- R114 -/
def fcvtiF : Form := { dst := .s, src := .f, needReg := true, tsrc := .codes [0, 11, 12], fmts := [0, 1, 2, 3, 4], rnds := [0, 1, 2, 3, 4], paged := false }
/-- R114 -/
def icvtfF : Form := { dst := .f, src := .s, needReg := true, tsrc := .codes [0, 11, 12], fmts := [0, 1, 2, 3, 4], rnds := [0, 1, 2, 3, 4], paged := false }
/-- R115 -/
def fsign : Form := { dst := .f, src := .f, fmts := [0, 1, 2, 3, 4], paged := false }
/-- R115 -/
def fmovF : Form := { dst := .f, src := .f, paged := false }
/-- R115 -/
def fmvfsF : Form := { dst := .s, src := .f, needReg := true, paged := false }
/-- R115 -/
def fmvsfF : Form := { dst := .f, src := .s, needReg := true, paged := false }
/-- R115 -/
def fselF : Form := { dst := .f, src := .f, tsrc := .f, needReg := true, fmts := [0, 1, 2, 3, 4], guard := .selector, paged := false }
/-- R154 -/
def vint2s : Form := { fmts := [0, 11, 12, 13], sats := [0, 1], dst := .v, src := .v, tsrc := .v, short := true, guard := .elementwise }
/-- R154 -/
def vint2 : Form := { fmts := [0, 11, 12, 13], dst := .v, src := .v, tsrc := .v, short := true, guard := .elementwise }
/-- R154 -/
def vint1 : Form := { dst := .v, src := .v, fmts := [0, 11, 12, 13], sats := [0, 1], guard := .elementwise }
/-- R154 -/
def vbit2 : Form := { fmts := [0, 1, 2, 3, 4, 5, 6, 11, 12, 13], dst := .v, src := .v, tsrc := .v, short := true, guard := .elementwise }
/-- R154 -/
def vbit1 : Form := { dst := .v, src := .v, fmts := [0, 1, 2, 3, 4, 5, 6, 11, 12, 13], guard := .elementwise }
/-- R154 -/
def vflt2 : Form := { fmts := [0, 1, 2, 3, 4], rnds := [0, 1, 2, 3, 4], dst := .v, src := .v, tsrc := .v, short := true, guard := .elementwise }
/-- R154, R153 -/
def vflt3 : Form := { dst := .v, src := .v, tsrc := .v, needReg := true, fmts := [0, 1, 2, 3, 4], rnds := [0, 1, 2, 3, 4], dstRead := true, guard := .elementwise }
/-- R154 -/
def vflt2n : Form := { fmts := [0, 1, 2, 3, 4], dst := .v, src := .v, tsrc := .v, short := true, guard := .elementwise }
/-- R154 -/
def vflt1n : Form := { dst := .v, src := .v, fmts := [0, 1, 2, 3, 4], guard := .elementwise }
/-- R154 -/
def vflt1 : Form := { dst := .v, src := .v, fmts := [0, 1, 2, 3, 4], rnds := [0, 1, 2, 3, 4], guard := .elementwise }
/-- R154, R157 -/
def vtrans : Form := { dst := .v, src := .v, fmts := [0, 2, 3, 4], rnds := [0, 1, 2, 3, 4], guard := .elementwise }
/-- R154 -/
def vselF : Form := { dst := .v, src := .v, tsrc := .v, needReg := true, fmts := [0, 1, 2, 3, 4, 5, 6, 11, 12, 13], guard := .selector }
/-- R154 -/
def vcmp : Form := { dst := .p, src := .v, tsrc := .v, needReg := true, fmts := [0, 11, 12, 13], guard := .elementwise }
/-- R154 -/
def vfcmp : Form := { dst := .p, src := .v, tsrc := .v, needReg := true, fmts := [0, 1, 2, 3, 4], guard := .elementwise }
/-- R154 -/
def vredS : Form := { dst := .s, src := .v, needReg := true, fmts := [0, 11, 12, 13], sats := [0, 1], guard := .elementwise }
/-- R154 -/
def vredM : Form := { dst := .s, src := .v, needReg := true, fmts := [0, 11, 12, 13], guard := .elementwise }
/-- R154 -/
def vfredS : Form := { dst := .f, src := .v, needReg := true, fmts := [0, 1, 2, 3, 4], rnds := [0, 1, 2, 3, 4], guard := .elementwise }
/-- R154 -/
def vfredM : Form := { dst := .f, src := .v, needReg := true, fmts := [0, 1, 2, 3, 4], guard := .elementwise }
/-- R154; k to n is `laneOk` -/
def vslideF : Form := { dst := .v, src := .v, tsrc := .v, needReg := true, fmts := [0, 1, 2, 3, 4, 5, 6, 11, 12, 13], imm := .unsigned 0 64, guard := .elementwise }
/-- R154 -/
def vzipF : Form := { dst := .v, src := .v, tsrc := .v, needReg := true, aux := [0, 1], fmts := [0, 1, 2, 3, 4, 5, 6, 11, 12, 13], guard := .elementwise }
/-- R154: AUX selects an s or an f register -/
def sOrF (f : Fields) : Use := if f.aux.toNat = 1 then .f else .s
/-- R154 -/
def vsplatF (f : Fields) : Form := { dst := .v, src := sOrF f, needReg := true, aux := [0, 1], fmts := [0, 1, 2, 3, 4, 5, 6, 11, 12, 13], guard := .elementwise }
/-- R154, R152: a scalar destination, so the guard tests bit 0 -/
def vextF (f : Fields) : Form := { dst := sOrF f, src := .v, needReg := true, aux := [0, 1], fmts := [0, 1, 2, 3, 4, 5, 6, 11, 12, 13], imm := .unsigned 0 63 }
/-- R154, R153 -/
def vinsF (f : Fields) : Form := { dst := .v, src := sOrF f, needReg := true, aux := [0, 1], fmts := [0, 1, 2, 3, 4, 5, 6, 11, 12, 13], imm := .unsigned 0 63, guard := .elementwise, dstRead := true }
/-- R161 to R163: whether a pair accepts scales, and whether it is an integer pair -/
def pairInt (pair : Nat) : Bool := 11 ≤ pair && pair ≤ 13
def pairScaled (pair : Nat) : Bool := pair ≤ 10 || (16 ≤ pair && pair ≤ 19)
/-- Scale blocks of A and B for a vector width (R162) -/
def pairBlocks (pair w : Nat) : Nat × Nat :=
  if pair ≤ 7 then (w / 256, w / 256) else if pair ≤ 10 then (w / 128, w / 128)
  else if 16 ≤ pair && pair ≤ 19 then (1, 0) else (0, 0)
/-- R161 -/
def vdotF (pair : Nat) (f : Fields) : Form :=
  { dst := .v, src := .vEven, tsrc := if f.aux.toNat = 0 then .zero else .f, needReg := true,
    aux := if pairScaled pair then [0, 1, 2] else [0], rnds := if pairInt pair then [0] else [0, 1, 2, 3, 4],
    sats := if pairInt pair then [0, 1] else [0], guard := .elementwise, dstRead := true, srcQueue := 2 }
/-- R164: the slices of a register -/
def slices (pair : Nat) : Nat :=
  if pair = 20 || pair = 21 || pair = 27 || pair = 28 then 2 else if pair = 26 then 8 else 4
/-- R164 -/
def vcvtnF (pair : Nat) : Form :=
  { dst := .v, src := .v, aux := List.range (slices pair), rnds := if pair = 31 then [0] else [0, 1, 2, 3, 4, 5],
    sats := if pair = 30 then [0] else [0, 1], guard := .elementwise, dstRead := true }
/-- R165 -/
def vcvtwF (pair : Nat) : Form := { dst := .v, src := .v, aux := List.range (slices pair), guard := .elementwise }
/-- R171 -/
def pushF : Form := { dst := .codes [0, 1, 2, 3, 8, 9, 10, 11, 12, 13, 14, 15], src := .vEven, srcQueue := 2, ends := .before, layers := [.l0] }
/-- R171 -/
def popF : Form := { dst := .s, src := .codes [0, 1, 2, 3, 8, 9, 10, 11, 12, 13, 14, 15], ends := .before, layers := [.l0] }
/-- R171 -/
def popqF : Form := { dst := .s, src := .codes [0, 1, 2, 3, 8, 9, 10, 11, 12, 13, 14, 15], tsrc := .p, needReg := true, ends := .before, layers := [.l0] }
/-- R171 -/
def engstF : Form := { dst := .s, src := .codes [0, 1, 2, 3, 8, 9, 10, 11, 12, 13, 14, 15], aux := [0, 1], layers := [.l0] }
/-- R171 -/
def engabortF : Form := { src := .codes [0, 1, 2, 3, 8, 9, 10, 11, 12, 13, 14, 15], ends := .before, layers := [.l0] }
/-- R184 -/
def slotldF : Form := { src := .s, imm := .unsigned 16 4095, ends := .before, layers := [.l0] }
/-- R181 -/
def rowprogF : Form := { dst := .s, layers := [.l0] }
/-- R186 -/
def cbloadF : Form := { src := .v, ends := .before, layers := [.l0] }
/-- R174 -/
def build : Form := { dst := .vEven, src := .s, needReg := true, imm := .unsigned 0 15, dstRead := true, layers := [.l0] }
/-- R174 -/
def cmdsetF : Form := { dst := .vEven, src := .s, needReg := true, aux := [0, 1, 2, 3, 4, 5, 6, 7], dstRead := true, layers := [.l0] }
/-- R174 -/
def cmdvcF : Form := { dst := .vEven, src := .s, needReg := true, dstRead := true, layers := [.l0] }
/-- R174 -/
def cmdadrF : Form := { dst := .vEven, src := .s, needReg := true, aux := [1, 2, 3, 4, 5, 6, 7], dstRead := true, layers := [.l0] }
/-- R174 -/
def mmaF (pair : Nat) : Form :=
  { layers := [.l0], dst := .vEven, src := .s, needReg := true, dstRead := true,
    rnds := if pairInt pair then [0] else [0, 1, 2, 3, 4, 5], sats := if pairInt pair then [0, 1] else [0] }
/-- R192 -/
def mtmem : Form := { dst := .m, src := .s, tsrc := .s, needReg := true, imm := .signed, layers := [.l2, .l3] }
/-- R192 -/
def mtmmaF (f : Fields) : Form :=
  { layers := [.l2, .l3], dst := .m, src := .m, tsrc := .m, needReg := true, fmts := [3, 4, 5, 6, 13],
    rnds := if f.fmt = 13 then [0] else [0, 1, 2, 3, 4], sats := if f.fmt = 13 then [0, 1] else [0] }
/-- R192 -/
def mtaddF (f : Fields) : Form :=
  { layers := [.l2, .l3], dst := .m, src := .m, tsrc := .m, short := true, fmts := [0, 2, 11],
    rnds := if f.fmt = 11 then [0] else [0, 1, 2, 3, 4], sats := if f.fmt = 11 then [0, 1] else [0] }
/-- R192 -/
def mtredF (f : Fields) : Form :=
  { layers := [.l2, .l3], dst := .v, src := .m, needReg := true, fmts := [0, 2, 11],
    rnds := if f.fmt = 11 then [0] else [0, 1, 2, 3, 4], sats := if f.fmt = 11 then [0, 1] else [0] }
/-- R192 -/
def mtzeroF : Form := { dst := .m, layers := [.l2, .l3] }
/-- R192 -/
def mtmovF : Form := { dst := .m, src := .m, layers := [.l2, .l3] }
/-- R192 -/
def mtmovInF : Form := { dst := .m, src := .v, needReg := true, aux := [1], imm := .unsigned 0 15, layers := [.l2, .l3] }
/-- R192 -/
def mtmovOutF : Form := { dst := .v, src := .m, needReg := true, aux := [2], imm := .unsigned 0 15, layers := [.l2, .l3] }
/-- R192 -/
def mtcvtF : Form := { dst := .m, src := .m, fmts := [3, 4, 5, 6], rnds := [0, 1, 2, 3, 4, 5], sats := [0, 1], layers := [.l2, .l3] }
/-- R199 -/
def ld : Form := { dst := .s, src := .s, imm := .signed }
/-- R199 -/
def ldfF : Form := { dst := .f, src := .s, needReg := true, imm := .signed, fmts := [0, 1, 2, 3, 4] }
/-- R199 -/
def st : Form := { dst := .s, src := .s, imm := .signed, dstRead := true }
/-- R199 -/
def stfF : Form := { dst := .f, src := .s, needReg := true, imm := .signed, fmts := [0, 1, 2, 3, 4], dstRead := true }
/-- R199 -/
def vldF : Form := { dst := .v, src := .s, needReg := true, imm := .signed, guard := .elementwise }
/-- R199 -/
def vstF : Form := { dst := .v, src := .s, needReg := true, imm := .signed, dstRead := true, guard := .elementwise }
/-- R199 -/
def vldsF : Form := { dst := .v, src := .s, tsrc := .s, needReg := true, imm := .signed, fmts := [0, 1, 2, 3, 4, 5, 6, 11, 12, 13], guard := .elementwise }
/-- R199 -/
def vstsF : Form := { dst := .v, src := .s, tsrc := .s, needReg := true, imm := .signed, fmts := [0, 1, 2, 3, 4, 5, 6, 11, 12, 13], dstRead := true, guard := .elementwise }
/-- R199 -/
def pfF : Form := { src := .s, imm := .signed, noQueue := true }
/-- R199 -/
def qldF : Form := { src := .s, imm := .signed, aux := [0, 1, 2, 3], noQueue := true, layers := [.l0] }
/-- R199 -/
def qstF : Form := { src := .s, imm := .signed, aux := [0, 1, 2, 3, 5], noQueue := true, layers := [.l0] }
/-- R199 -/
def qvldF : Form := { src := .s, imm := .signed, noQueue := true, layers := [.l0] }
/-- R199, R208 -/
def chunkEndF : Form := { ends := .holding }
/-- R199, R209 -/
def fenceF : Form := { scopes := [0, 1, 2, 3, 4, 5], ends := .before }
/-- R206: an atomic with a scope behaves as a fence before and after it -/
def amoEnds (f : Fields) : Ends := if f.scope = 0 then .no else .both
/-- R199, R204 -/
def amo (fmts : List Nat) (sats : List Nat) (f : Fields) : Form :=
  { dst := .s, src := .s, tsrc := .s, needReg := true, imm := .signed, fmts := fmts, sats := sats,
    scopes := [0, 1, 2, 3, 4, 5], ends := amoEnds f }
/-- R298 -/
def markF : Form := { src := .s, imm := .signed, ends := .no, noQueue := true }
/-- R298 -/
def cutF : Form := { dst := .s, src := .s, tsrc := .s, needReg := true, aux := [0, 1], scopes := [0, 1, 2, 3, 4], ends := .both, noQueue := true }
/-- R298 -/
def graftF : Form := { src := .s, tsrc := .s, needReg := true, ends := .both, noQueue := true }
/-- R298 -/
def slfreeF : Form := { src := .s, ends := .before, noQueue := true }
/-- R298 -/
def slinfoF : Form := { dst := .s, src := .s, aux := [0, 1], noQueue := true }
/-- R298 -/
def unmarkF : Form := { dst := .s, noQueue := true }
/-- R259 -/
def barF : Form := { ends := .before }
/-- R262 -/
def voteF : Form := { dst := .p, src := .p, ends := .before }
/-- R262 -/
def voteSumF : Form := { dst := .s, src := .s, ends := .before }
/-- R257 -/
def waitF : Form := { dst := .s, src := .s, tsrc := .num 16, needReg := true, imm := .unsigned 0 4194303, ends := .before }
/-- R218 -/
def arriveF : Form := { dst := .num 16, src := .s, ends := .holding }
/-- R75 -/
def trigF : Form := { src := .s }
/-- R266: ttsel, ttld, ttgo and ttst exist only on L0; R57 has them on every layer, and the model follows R266 (DEDUCED, log 88). -/
def ttselF : Form := { imm := .unsigned 1 4, layers := [.l0] }
/-- R266 -/
def ttldF : Form := { src := .s, aux := [0, 1, 2, 3], ends := .holding, layers := [.l0] }
/-- R266 -/
def ttgoF : Form := { layers := [.l0] }
/-- R266 -/
def ttstF : Form := { dst := .s, ends := .before, layers := [.l0] }
/-- R257 -/
def cclrF : Form := { dst := .num 16, ends := .holding }
/-- R93 -/
def splitF : Form := { noReg := true, layers := [.l0] }
/-- R93 -/
def fuseF : Form := { noReg := true, ends := .before, layers := [.l0] }
/-- R119 -/
def trapF : Form := { imm := .unsigned 0 2047 }
/-- R120 -/
def rteF : Form := { ends := .no }
/-- R121 -/
def csrrF : Form := { dst := .s, imm := .unsigned 0 2047 }
/-- R121, R122 -/
def csrwF : Form := { src := .s, imm := .unsigned 0 2047, ends := .holding }
/-- R121, R122 -/
def csrsF : Form := { dst := .s, src := .s, imm := .unsigned 0 2047, ends := .holding }
/-- R123, R226 -/
def tlbwF : Form := { dst := .s, src := .s, tsrc := .s, needReg := true, dstRead := true, ends := .holding }
/-- R123, R233 -/
def tlbinvF : Form := { src := .s, tsrc := .s, needReg := true, ends := .before }
/-- R88 -/
def startF : Form := { dst := .s, src := .s, tsrc := .s, needReg := true, layers := [.l0] }
/-- R89 -/
def joinF : Form := { dst := .s, src := .s, ends := .before, layers := [.l0] }
/-- R124 -/
def parkF : Form := { ends := .before }
/-- R73 -/
def jenqF : Form := { dst := .s, src := .s, tsrc := .s, needReg := true }
/-- R85 -/
def workqF : Form := { dst := .s, src := .s, aux := [0, 1, 2, 3, 4, 5, 6, 7] }
/-- R242 -/
def restrPutF : Form := { layers := [.l0, .l1, .l2], dst := .s, src := .s, dstRead := true, ends := .both, noQueue := true }
/-- R242 -/
def restrCollectF : Form := { layers := [.l1, .l2, .l3], dst := .s, src := .s, tsrc := .s, needReg := true, aux := [1, 2, 3, 5, 6, 7], dstRead := true, ends := .both, fmts := [0, 2], rnds := [0, 1, 2, 3, 4], sats := [0, 1], noQueue := true }
/-- R242 -/
def prolgAddF : Form := { layers := [.l0, .l1, .l2], dst := .s, src := .s, aux := [0, 4], dstRead := true, ends := .both, fmts := [0, 2], rnds := [0, 1, 2, 3, 4], sats := [0, 1], noQueue := true }
/-- R242 -/
def prolgPutF : Form := { layers := [.l1, .l2, .l3], dst := .s, src := .s, tsrc := .s, needReg := true, aux := [1], dstRead := true, ends := .both, noQueue := true }
/-- R242 -/
def restrfF : Form := { dst := .s, src := .s, tsrc := .s, needReg := true, aux := [1, 2, 3, 5, 6, 7], dstRead := true, ends := .both, fmts := [0, 2], rnds := [0, 1, 2, 3, 4], sats := [0, 1], noQueue := true }
/-- R242 -/
def prolgfF : Form := { dst := .s, src := .s, tsrc := .s, needReg := true, aux := [0, 4], dstRead := true, ends := .both, fmts := [0, 2], rnds := [0, 1, 2, 3, 4], sats := [0, 1], noQueue := true }
/-- R242, R251 -/
def wldF : Form := { src := .s, aux := [0, 1, 2, 3], imm := .signed, ends := .holding, noQueue := true }
/-- R242 -/
def wselF : Form := { imm := .unsigned 0 15, noQueue := true }
/-- R242 -/
def layqF : Form := { dst := .s, aux := [0, 1], noQueue := true }

end Forms

/-- bfx, bfxn and bfi: pos + len ≤ 64 (R98, R102). -/
def fieldOk (f : Fields) : Bool := f.immU % 64 + (f.immU / 64 + 1) ≤ 64

/-- The element width an FMT selects in each class (R151). -/
def intWidth (fmt : Nat) : Nat := if fmt = 13 then 8 else 32
def fltWidth (fmt : Nat) : Nat := if fmt = 1 then 64 else if fmt = 3 || fmt = 4 then 16 else 32
def bitWidth (fmt : Nat) : Nat :=
  if fmt = 1 then 64 else if fmt = 3 || fmt = 4 then 16 else if fmt = 5 || fmt = 6 || fmt = 13 then 8 else 32

/-- The limit on k that depends on the layer: k ≤ n for vslide, k < n for vext and vins (R154). -/
def slideOk (c : CoreId) (f : Fields) : Bool := f.immU ≤ c.kind.vwidth / bitWidth f.fmt
def laneOk (c : CoreId) (f : Fields) : Bool := f.immU < c.kind.vwidth / bitWidth f.fmt

/-- vdot: t + bA + bB ≤ 16 (R161); with FP32 or E8M0 scales alike one register a block. -/
def scalesOk (pair : Nat) (c : CoreId) (f : Fields) : Bool :=
  f.aux.toNat = 0 || f.tsrcN + (Forms.pairBlocks pair c.kind.vwidth).1 + (Forms.pairBlocks pair c.kind.vwidth).2 ≤ 16

/-- cut does not name s0 or s30 (R298). -/
def cutOk (f : Fields) : Bool := f.dstN != 0 && f.dstN != 30

/-- The layers a control register's number and the remaining layer limits: see `Csr`. -/
def alwaysOk (_ : CoreId) (_ : Fields) : Bool := true

end Sys2Proof
end

