-- ==== Sys2Proof/Machine/Numfmt.lean ====
section
/-! DEFINITION. The element formats, the rounding function and the sums (08, R134 to R150). Values are exact: a sign,
a natural mantissa and a binary exponent. -/

namespace Sys2Proof

/-- Bit `i` of a number. -/
def bitOf (n i : Nat) : Bool := n / 2 ^ i % 2 == 1

/-- Bits `lo` to `lo + w - 1` of a number. -/
def bits (n lo w : Nat) : Nat := n / 2 ^ lo % 2 ^ w

/-- The two's complement reading of the low `w` bits. -/
def sintOf (w n : Nat) : Int := if n % 2 ^ w < 2 ^ (w - 1) then (n % 2 ^ w : Nat) else (n % 2 ^ w : Nat) - (2 ^ w : Nat)

/-- The low `w` bits of an integer. -/
def wrapInt (w : Nat) (i : Int) : Nat := (i % (2 ^ w : Nat)).toNat

/-- How a float format treats its top exponent (R136, R137). -/
inductive TopExp where
  | ieee | e4m3 | finite
  deriving DecidableEq, Repr

/-- A float format: widths of exponent and fraction, bias, the treatment of its top exponent, and whether its NaN codes
can be signalling (R136: the four IEEE-style formats). -/
structure FloatFmt where
  e : Nat
  m : Nat
  bias : Nat
  top : TopExp
  snan : Bool
  deriving DecidableEq, Repr

def FloatFmt.fp64 : FloatFmt := ⟨11, 52, 1023, .ieee, true⟩
def FloatFmt.fp32 : FloatFmt := ⟨8, 23, 127, .ieee, true⟩
def FloatFmt.fp16 : FloatFmt := ⟨5, 10, 15, .ieee, true⟩
def FloatFmt.bf16 : FloatFmt := ⟨8, 7, 127, .ieee, true⟩
def FloatFmt.e4m3 : FloatFmt := ⟨4, 3, 7, .e4m3, false⟩
def FloatFmt.e5m2 : FloatFmt := ⟨5, 2, 15, .ieee, false⟩
def FloatFmt.e3m2 : FloatFmt := ⟨3, 2, 3, .finite, false⟩
def FloatFmt.e2m3 : FloatFmt := ⟨2, 3, 1, .finite, false⟩
def FloatFmt.e2m1 : FloatFmt := ⟨2, 1, 1, .finite, false⟩

/-- The width of a format's code. -/
def FloatFmt.width (F : FloatFmt) : Nat := 1 + F.e + F.m

/-- The exponent of the smallest normal. -/
def FloatFmt.emin (F : FloatFmt) : Int := 1 - (F.bias : Int)

/-- The code, without sign, of the largest finite magnitude (R136, R137). -/
def FloatFmt.maxCode (F : FloatFmt) : Nat :=
  match F.top with
  | .ieee => (2 ^ F.e - 1) * 2 ^ F.m - 1
  | .e4m3 => (2 ^ F.e - 1) * 2 ^ F.m + 2 ^ F.m - 2
  | .finite => 2 ^ (F.e + F.m) - 1

/-- The canonical NaN's code; +0 for a format without NaN (R136, R137, R143). -/
def FloatFmt.nanCode (F : FloatFmt) : Nat :=
  match F.top with
  | .ieee => (2 ^ F.e - 1) * 2 ^ F.m + 2 ^ (F.m - 1)
  | .e4m3 => 2 ^ (F.e + F.m) - 1
  | .finite => 0

/-- The code of +infinity in an IEEE-style format. -/
def FloatFmt.infCode (F : FloatFmt) : Nat := (2 ^ F.e - 1) * 2 ^ F.m

/-- The sign bit's weight. -/
def FloatFmt.signBit (F : FloatFmt) : Nat := 2 ^ (F.e + F.m)

def FloatFmt.withSign (F : FloatFmt) (neg : Bool) (c : Nat) : Nat := if neg then F.signBit + c else c

/-- An exact value, or one of the special inputs. `fin neg m e` is ±m·2^e with m > 0. -/
inductive Val where
  | nan (signalling : Bool)
  | inf (neg : Bool)
  | zero (neg : Bool)
  | fin (neg : Bool) (mant : Nat) (exp : Int)
  deriving DecidableEq, Repr

/-- The value of a code (R135 to R137). -/
def FloatFmt.decode (F : FloatFmt) (c : Nat) : Val :=
  let neg := bitOf c (F.e + F.m)
  let E := bits c F.m F.e
  let f := bits c 0 F.m
  if F.top = .ieee ∧ E = 2 ^ F.e - 1 then
    if f = 0 then .inf neg else .nan (F.snan && !bitOf f (F.m - 1))
  else if F.top = .e4m3 ∧ E = 2 ^ F.e - 1 ∧ f = 2 ^ F.m - 1 then .nan false
  else if E = 0 then
    if f = 0 then .zero neg else .fin neg f (F.emin - F.m)
  else .fin neg (2 ^ F.m + f) ((E : Int) - F.bias - F.m)

/-- The rounding modes (R142); stochastic rounding carries its random bits. -/
inductive RMode where
  | nearest | toZero | toPinf | toNinf
  | stochastic (rbits : Nat)
  deriving DecidableEq, Repr

/-- ARITH.STAT's flag bits (R101). -/
def flagNX : Nat := 1
def flagUF : Nat := 2
def flagOF : Nat := 4
def flagDZ : Nat := 8
def flagNV : Nat := 16
def flagSAT : Nat := 32

/-- A code and the flags its computation raised. -/
structure Coded where
  code : Nat
  flags : Nat
  deriving DecidableEq, Repr

/-- An exact result and the flags raised before its rounding. -/
structure Exact where
  val : Val
  flags : Nat
  deriving DecidableEq, Repr

/-- `floor(log2 (m·2^e))` for m > 0. -/
def ilog (m : Nat) (e : Int) : Int := (Nat.log2 m : Int) + e

/-- The multiple of u = 2^ue that m·2^e rounds to, as y ÷ u, and whether it differs from the value (R142). -/
def roundTo (mode : RMode) (neg : Bool) (m : Nat) (e ue : Int) : Nat × Bool :=
  if ue ≤ e then (m * 2 ^ (e - ue).toNat, false)
  else
    let sh := (ue - e).toNat
    let lo := m / 2 ^ sh
    let rem := m % 2 ^ sh
    if rem = 0 then (lo, false)
    else
      let up : Bool := match mode with
        | .nearest => if 2 * rem < 2 ^ sh then false else if 2 ^ sh < 2 * rem then true else lo % 2 == 1
        | .toZero => false
        | .toPinf => !neg
        | .toNinf => neg
        | .stochastic r => decide (r % 2 ^ 16 < rem * 2 ^ 16 / 2 ^ sh)
      (if up then lo + 1 else lo, true)

/-- Whether k·2^ke > n·2^ne. -/
def scaledLt (n : Nat) (ne : Int) (k : Nat) (ke : Int) : Bool :=
  if ne ≤ ke then decide (n < k * 2 ^ (ke - ne).toNat) else decide (n * 2 ^ (ne - ke).toNat < k)

/-- The code, without sign, of k·2^ue, a magnitude on the format's grid and not above its maximum. -/
def FloatFmt.encodeMag (F : FloatFmt) (k : Nat) (ue : Int) : Nat :=
  if k = 0 then 0
  else
    let ex := ilog k ue
    if ex < F.emin then k * 2 ^ (ue - (F.emin - F.m)).toNat
    else
      let sh := (Nat.log2 k : Int) - F.m
      let full := if 0 ≤ sh then k / 2 ^ sh.toNat else k * 2 ^ (-sh).toNat
      (ex + F.bias).toNat * 2 ^ F.m + (full - 2 ^ F.m)

/-- R142 into a float format: a finite nonzero exact value ±m·2^e. -/
def FloatFmt.roundFin (F : FloatFmt) (mode : RMode) (sat : Bool) (neg : Bool) (m : Nat) (e : Int) : Coded :=
  let ex := ilog m e
  let ue := max ex F.emin - F.m
  let (k, nx) := roundTo mode neg m e ue
  let ovf := match F.decode F.maxCode with
    | .fin _ mm me => scaledLt mm me k ue
    | _ => false
  if ovf then
    let toInf := F.top == .ieee && !sat && (match mode with
      | .nearest => true | .stochastic _ => true | .toZero => false
      | .toPinf => !neg | .toNinf => neg)
    ⟨F.withSign neg (if toInf then F.infCode else F.maxCode), flagOF + flagNX⟩
  else
    let tiny := nx && (let (t, _) := roundTo mode neg m e (ex - F.m)
                       scaledLt t (ex - F.m) 1 F.emin)
    ⟨F.withSign neg (F.encodeMag k ue), (if nx then flagNX else 0) + (if tiny then flagUF else 0)⟩

/-- The final write of an arithmetic result: a NaN is canonical, an exact infinity and a zero keep their sign (R111, R142). -/
def FloatFmt.finish (F : FloatFmt) (mode : RMode) (x : Exact) : Coded :=
  match x.val with
  | .nan _ => ⟨F.nanCode, x.flags⟩
  | .inf neg => ⟨F.withSign neg F.infCode, x.flags⟩
  | .zero neg => ⟨F.withSign neg 0, x.flags⟩
  | .fin neg m e =>
    let r := F.roundFin mode false neg m e
    ⟨r.code, x.flags ||| r.flags⟩

/-- A conversion into a float format: R142 and the table of R143. -/
def FloatFmt.convert (F : FloatFmt) (mode : RMode) (sat : Bool) (v : Val) : Coded :=
  match v with
  | .zero neg => ⟨F.withSign neg 0, 0⟩
  | .inf neg =>
    match F.top with
    | .ieee => if sat then ⟨F.withSign neg F.maxCode, flagOF + flagNX⟩ else ⟨F.withSign neg F.infCode, 0⟩
    | .e4m3 => if sat then ⟨F.withSign neg F.maxCode, flagOF + flagNX⟩ else ⟨F.nanCode, flagNV⟩
    | .finite => ⟨F.withSign neg F.maxCode, flagNV⟩
  | .nan s =>
    match F.top with
    | .finite => ⟨0, flagNV⟩
    | _ => ⟨F.nanCode, if s then flagNV else 0⟩
  | .fin neg m e => F.roundFin mode sat neg m e

/-- A conversion into an integer range lo to hi: R142 and R143; the result as an integer with flags. -/
def convertInt (lo hi : Int) (mode : RMode) (v : Val) : Int × Nat :=
  match v with
  | .zero _ => (0, 0)
  | .inf neg => (if neg then lo else hi, flagNV)
  | .nan _ => (0, flagNV)
  | .fin neg m e =>
    let (k, nx) := roundTo mode neg m e 0
    let y : Int := if neg then -(k : Int) else k
    if y < lo then (lo, flagNV) else if hi < y then (hi, flagNV) else (y, if nx then flagNX else 0)

def Val.isNan : Val → Bool | .nan _ => true | _ => false
def Val.isSnan : Val → Bool | .nan s => s | _ => false

/-- NV where an input is a signalling NaN (R111). -/
def nvOf (l : List Val) : Nat := if l.any Val.isSnan then flagNV else 0

def Val.neg : Val → Val
  | .nan s => .nan s | .inf n => .inf (!n) | .zero n => .zero (!n) | .fin n m e => .fin (!n) m e

/-- The signed mantissa of a finite value at exponent `e`, which is not above the value's own. -/
def Val.at (v : Val) (e : Int) : Int :=
  match v with
  | .fin neg m x => let k : Int := m * 2 ^ (x - e).toNat; if neg then -k else k
  | _ => 0

/-- The exponent of a finite value's mantissa. -/
def Val.exp : Val → Int | .fin _ _ e => e | _ => 0

/-- An integer times 2^e as a value; `z` is the sign of an exact zero. -/
def Val.ofInt (i : Int) (e : Int) (z : Bool) : Val :=
  if i = 0 then .zero z else .fin (decide (i < 0)) i.natAbs e

/-- Exact addition under IEEE 754 special-value rules; an exact zero sum is +0, or -0 toward -infinity. -/
def addExact (mode : RMode) (x y : Val) : Exact :=
  let nv := nvOf [x, y]
  match x, y with
  | .nan _, _ => ⟨.nan false, nv⟩
  | _, .nan _ => ⟨.nan false, nv⟩
  | .inf a, .inf b => if a = b then ⟨.inf a, 0⟩ else ⟨.nan false, flagNV⟩
  | .inf a, _ => ⟨.inf a, 0⟩
  | _, .inf b => ⟨.inf b, 0⟩
  | .zero a, .zero b => ⟨.zero (if a = b then a else decide (mode = .toNinf)), 0⟩
  | .zero _, y => ⟨y, 0⟩
  | x, .zero _ => ⟨x, 0⟩
  | x, y =>
    let e := min x.exp y.exp
    ⟨Val.ofInt (x.at e + y.at e) e (decide (mode = .toNinf)), 0⟩

/-- Exact multiplication. -/
def mulExact (x y : Val) : Exact :=
  let nv := nvOf [x, y]
  match x, y with
  | .nan _, _ => ⟨.nan false, nv⟩
  | _, .nan _ => ⟨.nan false, nv⟩
  | .inf _, .zero _ => ⟨.nan false, flagNV⟩
  | .zero _, .inf _ => ⟨.nan false, flagNV⟩
  | .inf a, .inf b => ⟨.inf (a != b), 0⟩
  | .inf a, .fin b _ _ => ⟨.inf (a != b), 0⟩
  | .fin a _ _, .inf b => ⟨.inf (a != b), 0⟩
  | .zero a, .zero b => ⟨.zero (a != b), 0⟩
  | .zero a, .fin b _ _ => ⟨.zero (a != b), 0⟩
  | .fin a _ _, .zero b => ⟨.zero (a != b), 0⟩
  | .fin a m e, .fin b n k => ⟨.fin (a != b) (m * n) (e + k), 0⟩

/-- How many extra bits a quotient or a root is computed to before its sticky bit. -/
def guardBits : Nat := 160

/-- A quotient num ÷ den as a mantissa at exponent `e`, with a sticky low bit. -/
def stickyDiv (num den : Nat) (e : Int) : Nat × Int :=
  let sh := guardBits + Nat.log2 den + 1
  let q := num * 2 ^ sh / den
  let r := num * 2 ^ sh % den
  (2 * q + (if r = 0 then 0 else 1), e - sh - 1)

/-- Exact division, to a sticky bit. -/
def divExact (x y : Val) : Exact :=
  let nv := nvOf [x, y]
  match x, y with
  | .nan _, _ => ⟨.nan false, nv⟩
  | _, .nan _ => ⟨.nan false, nv⟩
  | .inf _, .inf _ => ⟨.nan false, flagNV⟩
  | .zero _, .zero _ => ⟨.nan false, flagNV⟩
  | .inf a, .zero b => ⟨.inf (a != b), 0⟩
  | .inf a, .fin b _ _ => ⟨.inf (a != b), 0⟩
  | .zero a, .inf b => ⟨.zero (a != b), 0⟩
  | .fin a _ _, .inf b => ⟨.zero (a != b), 0⟩
  | .zero a, .fin b _ _ => ⟨.zero (a != b), 0⟩
  | .fin a _ _, .zero b => ⟨.inf (a != b), flagDZ⟩
  | .fin a m e, .fin b n k =>
    let (q, qe) := stickyDiv m n (e - k)
    ⟨.fin (a != b) q qe, 0⟩

/-- The integer square root, bit by bit from bit `k`. -/
def isqrtFrom (n : Nat) : Nat → Nat → Nat
  | 0, r => r
  | k + 1, r =>
    let t := r + 2 ^ k
    isqrtFrom n k (if t * t ≤ n then t else r)

def isqrt (n : Nat) : Nat := isqrtFrom n (Nat.log2 n / 2 + 1) 0

/-- Exact square root, to a sticky bit. -/
def sqrtExact (x : Val) : Exact :=
  match x with
  | .nan s => ⟨.nan false, if s then flagNV else 0⟩
  | .zero a => ⟨.zero a, 0⟩
  | .inf false => ⟨.inf false, 0⟩
  | .inf true => ⟨.nan false, flagNV⟩
  | .fin true _ _ => ⟨.nan false, flagNV⟩
  | .fin false m e =>
    let sh := 2 * guardBits + (e % 2).toNat
    let n := m * 2 ^ sh
    let r := isqrt n
    ⟨.fin false (2 * r + (if r * r = n then 0 else 1)) ((e - sh) / 2 - 1), 0⟩

/-- 1 ÷ A (R157). -/
def rcpExact (x : Val) : Exact := divExact (.fin false 1 0) x

/-- 1 ÷ √A (R157). -/
def rsqExact (x : Val) : Exact :=
  match x with
  | .nan s => ⟨.nan false, if s then flagNV else 0⟩
  | .zero a => ⟨.inf a, flagDZ⟩
  | .inf false => ⟨.zero false, 0⟩
  | .inf true => ⟨.nan false, flagNV⟩
  | .fin true _ _ => ⟨.nan false, flagNV⟩
  | .fin false m e =>
    let sh := 2 * (guardBits + Nat.log2 m) + (e % 2).toNat
    let q := 2 ^ sh / m
    let r := isqrt q
    let exact := r * r * m = 2 ^ sh
    ⟨.fin false (2 * r + (if exact then 0 else 1)) (-((sh : Int) + e) / 2 - 1), 0⟩

/-- The working precision of the two transcendental functions. -/
def transBits : Nat := 448

/-- The sum over k = 1 to n of 2^p ÷ (k·2^k): ln 2 to p bits. -/
def ln2Sum (p : Nat) : Nat → Nat
  | 0 => 0
  | n + 1 => 2 ^ p / ((n + 1) * 2 ^ (n + 1)) + ln2Sum p n

/-- The exponential series of t ÷ 2^p: terms from `term` on, `n` of them, the next divisor `k`. -/
def expSum (p t : Nat) : Nat → Nat → Nat → Nat
  | 0, _, _ => 0
  | n + 1, k, term => term + expSum p t n (k + 1) (term * t / 2 ^ p / k)

/-- 2^F for 0 < F < 1, F = f ÷ 2^p, as a mantissa over 2^p: one above even, so never a tie. -/
def exp2Frac (p f : Nat) : Nat := 2 * (expSum p (f * ln2Sum p p / 2 ^ p) 120 1 (2 ^ p)) + 1

/-- 2^A, exact to a sticky bit; beyond ±4,096 any magnitude past every format's range stands for it (R157). -/
def exp2Exact (x : Val) : Exact :=
  match x with
  | .nan s => ⟨.nan false, if s then flagNV else 0⟩
  | .inf false => ⟨.inf false, 0⟩
  | .inf true => ⟨.zero false, 0⟩
  | .zero _ => ⟨.fin false 1 0, 0⟩
  | .fin neg m e =>
    if 12 ≤ ilog m e then ⟨.fin false 3 (if neg then -4096 else 4096), 0⟩
    else
      let p := transBits
      let scaled : Int := Val.at (.fin neg m e) (-(p : Int))
      if -(p : Int) ≤ e then
        let i := scaled / (2 ^ p : Nat)
        let f := (scaled % (2 ^ p : Nat)).toNat
        if f = 0 then ⟨.fin false 1 i, 0⟩ else ⟨.fin false (exp2Frac p f) (i - p - 1), 0⟩
      else ⟨.fin false (2 ^ p + (if neg then 0 else 1)) (-(p : Int)), 0⟩

/-- The first `n` fraction bits of log2 (x ÷ 2^p), 1 ≤ x ÷ 2^p < 2, by repeated squaring. -/
def log2Bits (p : Nat) : Nat → Nat → Nat → Nat
  | 0, _, acc => acc
  | n + 1, x, acc =>
    let y := x * x / 2 ^ p
    if 2 ^ (p + 1) ≤ y then log2Bits p n (y / 2) (2 * acc + 1) else log2Bits p n y (2 * acc)

/-- log2 A, exact to a sticky bit (R157). -/
def log2Exact (x : Val) : Exact :=
  match x with
  | .nan s => ⟨.nan false, if s then flagNV else 0⟩
  | .zero _ => ⟨.inf true, flagDZ⟩
  | .inf false => ⟨.inf false, 0⟩
  | .inf true => ⟨.nan false, flagNV⟩
  | .fin true _ _ => ⟨.nan false, flagNV⟩
  | .fin false m e =>
    let l := Nat.log2 m
    let i : Int := (l : Int) + e
    if m = 2 ^ l then ⟨Val.ofInt i 0 false, 0⟩
    else
      let n := 160
      let b := log2Bits transBits n (m * 2 ^ (transBits - l)) 0
      let v : Int := 2 * (i * (2 ^ n : Nat) + (b : Int)) + 1
      ⟨Val.ofInt v (-(n : Int) - 1) false, 0⟩

/-- A × B + C, exact; NV also for 0 × ∞ (R157). -/
def fmaExact (mode : RMode) (x y z : Val) : Exact :=
  let p := mulExact x y
  if z.isNan then ⟨.nan false, p.flags ||| nvOf [z]⟩
  else if p.val.isNan then p
  else
    let r := addExact mode p.val z
    ⟨r.val, p.flags ||| r.flags⟩

/-- The order of two values that are not NaN: whether x < y (with -0 = +0). -/
def Val.lt (x y : Val) : Bool :=
  match x, y with
  | .nan _, _ => false
  | _, .nan _ => false
  | .inf a, .inf b => a && !b
  | .inf a, _ => a
  | _, .inf b => !b
  | x, y => let e := min x.exp y.exp; decide (x.at e < y.at e)

/-- Equality of two values that are not NaN (with -0 = +0). -/
def Val.eq (x y : Val) : Bool := !x.isNan && !y.isNan && !Val.lt x y && !Val.lt y x

/-- Whether a value's sign bit is set. -/
def Val.sgn : Val → Bool | .nan _ => false | .inf n => n | .zero n => n | .fin n _ _ => n

/-- fmin, fmax (R112): -0 < +0; one NaN gives the other operand; two give the canonical NaN. -/
def FloatFmt.minmax (F : FloatFmt) (isMax : Bool) (a b : Nat) : Coded :=
  let a := a % 2 ^ F.width
  let b := b % 2 ^ F.width
  let x := F.decode a
  let y := F.decode b
  let nv := nvOf [x, y]
  if x.isNan && y.isNan then ⟨F.nanCode, nv⟩
  else if x.isNan then ⟨b, nv⟩
  else if y.isNan then ⟨a, nv⟩
  else
    let less := if Val.eq x y then x.sgn && !y.sgn else Val.lt x y
    ⟨if less != isMax then a else if Val.eq x y && x.sgn == y.sgn then a else b, 0⟩

def FloatFmt.add (F : FloatFmt) (mode : RMode) (a b : Nat) : Coded := F.finish mode (addExact mode (F.decode a) (F.decode b))
def FloatFmt.sub (F : FloatFmt) (mode : RMode) (a b : Nat) : Coded := F.finish mode (addExact mode (F.decode a) (F.decode b).neg)
def FloatFmt.mul (F : FloatFmt) (mode : RMode) (a b : Nat) : Coded := F.finish mode (mulExact (F.decode a) (F.decode b))
def FloatFmt.div (F : FloatFmt) (mode : RMode) (a b : Nat) : Coded := F.finish mode (divExact (F.decode a) (F.decode b))
def FloatFmt.sqrt (F : FloatFmt) (mode : RMode) (a : Nat) : Coded := F.finish mode (sqrtExact (F.decode a))
/-- a × b + c (R112). -/
def FloatFmt.fma (F : FloatFmt) (mode : RMode) (a b c : Nat) : Coded :=
  F.finish mode (fmaExact mode (F.decode a) (F.decode b) (F.decode c))
/-- c − a × b (R157). -/
def FloatFmt.fms (F : FloatFmt) (mode : RMode) (a b c : Nat) : Coded :=
  F.finish mode (fmaExact mode (F.decode a).neg (F.decode b) (F.decode c))

/-- frnd: an integral value of the same format; NV for a signalling NaN and no other flag (R112). -/
def FloatFmt.roundInt (F : FloatFmt) (mode : RMode) (a : Nat) : Coded :=
  match F.decode a with
  | .nan s => ⟨F.nanCode, if s then flagNV else 0⟩
  | .inf _ => ⟨a % 2 ^ F.width, 0⟩
  | .zero _ => ⟨a % 2 ^ F.width, 0⟩
  | .fin neg m e =>
    let (k, _) := roundTo mode neg m e 0
    ⟨if k = 0 then F.withSign neg 0 else (F.roundFin mode false neg k 0).code, 0⟩

/-- fclass's bit number (R113). -/
def FloatFmt.classOf (F : FloatFmt) (a : Nat) : Nat :=
  match F.decode a with
  | .inf true => 0
  | .fin true m _ => if m < 2 ^ F.m then 2 else 1
  | .zero true => 3
  | .zero false => 4
  | .fin false m _ => if m < 2 ^ F.m then 5 else 6
  | .inf false => 7
  | .nan true => 8
  | .nan false => 9

/-- One level of the canonical sum: neighbours pair up, an absent one passes its sibling through (R146). -/
def tsumLevel {α : Type} (node : α → α → α) : List (Option α) → List (Option α)
  | [] => []
  | [x] => [x]
  | x :: y :: l => (match x, y with
      | none, y => y
      | x, none => x
      | some a, some b => some (node a b)) :: tsumLevel node l

/-- The levels until one term is left. -/
def tsumFuel {α : Type} (node : α → α → α) : Nat → List (Option α) → Option α
  | 0, l => (l.head?).join
  | n + 1, l => match l with
    | [] => none
    | [x] => x
    | l => tsumFuel node n (tsumLevel node l)

/-- The canonical sum (R146). -/
def tsum {α : Type} (node : α → α → α) (l : List (Option α)) : Option α := tsumFuel node l.length l

/-- An FP32 addition to nearest, on codes that carry their merged flags: the node of R147. -/
def node32 (mode : RMode) (x y : Coded) : Coded :=
  let r := FloatFmt.fp32.add mode x.code y.code
  ⟨r.code, x.flags ||| y.flags ||| r.flags⟩

/-- A product of exact values rounded to FP32 to nearest (a term of R147 that the tree adds).
The tree's leaves are exact products; the first addition of two exact products is rounded once. -/
inductive Term where
  | exact (x : Exact)
  | code (c : Coded)
  deriving DecidableEq, Repr

def Term.val : Term → Exact
  | .exact x => x
  | .code c => ⟨FloatFmt.fp32.decode c.code, c.flags⟩

/-- The tree node of R147 step 2 over exact or already rounded terms. -/
def nodeTerm (x y : Term) : Term :=
  let a := x.val
  let b := y.val
  let r := FloatFmt.fp32.finish .nearest (addExact .nearest a.val b.val)
  .code ⟨r.code, a.flags ||| b.flags ||| r.flags⟩

/-- The random word of R144. -/
def rotl32 (x : BitVec 32) (k : Nat) : BitVec 32 := x.rotateLeft k

def sthRound (q : BitVec 32 × BitVec 32 × BitVec 32 × BitVec 32) : BitVec 32 × BitVec 32 × BitVec 32 × BitVec 32 :=
  let (a, b, c, d) := q
  let a := a + b; let d := rotl32 (d ^^^ a) 16
  let c := c + d; let b := rotl32 (b ^^^ c) 12
  let a := a + b; let d := rotl32 (d ^^^ a) 8
  let c := c + d; let b := rotl32 (b ^^^ c) 7
  (a, b, c, d)

def rbits (seed superstep index lane : BitVec 32) : BitVec 32 :=
  let q := sthRound (sthRound (sthRound (sthRound
    (seed ^^^ 0x6A09E667#32, superstep ^^^ 0xBB67AE85#32, index ^^^ 0x3C6EF372#32, lane ^^^ 0xA54FF53A#32))))
  q.1 ^^^ q.2.2.1

/-- R149: the exact sum written back to INT32. -/
def writebackInt32 (sat : Bool) (x : Int) : Coded :=
  if x < -2 ^ 31 ∨ 2 ^ 31 - 1 < x then
    if sat then ⟨wrapInt 32 (if x < 0 then -2 ^ 31 else 2 ^ 31 - 1), flagSAT⟩ else ⟨wrapInt 32 x, 0⟩
  else ⟨wrapInt 32 x, 0⟩

end Sys2Proof
end

