-- ==== Sys2Proof/Config.lean ====
section
/-! DEFINITION. What one device fixes and the spec does not: the values the model leaves free. Each is an opaque
constant with no body, so no proof can see its value (log 6). -/

namespace Sys2Proof.Config

/-- A byte the spec leaves undefined, one for each value of State's counter `free` (R344: a restore that
fails leaves the memories undefined). -/
opaque freeByte : Nat → Byte

/-- What the old value of stq's slot reads as, for an instruction that keeps bits of its destination in queue mode; one
for each value of the counter `free` (R43 gives none). -/
opaque staleQueue : Nat → BitVec 256

/-- The page frame behind a page of an address space, for the distributor's own accesses to rings, cards and images: the
spec gives no translation unit to it (R65). -/
opaque pageOf : Nat → Nat → Nat

/-- The shadow region that the boot core's duplicate pool gives a card (R77). -/
opaque shadowBase : Nat → Nat

/-- The bytes of that pool: its size is the boot core's choice (R77). -/
opaque dupPool : Nat

/-- The load address that the boot core gives an image's variant when a change of the defect map selects it anew (R36, R37). -/
opaque variantBase : Nat → Nat → BitVec 56

/-- Where the boot core's pool of save areas stands in HBM (R331). -/
opaque savePool : Nat

/-- Idle matrix rows that a core runs, and bank-conflict retries of a cluster, in an accounting interval; one for each value of the counter
`free` (R198, R353, R378). -/
opaque idleRows : Nat → Nat
opaque bankRetries : Nat → Nat

/-! The root-of-trust die. The signatures of FIPS 204, which the spec names and does not write out, stand as opaque functions whose results
have the standard's lengths; the secrets of a device are opaque values (log 85). -/

/-- Whether a public key verifies a signature that neither this device's key nor the vendor root made (R340, R343). -/
opaque dsaVerify : List Byte → List Byte → List Byte → Bool

/-- The ML-DSA-44 signatures that this device's attestation key and the vendor root make (R335, R338). -/
opaque dsaSign : List Byte → Vector Byte 2420
opaque vendorSign : List Byte → Vector Byte 2420

/-- The device sealing secret, never readable (R334). -/
opaque dss : Vector Byte 32

/-- The public keys of the vendor root and of this device's attestation key (R334, R335). -/
opaque vendorRoot : Vector Byte 1312
opaque akPub : Vector Byte 1312

/-- This device's number, fixed at manufacture (R338). -/
opaque devId : BitVec 64

/-- The boot firmware image that the boot core loads, one for each reset of the device: an update changes it, which the spec leaves to the
firmware (R334, R335). -/
opaque firmware : Nat → List Byte

/-- A draw of the root-of-trust die's random source, one per value of the counter `free`: a SALT, or what an encapsulation draws (R339,
R341). -/
opaque salt : Nat → Vector Byte 32

/-- Where an operation's access to the safe tier fails, as a byte of the image; none where every access succeeds. One for each value of
the counter `free` (R344, CODE 0x09). -/
opaque tierStop : Nat → Option Nat

end Sys2Proof.Config
end

