-- ==== Sys2Proof/Machine/Sparse.lean ====
section
/-! DEFINITION. Sparse tables in one canonical form: keys strictly rising, no entry equal to the default.
Memory, the cores, the clusters and every other large array of the device are held this way. -/

namespace Sys2Proof

/-- A table from numbers to values; an unlisted key holds the table's default. -/
abbrev SMap (α : Type) := List (Nat × α)

/-- The value at a key, `d` where the key is not listed. -/
def SMap.read {α : Type} (d : α) : SMap α → Nat → α
  | [], _ => d
  | (k, v) :: m, i => if i = k then v else SMap.read d m i

/-- Whether a key is listed. -/
def SMap.has {α : Type} : SMap α → Nat → Bool
  | [], _ => false
  | (k, _) :: m, i => if i = k then true else SMap.has m i

/-- Remove a key. -/
def SMap.drop {α : Type} : SMap α → Nat → SMap α
  | [], _ => []
  | (k, v) :: m, i => if i = k then m else (k, v) :: SMap.drop m i

/-- Enter a value at a key, keeping the keys in rising order. -/
def SMap.put {α : Type} : SMap α → Nat → α → SMap α
  | [], i, x => [(i, x)]
  | (k, v) :: m, i, x =>
    if i < k then (i, x) :: (k, v) :: m
    else if i = k then (i, x) :: m
    else (k, v) :: SMap.put m i x

/-- Write a value at a key in canonical form: the default is never listed. -/
def SMap.write {α : Type} [DecidableEq α] (d : α) (m : SMap α) (i : Nat) (x : α) : SMap α :=
  if x = d then SMap.drop m i else SMap.put m i x

/-- Whether every key is above a bound and they rise strictly. -/
def SMap.sortedFrom {α : Type} : Nat → SMap α → Bool
  | _, [] => true
  | lo, (k, _) :: m => decide (lo ≤ k) && SMap.sortedFrom (k + 1) m

/-- The canonical form. -/
def SMap.wf {α : Type} [DecidableEq α] (d : α) (m : SMap α) : Bool :=
  SMap.sortedFrom 0 m && m.all (fun e => decide (e.2 ≠ d))

/-- A byte array as a sparse table, an unlisted byte being 0 (R372, R373; log 4). -/
abbrev Memory := List Host.Cell

/-- The canonical form of memory. -/
abbrev Memory.wf (m : Memory) : Prop := SMap.wf (α := Byte) 0 m = true

/-- The byte at a location. -/
def Memory.byte (m : Memory) (a : Nat) : Byte := SMap.read (α := Byte) 0 m a

/-- Write one byte. -/
def Memory.setByte (m : Memory) (a : Nat) (b : Byte) : Memory := SMap.write (α := Byte) 0 m a b

/-- `n` bytes from a location, little-endian (R3). -/
def Memory.load (m : Memory) : Nat → Nat → Nat
  | _, 0 => 0
  | a, n + 1 => (Memory.byte m a).toNat + 256 * Memory.load m (a + 1) n

/-- Write the low `n` bytes of a number, little-endian (R3). -/
def Memory.store (m : Memory) : Nat → Nat → Nat → Memory
  | _, 0, _ => m
  | a, n + 1, v => Memory.store (Memory.setByte m a (BitVec.ofNat 8 v)) (a + 1) n (v / 256)

/-- Write a list of bytes. -/
def Memory.putBytes (m : Memory) : Nat → List Byte → Memory
  | _, [] => m
  | a, b :: bs => Memory.putBytes (Memory.setByte m a b) (a + 1) bs

/-- A list of bytes. -/
def Memory.getBytes (m : Memory) : Nat → Nat → List Byte
  | _, 0 => []
  | a, n + 1 => Memory.byte m a :: Memory.getBytes m (a + 1) n

/-- Set every byte from `lo` up to but not including `hi` to 0: the entries there are removed. -/
def Memory.zero (m : Memory) (lo hi : Nat) : Memory := m.filter fun e => e.1 < lo || hi ≤ e.1

end Sys2Proof
end

