-- ==== Sys2Proof/Machine/State.lean ====
section
/-! DEFINITION. The state of the ZV-7, as plain data: every register, memory, queue and table the spec names. -/

namespace Sys2Proof.Machine

/-- Why the machine stops. -/
inductive Fault where
  /-- A device step names a unit the device does not have (a core, channel, queue or port number out of range): raised by
  the schedule's own entry, never by a program. Safe. -/
  | noSuchUnit
  deriving DecidableEq, Repr

/-- Why a step has no meaning. -/
inductive Refusal where
  /-- The instruction has no meaning in this model yet: raised by its arm of `exec`. Safe. -/
  | notModelled (mnemonic : String)
  deriving DecidableEq, Repr

/-- A context of a core (R80, R395). -/
structure CtxId where
  core : CoreId
  ctx  : Nat
  deriving DecidableEq, Repr

/-- The registers a context carries: saved and restored with it, taken back by a squash or a rollback. -/
structure RegState where
  /-- the address of the next instruction (R47) -/
  pc : VAddr
  /-- s0 to s31; s0 is read as 0 by the accessors (R60, R61) -/
  s : Vector Dword 32
  /-- f0 to f15 (R60) -/
  f : Vector Dword 16
  /-- v0 to v31; an L0 core uses bits 255:0 (R60) -/
  v : Vector Vec 32
  /-- p0 to p7; p0 is read as ones by the accessors; an L0 core uses bits 31:0 (R60, R61) -/
  p : Vector Dword 8
  /-- m0 to m7, 16 rows of 512 bits, row 0 in the low bits (R60) -/
  m : Vector (BitVec 8192) 8
  /-- ARITH.STAT bits 7:0 (R101) -/
  arith : Byte
  /-- flags raised in the running chunk, merged into ARITH.STAT when it commits (R100, R167) -/
  pend : Byte
  /-- LOOP.CNT and LOOP.TOP (R106) -/
  loopCnt : Dword
  loopTop : VAddr
  /-- TRAP.VEC, TRAP.EPC, TRAP.STAT.ACTIVE, FAULT.CAUSE and FAULT.ADDR (R116) -/
  tvec : VAddr
  epc : VAddr
  active : Bool
  code : Byte
  info : W32
  faddr : Dword
  /-- CODEBOOK[0..3] (R140) -/
  codebook : Vector Dword 4
  /-- RNG.SEED, RNG.CTR (R145) and MX.SEED, MX.CB[0..3] (R185) -/
  rngSeed : W32
  rngCtr : W32
  mxSeed : W32
  mxCb : Vector Dword 4
  /-- VOTE.RES (R263), WSEL (R241), LEVEL.CUR (R30) -/
  voteRes : W32
  wsel : BitVec 4
  level : BitVec 4
  /-- ISSUE.STAT (R130), CAP.IDX (R375), TEL.STAMP (R347), SPALLOC.RES (R95) -/
  qstall : W32
  capIdx : Byte
  telStamp : Dword
  spres : W32
  /-- the load and store queues, oldest first, at most eight entries (R43, R127) -/
  ldq : List (BitVec 256)
  stq : List (BitVec 256)
  /-- data of queue loads that the execute half has passed and that has still to land in ldq (R127, R128) -/
  ldqDue : List (BitVec 256)
  deriving DecidableEq, Repr

/-- Every register 0 (R64). -/
def RegState.zero : RegState :=
  { pc := 0, s := Vector.replicate 32 0, f := Vector.replicate 16 0, v := Vector.replicate 32 0,
    p := Vector.replicate 8 0, m := Vector.replicate 8 0, arith := 0, pend := 0, loopCnt := 0, loopTop := 0,
    tvec := 0, epc := 0, active := false, code := 0, info := 0, faddr := 0, codebook := Vector.replicate 4 0,
    rngSeed := 0, rngCtr := 0, mxSeed := 0, mxCb := Vector.replicate 4 0, voteRes := 0, wsel := 0, level := 0,
    qstall := 0, capIdx := 0, telStamp := 0, spres := 0, ldq := [], stq := [], ldqDue := [] }

/-- What a waiting context waits for; `contextReady` tests it (R129, R224). -/
inductive Wait where
  /-- so many entries in ldq -/
  | ldq (need : Nat)
  | stq
  | counter (n t : Nat)
  | helper (h : Nat)
  | room (port : Nat) | element (port : Nat)
  | spalloc
  | miss
  | fuse
  | rendezvous
  | link
  | ttSlot (k : Nat) | ttIdle
  | weights (restrict : Bool) (k : Nat)
  | shootdown
  deriving DecidableEq, Repr

/-- The status of a context (R80, R88, R104's helper states, R118, R129). -/
inductive Status where
  | free
  | reserved
  | live
  | waiting (w : Wait)
  | stopped
  | parking
  | ended
  deriving DecidableEq, Repr

/-- An effect that an instruction stages until its chunk commits. -/
inductive Effect where
  | csr (num : Nat) (op : Nat) (val : Dword)
  | arrive (ctr : Nat) (mask : BitVec 16)
  | cclr (ctr : Nat)
  | trig (k : Nat)
  | jenq (q : Nat) (card : List Dword) (table : List Dword)
  | workq (addr : Dword) (ctr : Nat)
  | start (h : Nat) (entry : VAddr) (arg : Dword)
  | joined (h : Nat)
  | tlbw (sel tag dat : Dword)
  | push (port : Nat) (cmd : List Dword)
  | popped (port : Nat)
  | codebook (entries : BitVec 256)
  | engabort (port : Nat)
  | slotld (slots : Dword) (len : Nat)
  | ttld (k : Nat) (entries : List (Dword × Dword))
  | ttsel (n : Nat)
  | ttgo
  | rwld (k : Nat) (data : List Byte)
  | pwld (k : Nat) (data : List Byte)
  | wsel (v : BitVec 4)
  /-- an atomic or a store to host-visible memory, with the addresses of its bytes -/
  | hostAmo (loc : Nat) (op : Nat) (fmt : Nat) (sat : Bool) (b : Dword) (cmp : Dword) (va : Dword)
  | hostStore (l : List (Nat × Byte)) (vas : List Dword)
  | ttWords (target : CoreId) (dir stamp : Nat) (words : List (W32 × Bool))
  | grafted (lines : List Nat)
  deriving DecidableEq, Repr

/-- The running chunk of a context (R207). -/
structure Chunk where
  /-- instructions so far -/
  count : Nat
  /-- held stores, a byte each, newest first -/
  stores : SMap Byte
  /-- lines read and written, those of the core's own TCM too (location ÷ 64, log 66) -/
  rlines : List Nat
  wlines : List Nat
  /-- homes and signature bits of the writes recorded at the homes it read (R207) -/
  against : List (Nat × Nat)
  /-- staged effects, oldest first -/
  effects : List Effect
  /-- the address of the instruction behind each line stored to and behind each staged effect (R327) -/
  pcs : List (Nat × VAddr)
  epcs : List VAddr
  /-- the registers at its start -/
  ckpt : RegState
  /-- it has reached its boundary and asks for commit -/
  ended : Bool
  /-- squashes in a row -/
  squashes : Nat
  /-- instructions that stand before its checkpoint: a rendezvous that began it and is over -/
  base : Nat
  /-- it holds a split of a fused gang: the members' chunks commit or are squashed together (R93, R207) -/
  split : Bool
  /-- the tick at which the first of the L0 leases that its held stores used ends (R231) -/
  lease : Option Nat
  /-- it is a cut's, which commits without arbitration failure (R303) -/
  sure : Bool
  deriving DecidableEq, Repr

def Chunk.empty : Chunk :=
  { count := 0, stores := [], rlines := [], wlines := [], against := [], effects := [], pcs := [], epcs := [], ckpt := RegState.zero,
    ended := false, squashes := 0, base := 0, split := false, lease := none, sure := false }

/-- A queue instruction the L0 access half has issued ahead of the execute half (R127, R128): a load with the data it read, or the
draining of a stq entry; or the fault it found, held for the execute half: CODE, INFO and FAULT.ADDR. -/
structure Ahead where
  pc : VAddr
  store : Bool
  locs : List Nat
  data : BitVec 256
  fault : Option (Byte × W32 × Dword)
  deriving DecidableEq, Repr

/-- An outstanding miss of a context's unit: 0 its own accesses, 1 to 5 as SRCU of R225, a channel adding 16 times its
number; the miss number and the fields of its message; for a miss of the access half, the queue instruction's address and whether
it is a store (R224). -/
structure Miss where
  unit : Nat
  seq : Byte
  va : VAddr
  acc : Nat
  posted : Bool
  early : Option (VAddr × Bool)
  deriving DecidableEq, Repr

/-- A command queued at an engine port with what was snapshot at its push (R169, R171). -/
structure Command where
  dw : List Dword
  seed : W32
  superstep : W32
  codebook : Vector Dword 4
  /-- a cbload item (R186) -/
  isCodebook : Bool
  /-- it has begun -/
  begun : Bool
  /-- rows, blocks or bytes complete -/
  prog : Nat
  /-- its end is reached: STATUS and failing address -/
  outcome : Option (Byte × Dword)
  /-- rows or chunks counted in DONE, the flags merged so far, and the first error that does not stop it (R170) -/
  done : Nat
  flg : Byte
  err : Byte
  errVa : Dword
  /-- the poisoned lines that it has consumed (R318) -/
  hurt : List Nat := []
  /-- of a fused gather: its next chunk stands gathered and waits for the matrix unit; the chunks gathered so far, each with its number and the
  bits of its parts of A and of B; and the elements of C that derive from poisoned data (R188, R318) -/
  slot : Bool := false
  chunks : List (Nat × Nat × Nat) := []
  taint : List Nat := []
  deriving DecidableEq, Repr

/-- A context's FIFOs at one port (R168, R171, R172). -/
structure Port where
  input : List Command
  output : List Dword
  lastErr : Byte
  errAddr : Dword
  deriving DecidableEq, Repr

def Port.empty : Port := ⟨[], [], 0, 0⟩

/-- A work query: answer address and counter (R85), and its answer once a round has given it. -/
structure Query where
  addr : Dword
  ctr : Nat
  /-- its place among all queries posted (R83) -/
  seq : Nat
  /-- the answer that a round has computed for it (R83, R86) -/
  given : Option (List Dword)
  deriving DecidableEq, Repr

/-- A barrier or vote a context has arrived at (R258, R262): 0 bar, 1 vote.all, 2 vote.any, 3 vote.sum; the register its
result goes to, or stq; the ldq entries it takes; its value; the address after it. -/
structure Arrival where
  form : Nat
  dst : Nat
  toStq : Bool
  need : Nat
  value : Dword
  next : VAddr
  deriving DecidableEq, Repr

/-- A layer-link operation a context has offered (R243 to R245): the instruction and its operands. -/
structure LinkOp where
  /-- 0 restr.put, 1 a collect, 2 prolg.add, 3 prolg.put -/
  kind : Nat
  /-- the stride, and 1 sum, 2 max, 3 min -/
  stride : Nat
  op : Nat
  /-- its block's address, b or p, and the children named (of a prolg.put: those that have not yet read) -/
  a : Dword
  n : Nat
  m : BitVec 8
  /-- the words a prolg.put offers, and whether one of them is poisoned -/
  data : List W32
  bad : Bool
  /-- the rounding code 1 to 4, SAT, and the WSEL it issued with -/
  rnd : Nat
  sat : Bool
  ws : BitVec 4
  /-- the tick of its issue, whether the merge router has passed it, and the address after it -/
  order : Nat
  ready : Bool
  next : VAddr
  deriving DecidableEq, Repr

/-- Which copy of a redundant pair or a duplicate launch a context belongs to (R77, R320). -/
inductive Copy where
  | only | primary | shadow | copyA | copyB
  deriving DecidableEq, Repr

/-- A context. -/
structure Ctx where
  r : RegState
  status : Status
  card : Option Nat
  copy : Copy
  /-- the core of the other member of a redundant pair (R320) -/
  mate : Option CoreId
  gang : Option Nat
  gpos : Nat
  asid : BitVec 16
  domKind : BitVec 3
  domInst : BitVec 16
  dom : Nat
  /-- section entry, first record and count, for the launch epoch of a rollback (R328) -/
  entry : VAddr
  firstRec : Dword
  nRec : Dword
  chunk : Chunk
  ahead : List Ahead
  misses : List Miss
  /-- the counter's word as it stood when a stalled wait's condition first held (R257) -/
  waitWord : Option Dword
  queries : List Query
  ports : SMap Port
  spreqs : List W32
  arrival : Option Arrival
  link : Option LinkOp
  /-- a fault the firmware's answer gave this context, taken when it issues again (R226, R227) -/
  pendFault : Option (Byte × W32 × Dword)
  /-- its fault message has still to be posted (R314) -/
  msgDue : Bool
  /-- its shoot-down has been sent (R233) -/
  shot : Bool
  /-- the error it consumed last declared a unit failed (R314, R329) -/
  perm : Bool
  deriving DecidableEq, Repr

def Ctx.reset : Ctx :=
  { r := RegState.zero, status := .free, card := none, copy := .only, mate := none, gang := none, gpos := 0, asid := 0,
    domKind := 0, domInst := 0, dom := 0, entry := 0, firstRec := 0, nRec := 0, chunk := Chunk.empty, ahead := [],
    misses := [], waitWord := none, queries := [], ports := [], spreqs := [], arrival := none, link := none, pendFault := none, msgDue := false, shot := false,
    perm := false }

/-- A TLB entry (R222, R231): its words, the tick at which an L0 lease ends, and the one requester a lease of 0 serves. -/
structure TlbEntry where
  tag : Dword
  data : Dword
  valid : Bool
  expires : Nat
  once : Option Nat
  deriving DecidableEq, Repr

/-- A core's TLB: its slots in order, and the round-robin pointer (R226). -/
structure Tlb where
  slots : List TlbEntry
  next : Nat
  deriving DecidableEq, Repr

/-- An arrival counter (R255). -/
structure Counter where
  err : Bool
  count : BitVec 31
  deriving DecidableEq, Repr

/-- An event counter pair (R377). -/
structure EventCtr where
  en : Bool
  ctx : Byte
  event : Byte
  ovf : Bool
  count : BitVec 48
  deriving DecidableEq, Repr

def EventCtr.reset : EventCtr := ⟨false, 0xFF, 0, false, 0⟩

/-- A core's timetable store and the run of its slot (R264 to R269). -/
structure Timetable where
  /-- the four slots as loaded: the entries' bytes, 16 each -/
  slots : SMap (List (Dword × Dword))
  /-- TT.STAT: SEL, the armed slot, the running slot, SLOT, DONE, LOST, UNDER, FLG -/
  sel : BitVec 2
  armed : Option Nat
  running : Option Nat
  last : BitVec 2
  done : Nat
  lost : Bool
  under : Bool
  flg : BitVec 4
  /-- the reference cycle of its release -/
  start : Nat
  /-- words each entry has moved, the entries that have completed, and the words a sparse entry has received -/
  moved : SMap Nat
  finished : List Nat
  stream : SMap (List (W32 × Bool))
  /-- words standing at each input direction: the cycle, the word, its poison -/
  inputs : SMap (List (Nat × W32 × Bool))
  deriving DecidableEq, Repr

def Timetable.reset : Timetable :=
  { slots := [], sel := 0, armed := none, running := none, last := 0, done := 0, lost := false, under := false, flg := 0,
    start := 0, moved := [], finished := [], stream := [], inputs := [] }

/-- A mailbox of a service core or the boot core (R314): messages in arrival order, and those held outside, each with the context and the unit
of it that posted it: 0 the context itself, 1 to 5 as SRCU of R225, a channel adding 16 times its number, 99 for what waits for nothing. -/
structure Mailbox where
  msgs : List (List Dword)
  held : List (CtxId × Nat × List Dword)
  deriving DecidableEq, Repr

/-- An export effect in a core's buffer: its domain, the context that staged it, and the tick at which the L0 lease that it used ends
(R231, R326). -/
structure Export where
  dom : Nat
  ctx : Nat
  fx : Effect
  lease : Option Nat
  deriving DecidableEq, Repr

/-- A core. -/
structure Core where
  ctxs : SMap Ctx
  /-- the context that holds the execute pipe (R129) -/
  holder : Nat
  counters : SMap Counter
  tlb : Tlb
  restrict : SMap (List Byte)
  prolong : SMap (List Byte)
  tt : Timetable
  mxSlots : Dword
  mxSlotLen : BitVec 12
  mxStaged : Option (Dword × BitVec 12)
  /-- the tick at which a rotation of the matrix unit began; the last row it lent: the tick at which its slot began, and the context
  (R183) -/
  mxStart : Nat
  mxLent : Option (Nat × Nat)
  /-- the context whose command the gather, the collective engine or the sparsifier served last, by port (R189, R271) -/
  engTurn : SMap Nat
  stackLog : BitVec 4
  /-- the instruction cache: lines by location ÷ 64 with their bytes as cached, the oldest first; and the line of the last fetch
  (R125) -/
  icache : List (Nat × List Byte)
  fetchLine : Option Nat
  icacheDrop : W32
  /-- the last miss number of each context's unit (R224, R225) -/
  missNo : SMap Byte
  errRollback : Half
  errUncorr : Half
  errCorr : Half
  evc : SMap EventCtr
  /-- stopped by a reserved code (R50); the context that met it -/
  parked : Option Nat
  fenced : Bool
  lastAsid : Option (BitVec 16)
  /-- the card whose context the core held last (R184, R256) -/
  lastCard : Option Nat
  /-- its contexts are to stop at an instruction boundary and be saved (R331) -/
  leaving : Bool
  /-- the export buffer, in staging order (R326) -/
  exports : List Export
  mailbox : Mailbox
  ctxRes : BitVec 2
  /-- shoot-downs not yet acknowledged: issuer, words a and b, whether the message has arrived (R233) -/
  shoot : List (CtxId × Dword × Dword × Bool)
  /-- its clock is gated (R234) -/
  gated : Bool
  deriving DecidableEq, Repr

def Core.reset : Core :=
  { ctxs := [], holder := 0, counters := [], tlb := ⟨[], 0⟩, restrict := [], prolong := [], tt := Timetable.reset,
    mxSlots := 0xFFFFFFFFFFFFFFFF#64, mxSlotLen := 0x100#12, mxStaged := none, mxStart := 0, mxLent := none, engTurn := [], stackLog := 0xC#4, icache := [], fetchLine := none, icacheDrop := 0, missNo := [],
    errRollback := 0, errUncorr := 0, errCorr := 0, evc := [], parked := none, fenced := false, lastAsid := none, lastCard := none, leaving := false,
    exports := [], mailbox := ⟨[], []⟩, ctxRes := 0, shoot := [], gated := false }

/-- A copy-channel operation (R210, R211): who pushed it, from which port, and its command. -/
structure ChanOp where
  owner : CtxId
  port : Nat
  cmd : Command
  deriving DecidableEq, Repr

/-- A copy channel (R210, R213). -/
structure Channel where
  active : Option ChanOp
  shadow : Option ChanOp
  waiting : List ChanOp
  tag : Half
  done : Nat
  /-- for each domain with operations begun since its barrier: TAG and DONE before the first of them, and the other domains whose
  operations have begun since (R217) -/
  prior : List (Nat × Half × Nat × List Nat)
  /-- its last miss number (R224, R225) -/
  missNo : Byte
  deriving DecidableEq, Repr

def Channel.reset : Channel := ⟨none, none, [], 0, 0, [], 0⟩

/-- The gating state of a cluster (R356). -/
inductive Gate where
  | on | quiescing | quiesced | saving | saved | clkStopping | clkOff | railStopping | railOff | restarting | waking
  deriving DecidableEq, Repr

/-- An allocated block of a scratchpad (R94, R95): offset, order, card, the domain whose context allocated it, whether since
that domain's last commit, and the domain whose commit a requested free waits for. -/
structure Block where
  off : Nat
  order : Nat
  card : Nat
  dom : Nat
  fresh : Bool
  pend : Option Nat
  deriving DecidableEq, Repr

/-- A cluster. -/
structure Cluster where
  chans : SMap Channel
  blocks : List Block
  gate : Gate
  wakeLatched : Bool
  boostReq : BitVec 2
  boostCur : BitVec 2
  boostFall : BitVec 2
  evc : SMap EventCtr
  retained : List (CoreId × Core)
  deriving DecidableEq, Repr

def Cluster.reset : Cluster := ⟨[], [], .on, false, 0, 0, 0, [], []⟩

/-- A die's own registers. -/
structure Die where
  jrnSram : Dword
  jrnHbm : Dword
  pool : Nat
  idle : Nat
  rr : Nat
  evc : SMap EventCtr
  /-- the physical numbers of its spare clusters that stand in for none (R13, R16) -/
  spare : List Nat
  deriving DecidableEq, Repr

/-- The reset values of R324 and R349 for a base die. -/
def Die.reset : Die :=
  { jrnSram := 0x3C00004#64, jrnHbm := 0x13C0000400#64, pool := 0x40, idle := 0, rr := 0, evc := [], spare := [36, 37] }

/-- A queue (R65 to R67): the cached descriptor's words, cards entered and undealt, and the records it holds. -/
structure Queue where
  en : Bool
  head : W32
  tail : W32
  chead : W32
  err : Byte
  waitEnable : Option W32
  /-- the descriptor as the distributor last read it -/
  desc : List Dword
  /-- entered cards whose completion records are not yet written, in order: card HEAD first -/
  cards : List Nat
  deriving DecidableEq, Repr

/-- A card that has entered (R25, R66 to R68, R83). -/
structure CardRun where
  dw : List Dword
  table : List Dword
  queue : Nat
  num : Nat
  layer : Nat
  asid : BitVec 16
  fired : Bool
  /-- records dealt, to copy A or the only copy and to copy B (R77, R83) -/
  next : Nat
  nextB : Nat
  refused : Option Byte
  status : Byte
  flags : Byte
  killed : Bool
  /-- the answer of a miss has asked for its kill (R226) -/
  doomed : Bool
  image : Option (Nat × Nat × Nat)
  shadowBase : Nat
  /-- sections of higher layers, with whether each has started (R30) -/
  sections : List (CoreId × Bool)
  done : Bool
  deriving DecidableEq, Repr

/-- A gang (R90 to R93). -/
structure Gang where
  members : List CtxId
  w : Nat
  h : Nat
  fused : Bool
  /-- its members execute their chunks one after another: the position of the one whose turn it is, the leader's registers before each
  instruction of the chunk and at its end, and the number of instructions at which the chunk ends (R92, R207, log 90) -/
  solo : Option Nat := none
  trace : List RegState := []
  limit : Nat := 256
  deriving DecidableEq, Repr

/-- A journaled line: its line number, its pre-image, its poison, the core whose journal holds it, its place in the order of recording, and
where its entry stands in memory, none in the store of a core of L1 to L3, which no window reaches (R323, R328). -/
structure JEntry where
  line : Nat
  pre : List Byte
  poisoned : Bool
  owner : CoreId
  seq : Nat
  loc : Option Nat
  deriving DecidableEq, Repr

/-- What a domain's barrier state keeps of one core (R323). -/
structure Saved where
  core : CoreId
  data : Core
  /-- its gang is fused -/
  fused : Bool
  deriving DecidableEq, Repr

/-- A synchronisation domain of a card (R31 to R33, R258, R323). -/
structure Domain where
  card : Nat
  kind : BitVec 3
  inst : BitVec 16
  layer : Nat
  phs : Bool
  exch : Bool
  superstep : W32
  members : List CtxId
  journal : List JEntry
  saved : List Saved
  answers : SMap (List (List Dword))
  replays : SMap (List (List Dword))
  mismatches : List W32
  /-- a barrier has committed and its release is due; whether it was a bar -/
  release : Option Bool
  tokensSent : Bool
  /-- a participant has parked (R258, R262) -/
  anyParked : Bool
  /-- that as it stood at the last barrier -/
  parkedBefore : Bool
  /-- domains it has exchanged words or link data with since the barrier (R254, R276) -/
  tangled : List Nat
  /-- a superstep-too-large event that the next rollback answers: INFO, and the context and instruction behind it (R327) -/
  tooLarge : Option (W32 × Option (CtxId × VAddr))
  deriving DecidableEq, Repr

/-- A slot of a layer (R68, R69): its number, its queue and the tick at which the queue was mapped. -/
structure Slot where
  num : Nat
  queue : Nat
  since : Nat
  deriving DecidableEq, Repr

/-- A layer's distributor (R68, R69, R78). -/
structure Layer where
  slots : List Slot
  waiting : List Nat
  quantum : Half
  wd : Vector Dword 8
  deriving DecidableEq, Repr

def Layer.reset : Layer := ⟨[], [], 0x10, Vector.replicate 8 0⟩

/-- A pre-empted card's save area (R331). -/
structure SaveArea where
  card : Nat
  cores : List Saved
  /-- blocks held, by cluster -/
  blocks : List (Nat × Block)
  /-- the sections of R333, each with its first location, and the poisoned lines of the saved regions -/
  sections : List (Nat × List Byte)
  poison : List Nat
  /-- the workq log and the answers still to be replayed of its contexts, by their numbers before the save (R87) -/
  answers : SMap (List (List Dword))
  replays : SMap (List (List Dword))
  /-- a seal with HALT keeps it saved (R337) -/
  held : Bool
  /-- a seal ran while it was saved: its card's watchdog counts no time until the card resumes (R339) -/
  timeless : Bool
  /-- the clusters whose blocks it shares and that have resumed elsewhere meanwhile, each with the cluster they are in now (R332) -/
  pins : List (Nat × Nat)
  deriving DecidableEq, Repr

/-- A loaded image (R36, R37). -/
structure Image where
  addr : Nat
  load : VAddr
  asid : BitVec 16
  variant : Option Nat
  deriving DecidableEq, Repr

/-- A card of an image on its way to a boot queue: the queue, the card, its cycle table, the image, its variant and its place in the
variant's card table. -/
structure BootCard where
  queue : Nat
  dw : List Dword
  table : List Dword
  image : Nat
  variant : Nat
  index : Nat
  deriving DecidableEq, Repr

/-- An effect waiting at the merge router for its partner (R321). -/
structure MergeEntry where
  who : CtxId
  /-- the unit it came from: 0 a chunk, 1 to 5 an engine, a channel or a router by number -/
  chan : Nat
  /-- its target address, 0 of a timetable word (R313) -/
  target : Dword
  crc : Dword
  /-- its partner's copy differs (R322) -/
  bad : Bool
  /-- it has been merged, and the unit it came from goes on -/
  passed : Bool
  deriving DecidableEq, Repr

/-- A sealed checkpoint's tenant slot (R334). -/
structure Tenant where
  tm : List Byte
  policy : List Byte
  ctr : Dword
  deriving DecidableEq, Repr

/-- What the save areas in HBM hold: the saved groups, and the records, domains, gangs and queues of the cards (R331, R342, R344). -/
structure Saves where
  areas : List SaveArea
  cards : SMap CardRun
  doms : SMap Domain
  gangs : SMap Gang
  queues : SMap Queue
  deriving DecidableEq, Repr

/-- The device-wide registers. -/
structure Dev where
  leaseMax : W32
  bootTgt : W32
  fab : SMap Dword
  pwrCfg : Dword
  /-- the governed power G in µW, and the measured power in W (R351) -/
  gov : Nat
  meas : Nat
  flr : Bool
  thr : Bool
  devTime : Dword
  ptpStat : W32
  telEnergy : Dword
  energyStamp : Dword
  /-- the telemetry record that the last 256th boundary closed, until it is sent (R354) -/
  telRecord : Option (List Byte)
  intervals : Nat
  clSel : W32
  clErr : Byte
  ckptCtl : Dword
  ckptStat : Dword
  ckptProg : Dword
  tenants : SMap Tenant
  /-- which boot firmware image the boot core loaded at the last reset (R334) -/
  fw : Nat
  ready : Dword
  readyQl : Dword
  readyCl : SMap Dword
  /-- nanoseconds of slewing still to do, and for which the count stays frozen (R346) -/
  slew : Int
  freeze : Nat
  /-- the context that wrote CKPT.CTL, and the ACK bits its commit waits for (R337, R343) -/
  ckptCtx : Nat
  ckptNeed : Nat
  defects : List (List Byte)
  trig : SMap W32
  qtabBase : Nat
  /-- refusal codes of image cards as the boot core's firmware got them: image, place in the card table, code (R37) -/
  bootCodes : List (Nat × Nat × Nat)
  /-- units that gave an error, under their domain or, above 2^32, their card; the spare rows each memory and the spare lanes each
  matrix unit have used (R329) -/
  errUnits : List (Nat × ErrUnit)
  spares : SMap Nat
  laneSpares : SMap Nat
  /-- units declared failed and the card that met them, until a spare or a defect entry answers -/
  failing : List (ErrUnit × Nat)
  /-- barrier tokens received and not yet used: port and number (R261) -/
  tokens : List (Nat × W32)
  deriving DecidableEq, Repr

/-- What the device sends to the outside: interrupts, datagrams, flits, commit messages. -/
inductive Out where
  | interrupt (queue : Nat)
  | record (data : List Byte)
  | acknowledge (srcid counter : Nat)
  | flit (port peer stream seq : Nat) (words : List W32)
  | token (port : Nat) (num : W32)
  | commit (devid : Nat) (data : List Byte)
  deriving DecidableEq, Repr

/-- A device step that an earlier step made due. Each names the constructor of `Instr` that carries it out. -/
inductive Due where
  | faultMessage (c : CoreId) (k : Nat)
  | missMessage (c : CoreId) (k unit : Nat)
  | cardFetch (q : Nat)
  | dealingRound (layer : Nat)
  | cardRetirement (card : Nat)
  | completionRecordWrite (q : Nat)
  | queueEnableDeferred (q : Nat)
  | triggerFire (q : Nat)
  | quantumBoundary (layer : Nat)
  | workqAnswer (c : CoreId) (k : Nat)
  | spallocAllocate (c : CoreId) (k : Nat)
  | spallocFree (c : CoreId) (k : Nat)
  | contextEnd (c : CoreId) (k : Nat)
  | finalCommit (dom : Nat)
  | barrierCommit (dom : Nat)
  | barrierRelease (dom : Nat)
  | voteCommit (dom : Nat)
  | linkRendezvous (parent : CoreId)
  | rollback (dom : Nat)
  | preemption (card : Nat)
  | resume (card : Nat) (c : CoreId)
  | watchdogKill (card : Nat)
  | cycleSectionStart (card : Nat) (c : CoreId)
  | engine (c : CoreId) (k port : Nat)
  | completion (c : CoreId) (k port : Nat)
  | channel (clus ch : Nat)
  | timetable (c : CoreId) (entry : Nat)
  | lostWord (c : CoreId) (dir : Nat)
  | mailboxHeldEntry (c : CoreId)
  | pairMismatch (entry : Nat)
  | shootdownMessage (c : CoreId)
  | shootdownAck (c : CoreId)
  | variantReselection
  | fillerDisplacement (c : CoreId)
  | rotation (c : CoreId)
  | quiesceDone (clus : Nat)
  | saveDone (clus : Nat)
  | clockStopped (clus : Nat)
  | railOff (clus : Nat)
  | clockRestart (clus : Nat)
  | wakeDone (clus : Nat)
  | ckpt (op : Nat)
  | failedUnit (u : ErrUnit)
  | telemetry
  | contextReady (c : CoreId) (k : Nat)
  | chunkCommit (c : CoreId) (k : Nat)
  | accessHalf (c : CoreId) (k : Nat)
  | ldqArrival (c : CoreId) (k : Nat)
  /-- the steps that waited for a reserved home are due again (R207) -/
  | retry
  deriving DecidableEq, Repr

/-- One entry of the schedule: a core issues, or a device step runs. -/
inductive Turn where
  | issue (core : CoreId)
  | run (i : Instr)
  deriving DecidableEq, Repr

/-- The state of the machine. -/
structure State where
  /-- the core that issues when neither the schedule nor the agenda says otherwise -/
  cur : CoreId
  /-- a free schedule of steps, the next first (log 2) -/
  turns : List Turn
  /-- device steps that earlier steps made due, the oldest first -/
  agenda : List Due
  /-- steps of units that wait for a home that is reserved for a chunk (R207) -/
  held : List Due
  cores : SMap Core
  clus : SMap Cluster
  dies : SMap Die
  layers : SMap Layer
  dev : Dev
  queues : SMap Queue
  cards : SMap CardRun
  gangs : SMap Gang
  doms : SMap Domain
  areas : List SaveArea
  images : List Image
  /-- cards of loaded images that wait for room in their boot queue (R37) -/
  bootCards : List BootCard
  merge : List MergeEntry
  /-- words received at Quekin ports and not yet taken, and flits sent: port, peer, stream (R273) -/
  quekin : List (Nat × Nat × Nat × List W32)
  quekout : List (Nat × Nat × Nat × Nat)
  /-- the safe tier's bytes, by 2^52 times the peer's number and the address (R337, R342) -/
  tier : Memory
  /-- bytes of every memory by location (see Ops) -/
  mem : Memory
  /-- lines marked poisoned (R318) -/
  poison : List Nat
  /-- 256-byte regions of TCMs and scratchpads written since placement (R331) -/
  dirty : List Nat
  out : List Out
  /-- the number of the next card to enter -/
  nextCard : Nat
  /-- reference cycles, one per issue (log 39) -/
  ticks : Nat
  /-- the counter of free values -/
  free : Nat
  /-- journal entries recorded so far -/
  jseq : Nat
  /-- work queries posted so far -/
  posts : Nat
  deriving DecidableEq, Repr

/-- The reset values of the device-wide registers (R70, R221, R347, R372; QTAB.BASE by log 5). -/
def Dev.reset : Dev :=
  { leaseMax := 0x00040000#32, bootTgt := 0, fab := [], pwrCfg := 0x0E100000000000C8#64, gov := 0, meas := 0,
    flr := false, thr := false, devTime := 0, ptpStat := 0, telEnergy := 0, energyStamp := 0, telRecord := none, intervals := 0, clSel := 0,
    clErr := 0, ckptCtl := 0, ckptStat := 0, ckptProg := 0, tenants := [], fw := 0, ready := 0, readyQl := 0, readyCl := [],
    slew := 0, freeze := 0, ckptCtx := 0, ckptNeed := 0, defects := [], trig := [], qtabBase := 0, bootCodes := [], errUnits := [], spares := [], laneSpares := [], failing := [], tokens := [] }

/-- The TCM window's base (R196). -/
def tcmWindow : Nat := 0x00FF000000000000

/-- The boot core's size of TCM (R395). -/
def bootTcm : Nat := 0x40000

/-- s30 of context k of a core with a TCM of `T` bytes and stacks of 2^log bytes: offset T − k × S (R82). -/
def stackTop (T log k : Nat) : Dword := BitVec.ofNat 64 (tcmWindow + T - k * 2 ^ log)

/-- A boot core context at reset: live, every register 0 but s30 (R64, R82, R372, R395). It has no card: its DOMAIN.MEMBER reads KIND 0,
INST 0, as that of every firmware context does, which R31 does not say, and its ASID is 0, which R221 does not say (DESIGN CHOICE, log 87). -/
def Ctx.bootReset (k : Nat) : Ctx :=
  { Ctx.reset with
    status := .live
    r := { RegState.zero with s := (Vector.replicate 32 (0 : Dword)).setIfInBounds 30 (stackTop bootTcm 0xC k) } }

/-- The boot core at reset: its four firmware contexts (R395). -/
def Core.bootReset : Core :=
  { Core.reset with ctxs := [(0, Ctx.bootReset 0), (1, Ctx.bootReset 1), (2, Ctx.bootReset 2), (3, Ctx.bootReset 3)] }

/-- The machine right after reset: only the boot core runs (R372). -/
def State.reset : State :=
  { cur := ⟨.boot, 0⟩, turns := [], agenda := [], held := [], cores := [(CoreId.key ⟨.boot, 0⟩, Core.bootReset)], clus := [],
    dies := [], layers := [], dev := Dev.reset, queues := [], cards := [], gangs := [], doms := [], areas := [],
    images := [], bootCards := [], merge := [], quekin := [], quekout := [], tier := [], mem := [], poison := [], dirty := [], out := [], nextCard := 0, ticks := 0, free := 0, jseq := 0, posts := 0 }

end Sys2Proof.Machine
end

