-- ==== Sys2Proof/Machine/Ops.lean ====
section
/-! DEFINITION. The named operations over cores, registers, memory and translation; taking an exception; and `issue`,
the one path by which every instruction of a chain runs: the checks of R49 step 4, the guard, the chunk boundaries of
R207, the queues of R43, the effect, the trap of R118 and the advance of the pc. -/

namespace Sys2Proof.Machine

/-! The shape of the device (R13 to R18). -/

/-- How many cores of a kind there are. -/
def coreCount : CoreKind → Nat
  | .l0 => 4608 | .l1 => 576 | .l2 => 72 | .l3 => 9 | .boot => 1 | .service => 288

def coreExists (c : CoreId) : Bool := c.idx < coreCount c.kind

/-- The die of a core (R17, R31, R395). -/
def dieOf (c : CoreId) : Nat :=
  match c.kind with
  | .l0 => c.idx / 576 | .l1 => c.idx / 72 | .l2 => c.idx / 9 | .l3 => 8 | .boot => 8 | .service => c.idx / 36

/-- LOCAL (R17, R395). -/
def localOf (c : CoreId) : Nat :=
  match c.kind with
  | .l0 => c.idx % 576 | .l1 => c.idx % 72 | .l2 => c.idx % 9 | .l3 => c.idx | .boot => 0x3FF | .service => c.idx % 36

/-- LAYER (R17, R395); a service core is counted in no layer and reads as L0's firmware (log 11). -/
def layerOf : CoreKind → Nat
  | .l0 => 0 | .l1 => 1 | .l2 => 2 | .l3 => 3 | .boot => 3 | .service => 0

/-- The kind of a layer's cores. -/
def kindOfLayer : Nat → CoreKind
  | 0 => .l0 | 1 => .l1 | 2 => .l2 | _ => .l3

/-- The cluster whose scratchpad the core's cluster window reaches, as die × 36 + cluster (R196). -/
def clusterOf (c : CoreId) : Option Nat :=
  match c.kind with
  | .l0 => some (c.idx / 16)
  | .service => some c.idx
  | .l1 => some (dieOf c * 36 + localOf c / 2)
  | .l2 => some (dieOf c * 36 + 4 * localOf c)
  | _ => none

/-- Contexts of a core (R80, R395); a service core has one firmware context (log 14). -/
def ctxCount : CoreKind → Nat | .l0 => 11 | .boot => 4 | _ => 1

/-- TCM sizes (R14, R395); a service core's is taken as the boot core's (log 14). -/
def tcmSize : CoreKind → Nat
  | .l0 => 0x40000 | .l1 => 0x80000 | .l2 => 0x100000 | .l3 => 0x200000 | .boot => 0x40000 | .service => 0x40000

/-- Firmware contexts have TRAP.STAT.PRIV = 1 (R116). -/
def isPriv (k : CoreKind) : Bool := k == .boot || k == .service

/-- The mailbox target of a core (R50, R224); a service core's own misses and faults go to the boot core, which R50 does not say (DESIGN CHOICE,
log 14). -/
def mailboxOf (c : CoreId) : CoreId :=
  match c.kind with
  | .l0 => ⟨.service, c.idx / 16⟩
  | .l1 => ⟨.service, dieOf c * 36 + localOf c / 2⟩
  | .l2 => ⟨.service, dieOf c * 36 + 4 * localOf c⟩
  | _ => ⟨.boot, 0⟩

/-- The core a key names. -/
def coreOfKey (k : Nat) : CoreId :=
  ⟨match k % 8 with | 0 => .l0 | 1 => .l1 | 2 => .l2 | 3 => .l3 | 4 => .boot | _ => .service, k / 8⟩

/-- The core of a layer with a LOCAL on a die (R17, R395). -/
def coreAt (layer die loc : Nat) : CoreId :=
  match layer with
  | 0 => ⟨.l0, die * 576 + loc⟩ | 1 => ⟨.l1, die * 72 + loc⟩ | 2 => ⟨.l2, die * 9 + loc⟩ | _ => if loc = 0x3FF then ⟨.boot, 0⟩ else ⟨.l3, loc⟩

/-- The parent and the child position (R18). -/
def parentOf (c : CoreId) : Option CoreId :=
  match c.kind with
  | .l0 => some ⟨.l1, dieOf c * 72 + 2 * (localOf c / 16) + localOf c % 16 / 8⟩
  | .l1 => some ⟨.l2, dieOf c * 9 + localOf c / 8⟩
  | .l2 => some ⟨.l3, localOf c⟩
  | _ => none

def childPos (c : CoreId) : Nat :=
  match c.kind with
  | .l0 => localOf c % 8 | .l1 => localOf c % 8 | .l2 => dieOf c | _ => 0

/-- Child `p` of a core (R18). -/
def childOf (c : CoreId) (p : Nat) : Option CoreId :=
  match c.kind with
  | .l1 => some ⟨.l0, dieOf c * 576 + 16 * (localOf c / 2) + 8 * (localOf c % 2) + p⟩
  | .l2 => some ⟨.l1, dieOf c * 72 + 8 * localOf c + p⟩
  | .l3 => some ⟨.l2, p * 9 + localOf c⟩
  | _ => none

/-! Reading and writing the parts of the state. -/

def State.core (s : State) (c : CoreId) : Core := SMap.read Core.reset s.cores c.key
def State.setCore (s : State) (c : CoreId) (x : Core) : State := { s with cores := SMap.put s.cores c.key x }
def State.ctx (s : State) (a : CtxId) : Ctx := SMap.read Ctx.reset (s.core a.core).ctxs a.ctx
def State.setCtx (s : State) (a : CtxId) (x : Ctx) : State :=
  s.setCore a.core { s.core a.core with ctxs := SMap.put (s.core a.core).ctxs a.ctx x }
def State.modCtx (s : State) (a : CtxId) (g : Ctx → Ctx) : State := s.setCtx a (g (s.ctx a))
def State.modCore (s : State) (c : CoreId) (g : Core → Core) : State := s.setCore c (g (s.core c))
def State.setRegs (s : State) (a : CtxId) (r : RegState) : State := s.modCtx a fun c => { c with r := r }
def State.cluster (s : State) (c : Nat) : Cluster := SMap.read Cluster.reset s.clus c
def State.modCluster (s : State) (c : Nat) (g : Cluster → Cluster) : State :=
  { s with clus := SMap.put s.clus c (g (s.cluster c)) }
def State.die (s : State) (d : Nat) : Die :=
  SMap.read (if d = 8 then { Die.reset with jrnSram := 0x3C00000#64, jrnHbm := 0x13C0000000#64, pool := 0, spare := [] } else Die.reset) s.dies d
/-- A copy channel of a cluster (R210). -/
def State.chan (s : State) (cl ch : Nat) : Channel := SMap.read Channel.reset (s.cluster cl).chans ch
def State.modChan (s : State) (cl ch : Nat) (g : Channel → Channel) : State :=
  s.modCluster cl fun k => { k with chans := SMap.put k.chans ch (g (SMap.read Channel.reset k.chans ch)) }
def State.modDie (s : State) (d : Nat) (g : Die → Die) : State := { s with dies := SMap.put s.dies d (g (s.die d)) }
def State.layer (s : State) (l : Nat) : Layer := SMap.read Layer.reset s.layers l
def State.modLayer (s : State) (l : Nat) (g : Layer → Layer) : State := { s with layers := SMap.put s.layers l (g (s.layer l)) }
def Queue.reset : Queue := ⟨false, 0, 0, 0, 0, none, [], []⟩
def State.queue (s : State) (q : Nat) : Queue := SMap.read Queue.reset s.queues q
def State.modQueue (s : State) (q : Nat) (g : Queue → Queue) : State := { s with queues := SMap.put s.queues q (g (s.queue q)) }
def CardRun.none : CardRun :=
  { dw := [], table := [], queue := 0, num := 0, layer := 0, asid := 0, fired := false, next := 0, nextB := 0, refused := .none,
    status := 0, flags := 0, killed := false, doomed := false, image := .none, shadowBase := 0, sections := [], done := true }
/-- A field of a card's doubleword, and its CYC flag (R25). -/
def CardRun.field (k : CardRun) (i lo w : Nat) : Nat := bits (k.dw.getD i 0).toNat lo w
def CardRun.flag (k : CardRun) (i b : Nat) : Bool := bitOf (k.dw.getD i 0).toNat b
def CardRun.cyc (k : CardRun) : Bool := k.flag 3 3
/-- The starting level and entry of a card's section on a layer (R25, R29, R30). -/
def CardRun.start (k : CardRun) (layer : Nat) : Nat × Nat :=
  if k.cyc then (bits (k.table.getD layer 0).toNat 60 4, bits (k.table.getD layer 0).toNat 0 56) else (0, k.field 0 0 56)
def State.card (s : State) (n : Nat) : CardRun := SMap.read CardRun.none s.cards n
def State.modCard (s : State) (n : Nat) (g : CardRun → CardRun) : State := { s with cards := SMap.put s.cards n (g (s.card n)) }
def Domain.none : Domain :=
  { card := 0, kind := 0, inst := 0, layer := 0, phs := false, exch := false, superstep := 0, members := [], journal := [],
    saved := [], answers := [], replays := [], mismatches := [], release := .none,
    tokensSent := false, anyParked := false, parkedBefore := false, tangled := [], tooLarge := .none }
/-- Domain 0 is the firmware's: free-running. Domains of cards are numbered from 1. -/
def State.dom (s : State) (n : Nat) : Domain := SMap.read Domain.none s.doms n
def State.modDom (s : State) (n : Nat) (g : Domain → Domain) : State := { s with doms := SMap.put s.doms n (g (s.dom n)) }
def State.gangOf (s : State) (n : Nat) : Gang := SMap.read { members := [], w := 0, h := 0, fused := false } s.gangs n
def State.due (s : State) (d : Due) : State := { s with agenda := s.agenda ++ [d] }
def State.addDev (s : State) (g : Dev → Dev) : State := { s with dev := g s.dev }

/-- The context that holds the pipe of the core whose turn it is. -/
def State.holder (s : State) : CtxId := ⟨s.cur, (s.core s.cur).holder⟩

/-- All contexts the machine lists, in ascending core key and context number. -/
def State.allCtxs (s : State) : List CtxId :=
  s.cores.flatMap fun e => e.2.ctxs.map fun c => ⟨coreOfKey e.1, c.1⟩

/-- Contexts of one card. -/
def State.ctxsOf (s : State) (card : Nat) : List CtxId :=
  s.allCtxs.filter fun a => (s.ctx a).card == some card && (s.ctx a).status != .free

/-! Event counters (R377 to R379). -/

/-- Add `n` to every enabled counter of a list that counts the event for the context. -/
def bumpCtrs (l : SMap EventCtr) (ev : Nat) (ctx : Option Nat) (n : Nat) : SMap EventCtr :=
  l.map fun e =>
    let x := e.2
    let hit := x.en && x.event.toNat == ev &&
      (x.ctx == 0xFF || (match ctx with | some k => x.ctx.toNat == k | none => false))
    if hit then
      (e.1, { x with count := x.count + BitVec.ofNat 48 n, ovf := x.ovf || decide (2 ^ 48 ≤ x.count.toNat + n) })
    else e

def State.bump (s : State) (a : CtxId) (ev : Nat) : State :=
  if (s.core a.core).evc = [] then s else s.modCore a.core fun c => { c with evc := bumpCtrs c.evc ev (some a.ctx) 1 }
def State.bumpCluster (s : State) (cl ev n : Nat) : State :=
  if (s.cluster cl).evc = [] then s else s.modCluster cl fun c => { c with evc := bumpCtrs c.evc ev none n }
def State.bumpDie (s : State) (d ev n : Nat) : State :=
  if (s.die d).evc = [] then s else s.modDie d fun c => { c with evc := bumpCtrs c.evc ev none n }

/-! Locations: a physical address below 2^52, a host address above it, a core's TCM, a cluster's scratchpad (R194, R396). -/

def hostBase : Nat := 2 ^ 52
def tcmLoc (c : CoreId) (o : Nat) : Nat := 2 ^ 53 + c.key * 2 ^ 32 + o
def spLoc (cl o : Nat) : Nat := 2 ^ 54 + cl * 2 ^ 32 + o
def sramLoc (d o : Nat) : Nat := 0xF00000000000 + d * 2 ^ 32 + o
def sramSize (d : Nat) : Nat := if d = 8 then 0x2000000 else 0x4000000

def isTcm (l : Nat) : Bool := 2 ^ 53 ≤ l && l < 2 ^ 54
def isSp (l : Nat) : Bool := 2 ^ 54 ≤ l
def isHost (l : Nat) : Bool := 2 ^ 52 ≤ l && l < 2 ^ 53
def isSram (l : Nat) : Bool := 0xF00000000000 ≤ l && l < 2 ^ 52

/-- The memory kind of R313 for a poisoned byte. -/
def memKind (l : Nat) : Nat :=
  if isSp l then 2 else if isTcm l then 1 else if isHost l then 5 else if isSram l then 3 else 4

/-- The home of a location (R279): dies 0 to 8, the fabric, a cluster, a core's TCM. -/
def homeOf (l : Nat) : Nat :=
  if isSp l then 1000 + (l - 2 ^ 54) / 2 ^ 32
  else if isTcm l then 100000 + (l - 2 ^ 53) / 2 ^ 32
  else if isHost l then 99
  else if isSram l then (l - 0xF00000000000) / 2 ^ 32
  else l / (80 * 2 ^ 30)

/-- The signature bit of a line number, hashed over its canonical address bits 55:6 (R207). A line of a core's own TCM enters no
signature: its core keeps it by its number, above the 1,024 bits (R290, log 66). -/
def sigBit (line : Nat) : Nat :=
  if isTcm (line * 64) then 1024 + line else
  let l := line * 64
  let a := (if isSp l then l % 2 ^ 32 else if isHost l then l - hostBase else l) / 64 % 2 ^ 50
  (a ^^^ (a / 2 ^ 10) ^^^ (a / 2 ^ 20) ^^^ (a / 2 ^ 30) ^^^ (a / 2 ^ 40)) % 1024

/-- Whether a physical address names memory (R396). -/
def physExists (pa : Nat) : Bool :=
  pa < 8 * (80 * 2 ^ 30) ||
  (isSram pa && (pa - 0xF00000000000) / 2 ^ 32 ≤ 8 && (pa - 0xF00000000000) % 2 ^ 32 < sramSize ((pa - 0xF00000000000) / 2 ^ 32))

/-- Whether a physical address lies in a journal region (R324). -/
def State.inJournal (s : State) (pa : Nat) : Bool :=
  let mib := 2 ^ 20
  let inside (cfg : Dword) (o : Nat) : Bool :=
    bits cfg.toNat 20 17 * mib ≤ o && o < (bits cfg.toNat 20 17 + bits cfg.toNat 0 17) * mib
  if isSram pa then inside (s.die ((pa - 0xF00000000000) / 2 ^ 32)).jrnSram (pa % 2 ^ 32)
  else inside (s.die (pa / (80 * 2 ^ 30))).jrnHbm (pa % (80 * 2 ^ 30))

/-! Translation (R195 to R197, R220 to R223, R396). -/

/-- Where a byte access leads. -/
inductive Reach where
  | loc (l : Nat)
  | trap (code : Byte) (info : W32) (addr : Dword)
  | miss (va : VAddr)
  deriving DecidableEq, Repr

/-- The page size's exponent (R222). -/
def pageShift (size : Nat) : Nat := match size with | 0 => 12 | 1 => 16 | 2 => 21 | _ => 30

def TlbEntry.asid (e : TlbEntry) : Nat := bits e.tag.toNat 48 16
def TlbEntry.shift (e : TlbEntry) : Nat := pageShift (bits e.tag.toNat 2 2)
/-- The entry's page number at its own size. -/
def TlbEntry.page (e : TlbEntry) : Nat := bits e.tag.toNat 4 44 * 2 ^ 12 / 2 ^ e.shift

/-- Whether an entry serves a requester's access at a tick (R223, R231). -/
def TlbEntry.hits (e : TlbEntry) (asid ticks req va : Nat) : Bool :=
  e.valid && decide (ticks < e.expires) && e.asid == asid && e.page == va / 2 ^ e.shift &&
    (match e.once with | some h => h == req | none => true)

/-- The requester number of a context's unit. -/
def reqNo (a : CtxId) (unit : Nat) : Nat := a.ctx * 256 + unit

/-- The permission an access needs: 0 read, 1 write, 2 execute, 3 read and write (R223, R225). -/
def permits (data : Dword) (acc : Nat) : Bool :=
  match acc with
  | 0 => bitOf data.toNat 10 | 1 => bitOf data.toNat 9 | 2 => bitOf data.toNat 8
  | _ => bitOf data.toNat 10 && bitOf data.toNat 9

/-- Whether the context is in a compute phase (R32). -/
def State.computing (s : State) (a : CtxId) : Bool := (s.dom (s.ctx a).dom).phs && !(s.dom (s.ctx a).dom).exch

/-- A window address's location (R196). -/
def windowReach (s : State) (a : CtxId) (va : Dword) : Reach :=
  let n := va.toNat - tcmWindow
  let o := n % 2 ^ 40
  let no : Reach := .trap 0x06 0 va
  match n / 2 ^ 40 with
  | 0 => if o < tcmSize a.core.kind then .loc (tcmLoc a.core o) else no
  | 1 =>
    match clusterOf a.core with
    | some cl =>
      if 0x400000 ≤ o then no
      else if 0x380000 ≤ o && !isPriv a.core.kind then no
      else .loc (spLoc cl o)
    | none => if a.core.kind == .l3 && o < 0x100000 then .loc (sramLoc 8 (a.core.idx * 0x100000 + o)) else no
  | 2 =>
    let d := dieOf a.core
    if sramSize d ≤ o then no
    else if s.inJournal (sramLoc d o) && !isPriv a.core.kind then no
    else .loc (sramLoc d o)
  | 3 =>
    let d := o / 2 ^ 32
    if 8 < d then no
    else if sramSize d ≤ o % 2 ^ 32 then no
    else if s.inJournal (sramLoc d (o % 2 ^ 32)) && !isPriv a.core.kind then no
    else .loc (sramLoc d (o % 2 ^ 32))
  | _ => no

/-- Whether an address's bits 55:48 name a local window (R195). -/
def isWindow (va : Dword) : Bool := bits va.toNat 48 8 == 0xFF

/-- A translated address's location (R220, R223, R227, R396). -/
def translate (s : State) (a : CtxId) (unit acc : Nat) (va : Dword) : Reach :=
  match (s.core a.core).tlb.slots.find? fun e => e.hits (s.ctx a).asid.toNat s.ticks (reqNo a unit) va.toNat with
  | none => .miss (BitVec.ofNat 56 va.toNat)
  | some e =>
    let deny : Reach := .trap 0x11 (BitVec.ofNat 32 acc) va
    if !permits e.data acc then deny
    else
      let pa := bits e.data.toNat 12 40 * 2 ^ 12 / 2 ^ e.shift * 2 ^ e.shift + va.toNat % 2 ^ e.shift
      if bitOf e.data.toNat 11 then .loc (hostBase + pa)
      else if !physExists pa then deny
      else if s.inJournal pa && !isPriv a.core.kind then .trap 0x06 0 va
      else .loc pa

/-- Copy B's redirection into its shadow region (R77). -/
def redirect (s : State) (a : CtxId) (va : Dword) (r : Reach) : Reach :=
  match (s.ctx a).copy, (s.ctx a).card with
  | .copyB, some n =>
    let k := s.card n
    let ob := bits ((k.dw.getD 5 0).toNat) 0 56
    let ol := bits ((k.dw.getD 6 0).toNat) 0 40
    if ob ≤ va.toNat && va.toNat < ob + ol then
      (match r with | .loc _ => .loc (k.shadowBase + (va.toNat - ob)) | r => r)
    else r
  | _, _ => r

/-- The window rules for one byte, before any translation: where it leads, or none for an address to translate; `own` for the
core's own accesses, which the compute phase limits (R195 to R197). -/
def reachWindow (s : State) (a : CtxId) (own : Bool) (va : Dword) : Option Reach :=
  if va.toNat / 2 ^ 56 ≠ 0 then some (.trap 0x06 0 va)
  else if isWindow va then
    match windowReach s a va with
    | .loc l =>
      some (if own && s.computing a && !(isTcm l || isSp l || bits va.toNat 40 8 == 1) then .trap 0x07 0 va else .loc l)
    | r => some r
  else if own && s.computing a then some (.trap 0x07 0 va)
  else none

/-- One byte of an access by a unit of a context (R195 to R197, R220). -/
def reachByte (s : State) (a : CtxId) (unit acc : Nat) (own : Bool) (va : Dword) : Reach :=
  match reachWindow s a own va with
  | some r => r
  | none => redirect s a va (translate s a unit acc va)

/-- All bytes of an access, in their order; the first failure decides. -/
def reachEach (s : State) (a : CtxId) (unit acc : Nat) (own : Bool) : List Dword → Except Reach (List Nat)
  | [] => .ok []
  | v :: t =>
    match reachByte s a unit acc own v with
    | .loc l => (reachEach s a unit acc own t).map (l :: ·)
    | r => .error r

/-- The window failure of a byte, if any. -/
def windowFail (s : State) (a : CtxId) (own : Bool) (va : Dword) : Option Reach :=
  match reachWindow s a own va with
  | some (.trap c i v) => some (.trap c i v)
  | _ => none

/-- All bytes of an instruction's access: the window rules of every byte before the translation of any (R200). -/
def reachAll (s : State) (a : CtxId) (unit acc : Nat) (own : Bool) (vas : List Dword) : Except Reach (List Nat) :=
  match vas.findSome? (windowFail s a own) with
  | some r => .error r
  | none => reachEach s a unit acc own vas

/-- The addresses of `n` bytes from `va`. -/
def span (va : Dword) (n : Nat) : List Dword := (List.range n).map fun i => va + BitVec.ofNat 64 i

/-! Memory as a context sees it: its own held stores over the committed bytes (R207). -/

/-- The position of the member whose turn it is, where a gang's chunks are executed one after another (log 90). -/
def State.solo (s : State) (a : CtxId) : Option Nat :=
  match (s.ctx a).gang with | some g => if a.ctx = 0 then (s.gangOf g).solo else none | none => none

/-- The members of its gang that have executed their chunks before a context's, the latest first (log 90). -/
def State.before (s : State) (a : CtxId) : List CtxId :=
  match (s.ctx a).gang, s.solo a with
  | some g, some t => if (s.gangOf g).members[t]? = some a then ((s.gangOf g).members.take t).reverse else []
  | _, _ => []

def State.seeByte (s : State) (a : CtxId) (l : Nat) : Byte :=
  match (a :: s.before a).find? fun m => SMap.has (s.ctx m).chunk.stores l with
  | some m => SMap.read (α := Byte) 0 (s.ctx m).chunk.stores l
  | none => Memory.byte s.mem l

/-- A little-endian number from a list of locations. -/
def State.see (s : State) (a : CtxId) : List Nat → Nat
  | [] => 0
  | l :: t => (s.seeByte a l).toNat + 256 * s.see a t

/-- The lines of an access, each once. -/
def linesOf (locs : List Nat) : List Nat := (locs.map (· / 64)).dedup

/-- Count the bytes of an access that lie in each HBM stack (R378). -/
def State.noteHbm (s : State) (ev : Nat) (locs : List Nat) : State :=
  (List.range 8).foldl (fun s d => s.bumpDie d ev (locs.countP fun l => l / (80 * 2 ^ 30) == d)) s

/-- Record lines read by the running chunk. -/
def State.noteRead (s : State) (a : CtxId) (locs : List Nat) : State :=
  (s.modCtx a fun c => { c with chunk := { c.chunk with rlines := c.chunk.rlines ++ linesOf locs } }).noteHbm 0x41 locs

/-- Hold a store of bytes until the chunk commits. -/
def State.hold (s : State) (a : CtxId) (l : List (Nat × Byte)) : State :=
  s.modCtx a fun c => { c with chunk := { c.chunk with
    stores := l.reverse ++ c.chunk.stores, wlines := c.chunk.wlines ++ linesOf (l.map (·.1))
    pcs := c.chunk.pcs ++ ((l.map (·.1 / 64)).dedup).map fun n => (n, c.r.pc) } }

/-- A poisoned byte among the locations that no held store covers (R318). -/
def State.poisonAt (s : State) (a : CtxId) (l : List (Nat × Dword)) : Option (Nat × Dword) :=
  l.find? fun e => s.poison.contains (e.1 / 64) && !((a :: s.before a).any fun m => SMap.has (s.ctx m).chunk.stores e.1)

/-! Registers (R60, R61). -/

def RegState.rdS (r : RegState) (n : Nat) : Dword := if n = 0 then 0 else r.s[n]?.getD 0
def RegState.wrS (r : RegState) (n : Nat) (x : Dword) : RegState :=
  if n = 0 then r else { r with s := r.s.setIfInBounds n x }
def RegState.rdF (r : RegState) (n : Nat) : Dword := r.f[n]?.getD 0
def RegState.wrF (r : RegState) (n : Nat) (x : Dword) : RegState := { r with f := r.f.setIfInBounds n x }
def RegState.rdV (r : RegState) (n : Nat) : Vec := r.v[n]?.getD 0
def RegState.wrV (r : RegState) (n : Nat) (x : Vec) : RegState := { r with v := r.v.setIfInBounds n x }
/-- All ones over the predicate width (R60, R61). -/
def pOnes (k : CoreKind) : Dword := BitVec.ofNat 64 (2 ^ k.pwidth - 1)
def RegState.rdP (r : RegState) (k : CoreKind) (n : Nat) : Dword := if n = 0 then pOnes k else r.p[n]?.getD 0
def RegState.wrP (r : RegState) (k : CoreKind) (n : Nat) (x : Dword) : RegState :=
  if n = 0 then r else { r with p := r.p.setIfInBounds n (x &&& pOnes k) }
def RegState.rdM (r : RegState) (n : Nat) : BitVec 8192 := r.m[n]?.getD 0
def RegState.wrM (r : RegState) (n : Nat) (x : BitVec 8192) : RegState := { r with m := r.m.setIfInBounds n x }
/-- Raise flags in the running chunk. -/
def RegState.raise (r : RegState) (flags : Nat) : RegState := { r with pend := r.pend ||| BitVec.ofNat 8 flags }

/-! Issue. -/

/-- An arrival counter (R255). -/
def State.counter (s : State) (c : CoreId) (n : Nat) : Counter := SMap.read ⟨false, 0⟩ (s.core c).counters n

/-- A counter's word as a wait reads it (R255, R257). -/
def counterWord (x : Counter) : Dword := BitVec.ofNat 64 ((if x.err then 2 ^ 31 else 0) + x.count.toNat)

/-- What an issuing instruction sees: its context, its fields and form, its registers as they stand, and the leader's
registers in a fused gang (R92). -/
structure Env where
  at' : CtxId
  f : Fields
  fm : Form
  r : RegState
  lead : RegState
  /-- what the old value of stq reads as (log 6) -/
  stale : BitVec 256
  /-- the domain's SUPERSTEP.COUNT (R33) -/
  ss : W32

def Env.kind (e : Env) : CoreKind := e.at'.core.kind
/-- Queue mode (R43). -/
def Env.q (e : Env) : Bool := e.f.qpair

/-- A precise trap: cause, INFO, FAULT.ADDR, and whether EPC is the next instruction's address (R118, R119). -/
structure Trap where
  code : Byte
  info : W32
  addr : Dword
  next : Bool
  deriving DecidableEq, Repr

/-- What an instruction does. -/
inductive Act where
  /-- its effect is made; the pc moves to the next instruction -/
  | done (s : State)
  /-- its effect is made; the pc moves to an address -/
  | jump (s : State) (pc : VAddr)
  /-- as `jump`, and the chunk ends here (R119, R120) -/
  | leap (s : State) (pc : VAddr)
  | trap (t : Trap)
  /-- it waits; the state may hold what it has offered -/
  | wait (w : Wait) (s : State)
  | miss (va : VAddr) (acc : Nat)
  /-- the context parks (R124) -/
  | park (s : State)
  /-- the chunk must end before it (R205) -/
  | endFirst

/-- The guard of a scalar instruction (R42). -/
def guardBit (k : CoreKind) (f : Fields) (r : RegState) : Bool :=
  match f.reg with
  | none => true
  | some g => if f.qpair then true else xor (bitOf (r.rdP k g.psel.toNat).toNat 0) g.pneg

/-- Whether element j, w bits wide, is active (R152). -/
def elemActive (k : CoreKind) (f : Fields) (r : RegState) (w j : Nat) : Bool :=
  match f.reg with
  | none => true
  | some g => if f.qpair then true else xor (bitOf (r.rdP k g.psel.toNat).toNat (j * w / 8)) g.pneg

/-- The address after an instruction's chain (R47). -/
def nextPc (fm : Form) (f : Fields) (pc : VAddr) : VAddr := pc + BitVec.ofNat 56 (2 * f.chainLen fm.paged)

/-- Entries of the stq that the access half has not drained (R127). -/
def Ctx.stqHeld (c : Ctx) : Nat := c.r.stq.length - c.ahead.countP fun h => h.store && h.fault.isNone

/-- Begin a chunk with its first instruction: the checkpoint of R207; an access made ahead of it has read its home already
(R291). -/
def Ctx.beginChunk (c : Ctx) : Ctx :=
  if c.chunk.count = 0 then
    { c with chunk := { Chunk.empty with
        ckpt := c.r, squashes := c.chunk.squashes, split := c.chunk.split, against := if c.ahead = [] then [] else c.chunk.against
        rlines := if c.chunk.squashes < 16 then [] else linesOf (c.ahead.flatMap Ahead.locs) } }
  else c

/-- Count an instruction; the 256th, or one that ends the chunk, ends it (R207). -/
def Ctx.countOne (c : Ctx) (ends : Bool) : Ctx :=
  { c with chunk := { c.chunk with count := c.chunk.count + 1, ended := ends || decide (256 ≤ c.chunk.count + 1) } }

/-- The contexts that stand in lock-step with one: the members of its gang while it is fused or executes a chunk member by member, leader
first, or it alone (R92). -/
def State.lockstep (s : State) (a : CtxId) : List CtxId :=
  match (s.ctx a).gang with
  | some g =>
    if a.ctx = 0 && ((s.gangOf g).fused || (s.gangOf g).solo.isSome) && 1 < (s.gangOf g).members.length then (s.gangOf g).members else [a]
  | none => [a]

/-- The contexts that issue together with one: those in lock-step with it, or it alone while they execute a chunk one after another
(R92). -/
def State.together (s : State) (a : CtxId) : List CtxId := if (s.solo a).isSome then [a] else s.lockstep a

/-- Whether it is another member's turn to execute the gang's chunk. -/
def State.notTurn (s : State) (a : CtxId) : Bool :=
  match s.solo a with | some t => (s.lockstep a)[t]? != some a | none => false

/-- A running chunk whose homes are reserved for it and which commits without refusal: after 16 squashes in a row, or a cut's (R207,
R303). -/
def Chunk.forced (c : Chunk) : Bool := (c.sure || decide (16 ≤ c.squashes)) && (c.count != 0 || c.rlines != [])

/-- The homes of the lines a chunk has read and written. -/
def Chunk.homes (c : Chunk) : List Nat := ((c.rlines ++ c.wlines).map fun l => homeOf (l * 64)).dedup

/-- Whether a home of some locations is reserved for a running chunk (R207). -/
def State.reserved (s : State) (locs : List Nat) : Bool :=
  s.allCtxs.any fun b => (s.ctx b).chunk.forced && locs.any fun l => (s.ctx b).chunk.homes.contains (homeOf l)

/-- A step of a unit that waits for a reserved home. -/
def State.holdDue (s : State) (d : Due) : State := { s with held := if s.held.contains d then s.held else s.held ++ [d] }

/-- A context whose next execution is to run reserved waits while another's does, so that no two hold each other's homes; firmware, on
which a miss may wait, does not (R207, log 91). -/
def State.mustWait (s : State) (a : CtxId) : Bool :=
  let c := (s.ctx a).chunk
  decide (16 ≤ c.squashes) && c.rlines == [] && c.wlines == [] && !isPriv a.core.kind
    && s.allCtxs.any fun b => (s.ctx b).chunk.forced && (s.ctx b).chunk.homes != [] && !(s.lockstep a).contains b

/-- Whether a context is ready for the pipe: it is live, and so is every member in lock-step with it, whose turn it is (R92, R129). -/
def State.readyCtx (s : State) (a : CtxId) : Bool :=
  (s.ctx a).status == .live && ((s.lockstep a).all fun m => (s.ctx m).status == .live) && !s.notTurn a && !s.mustWait a

/-- The next context of a core to hold the pipe: the first ready one in ascending number after the holder (R129). -/
def State.pick (s : State) (c : CoreId) : Nat :=
  let n := ctxCount c.kind
  let h := (s.core c).holder
  match (List.range n).find? fun i => s.readyCtx ⟨c, (h + 1 + i) % n⟩ with
  | some i => (h + 1 + i) % n
  | none => h

/-- Give the pipe of a core to a context (R129). -/
def State.giveTo (s : State) (c : CoreId) (h : Nat) : State :=
  if h = (s.core c).holder then s else (s.modCore c fun k => { k with holder := h }).bump ⟨c, h⟩ 0x06

/-- Give the pipe to the next ready context (R129). -/
def State.switch (s : State) (c : CoreId) : State := s.giveTo c (s.pick c)

/-- A context becomes live; where the pipe of its core idles, it takes it (R129). -/
def State.wake (s : State) (a : CtxId) : State :=
  let idle := !((s.core a.core).ctxs.any fun x => s.readyCtx ⟨a.core, x.1⟩)
  let s := s.modCtx a fun c => { c with status := .live }
  if idle then s.giveTo a.core a.ctx else s

/-- Drop what the access half has done ahead: accesses made, faults held, a miss sent (R128, R224). -/
def Ctx.dropAhead (c : Ctx) : Ctx := { c with ahead := [], misses := c.misses.filter fun m => m.early.isNone }

/-- Take a precise trap: CODE, INFO, FAULT.ADDR and EPC are recorded, the context stops, its message is due, and the
core switches (R118, R314). -/
def takeTrap (s : State) (a : CtxId) (t : Trap) (pc next : VAddr) : State :=
  let s := s.modCtx a fun c => { c.dropAhead with
    r := { c.r with code := t.code, info := t.info, faddr := t.addr, epc := if t.next then next else pc, ldq := [], ldqDue := [] }
    status := .stopped, pendFault := none, msgDue := true, chunk := { Chunk.empty with ckpt := c.r } }
  ((s.bump a 0x08).due (.faultMessage a.core a.ctx)).switch a.core

/-- Consume a poisoned byte in a phase-structured card: no trap, the message has ROLLBACK set, the domain rolls back and squashes the open
chunk (R318, R328 step 2). The registers of the message are left in the context for FAULT_MESSAGE; the rollback restores them. -/
def consumePoison (s : State) (a : CtxId) (t : Trap) (pc : VAddr) : State :=
  let s := s.modCtx a fun c =>
    let r := { c.chunk.ckpt with code := t.code, info := t.info, faddr := t.addr, epc := pc }
    { c.dropAhead with r := r, status := .stopped, msgDue := true, pendFault := none, chunk := { c.chunk with ckpt := r, ended := false } }
  ((s.due (.faultMessage a.core a.ctx)).due (.rollback (s.ctx a).dom)).switch a.core

/-- Whether the context's domain is phase-structured (R32). -/
def State.phased (s : State) (a : CtxId) : Bool := (s.dom (s.ctx a).dom).phs

/-- A unit as the table of errors names it: a word of memory by its 4 KiB block, of a scratchpad also by its bank, (a ÷ 4) mod 64 (R15). -/
def unitKey : ErrUnit → ErrUnit | .memory l => .memory (l / 4096 * 4096 + (if isSp l then l / 4 % 64 * 4 else 0)) | u => u

/-- Note an error of a unit under the domain of the context's open epoch, or under its card; the second one declares it failed (R329). -/
def noteUnit (s : State) (a : CtxId) (u : ErrUnit) : State :=
  match (s.ctx a).card with
  | none => s
  | some n =>
    let k := (if s.phased a then (s.ctx a).dom else 2 ^ 32 + n, unitKey u)
    if s.dev.errUnits.contains k then
      ((s.addDev fun d => { d with failing := d.failing ++ [(k.2, n)] }).modCtx a fun c => { c with perm := true }).due (.failedUnit k.2)
    else s.addDev fun d => { d with errUnits := d.errUnits ++ [k] }

/-- Count an uncorrectable error that a core or its engines consumed (R318, R378). -/
def countUncorr (s : State) (c : CoreId) : State :=
  (s.modCore c fun k => { k with errUncorr := if k.errUncorr = 0xFFFF then k.errUncorr else k.errUncorr + 1 }).bumpDie (dieOf c) 0x46 1

/-- Count a consumed uncorrectable error, and note its memory (R318, R329). -/
def noteUncorr (s : State) (a : CtxId) (loc : Option Nat) : State :=
  let s := countUncorr s a.core
  match loc with | some l => noteUnit s a (.memory l) | none => s

/-- The location that an address of a context's own accesses names. -/
def locOf (s : State) (a : CtxId) (va : Dword) : Option Nat := match reachByte s a 0 0 false va with | .loc l => some l | _ => none

/-- The number of a requester's next miss: each copy channel and each unit of a context counts its own, from 1; no rollback, save or
kill takes a number back (R224 to R226, R235). -/
def State.nextMiss (s : State) (a : CtxId) (unit : Nat) : Byte :=
  1 + if unit % 16 = 3 then (match clusterOf a.core with | some cl => (s.chan cl (unit / 16)).missNo | none => 0)
    else SMap.read (0 : Byte) (s.core a.core).missNo (reqNo a unit)

/-- Count a requester's miss. -/
def State.countMiss (s : State) (a : CtxId) (unit : Nat) : State :=
  let n := s.nextMiss a unit
  if unit % 16 = 3 then (match clusterOf a.core with | some cl => s.modChan cl (unit / 16) fun x => { x with missNo := n } | none => s)
  else s.modCore a.core fun k => { k with missNo := SMap.put k.missNo (reqNo a unit) n }

/-- Send a miss: it is numbered, its message is due, and the requester waits (R224, R225); `early` for one of the access half. A context's own
accesses have one miss outstanding: a miss of the execute half takes the place of the access half's, which becomes stale (DESIGN CHOICE, log
100). -/
def sendMissBy (early : Option (VAddr × Bool)) (s : State) (a : CtxId) (unit acc : Nat) (va : VAddr) : State :=
  let n := s.nextMiss a unit
  let s := (s.countMiss a unit).modCtx a fun c => { c with misses := c.misses.filter (fun m => m.unit != unit) ++ [⟨unit, n, va, acc, false, early⟩] }
  (s.bump a 0x07).due (.missMessage a.core a.ctx unit)

/-- A requester that waits sends its miss. -/
def sendMiss (s : State) (a : CtxId) (unit acc : Nat) (va : VAddr) : State := sendMissBy none s a unit acc va

/-- A miss of a context's own access: it stalls. Where the access half has sent this miss already, the context waits for that answer
(R224). -/
def stallMiss (s : State) (a : CtxId) (acc : Nat) (va : VAddr) : State :=
  let same (m : Miss) : Bool := m.unit == 0 && m.early.isSome && m.va == va && m.acc == acc
  let s := if (s.ctx a).misses.any same then
      s.modCtx a fun c => { c with misses := c.misses.map fun m => if same m then { m with early := none } else m }
    else sendMiss s a 0 acc va
  (s.modCtx a fun c => { c with status := .waiting .miss }).switch a.core

/-! Squashes. -/

/-- Return a context to its chunk's checkpoint, registers and control registers: held stores and staged effects are dropped, reserved
helpers given back, a wait within the chunk is over and a miss of its own is stale (R88, R207, R226). -/
def squash (s : State) (a : CtxId) : State :=
  let fx := (s.ctx a).chunk.effects
  let hs := fx.filterMap fun x => match x with | .start h _ _ => some h | _ => none
  let s := hs.foldl (fun s h => s.modCtx ⟨a.core, h⟩ fun c =>
    if c.status = .reserved then { c with status := if fx.contains (.joined h) then .ended else .free } else c) s
  if (s.ctx a).chunk.count ≤ (s.ctx a).chunk.base then s
  else (s.modCtx a fun c => { c with
    r := c.chunk.ckpt, ahead := [], pendFault := none, misses := c.misses.filter fun m => m.unit != 0
    status := match c.status with | .waiting _ => .live | x => x
    chunk := { Chunk.empty with ckpt := c.chunk.ckpt, squashes := c.chunk.squashes + 1, count := c.chunk.base, base := c.chunk.base } }).bump a 0x04

/-- The contexts whose chunks commit or are squashed with one's: its fused gang's members, or those whose chunk holds the same split
(R92, R93, R207, log 68). -/
def commitGroup (s : State) (a : CtxId) : List CtxId :=
  match (s.ctx a).gang with
  | some g => if (s.ctx a).chunk.split then (s.gangOf g).members.filter fun m => (s.ctx m).chunk.split else s.lockstep a
  | none => s.lockstep a

/-- A squashed split leaves its gang fused as it was (R93); one that executes its chunk member by member begins again with its leader. -/
def fuseAgain (s : State) (ms : List CtxId) : State :=
  ms.foldl (fun s m => match (s.ctx m).gang with
    | some g =>
      let x := s.gangOf g
      if (s.ctx m).chunk.split || x.solo.isSome then
        { s with gangs := SMap.put s.gangs g { x with fused := x.fused || (s.ctx m).chunk.split, solo := x.solo.map fun _ => 0, trace := [] } }
      else s
    | none => s) s

/-- The chunks of some contexts are executed again from their checkpoints, their gang fused as it was; none stands at the merge router any
more (R92, R93, R207, R321). -/
def squashGroup (s : State) (ms : List CtxId) : State :=
  let s := fuseAgain s ms
  ms.foldl squash { s with merge := s.merge.filter fun x => !(x.chan == 0 && ms.contains x.who) }

/-- What issuing one context's instruction came to. -/
inductive Issued where
  | ran (s : State)
  /-- its chunk must commit first -/
  | first (s : State)
  | waits (s : State)
  | trapped (s : State)

/-- A context's link form has no effect any more: its offer is not seen, and is made again when the context goes on (R254). -/
def Ctx.withdrawn (c : Ctx) : Ctx := { c with link := c.link.map fun o => { o with ready := false } }

/-- Stop a context at its instruction boundary with a cause; its open chunk ends there, unless a rollback is to squash it. -/
def stopAt (s : State) (m : CtxId) (code : Byte) (info : W32) : State :=
  s.modCtx m fun c =>
    match c.status with
    | .live | .waiting _ => { c.dropAhead.withdrawn with
        r := { c.r with code := code, info := info, faddr := c.r.pc.setWidth 64, epc := c.r.pc, ldq := [], ldqDue := [] }
        status := .stopped, arrival := none, waitWord := none
        chunk := { c.chunk with ended := c.chunk.ended || (!s.phased m && decide (c.chunk.base < c.chunk.count)) } }
    | _ => c

/-- An error on a core that hosts a gang member stops every other member at an instruction boundary with cause 0x1A, a fused gang's at the
same instruction (R92, R330). -/
def gangStop (s : State) (a : CtxId) : State :=
  let s := if (s.solo ⟨a.core, 0⟩).isSome then squashGroup s (s.lockstep ⟨a.core, 0⟩) else s
  match (s.ctx ⟨a.core, 0⟩).gang with
  | none => s
  | some g =>
    if (s.gangOf g).members.length ≤ 1 then s
    else ((s.gangOf g).members.filter (· != a)).foldl (fun s m => stopAt s m 0x1A (BitVec.ofNat 32 (s.ctx a).gpos)) s

/-- Whether a context is a member of a gang larger than 1 × 1. -/
def State.inGang (s : State) (a : CtxId) : Bool :=
  a.ctx == 0 && (match (s.ctx a).gang with | some g => decide (1 < (s.gangOf g).members.length) | none => false)

/-- Stop at an instruction with a trap; the chunk before it ends first, but for an error consumed in a phase-structured card, whose rollback
squashes it (R118, R318, R328). -/
def issueTrap (s : State) (a : CtxId) (t : Trap) (pc next : VAddr) : Issued :=
  if (s.ctx a).chunk.count ≠ 0 ∧ ¬ (t.code = 0x17 ∧ s.phased a) then
    .first (s.modCtx a fun c => { c with chunk := { c.chunk with ended := true } })
  else if t.code = 0x17 then
    let l := locOf s a t.addr
    .trapped (noteUncorr (gangStop (if s.phased a then consumePoison s a t pc else takeTrap s a t pc next) a) a l)
  else .trapped (takeTrap s a t pc next)

/-- The effect is made: take the ldq entries read, move the pc, count the instruction. -/
def retire (s : State) (a : CtxId) (need : Nat) (pc : VAddr) (ends : Bool) : State :=
  (s.modCtx a fun c => ({ c with r := { c.r with pc := pc, ldq := c.r.ldq.drop need }, status := .live }).countOne ends).bump a 0x02

/-- Stall at an instruction that reads an empty ldq or writes a full stq (R129, R130). -/
def queueStall (s : State) (a : CtxId) (w : Wait) : State :=
  ((s.modCtx a fun c => { c with
      r := { c.r with qstall := if c.r.qstall = 0xFFFFFFFF then c.r.qstall else c.r.qstall + 1 }
      status := .waiting w }).bump a 0x05).switch a.core

/-- Issue one instruction in one context. -/
def issueOne (fm : Form) (f : Fields) (ok : CoreId → Fields → Bool) (control : Bool) (body : Env → State → Act)
    (a : CtxId) (lead : RegState) (s : State) : Issued :=
  let s := s.modCtx a Ctx.beginChunk
  let c := s.ctx a
  let k := a.core.kind
  let pc := c.r.pc
  let next := nextPc fm f pc
  if !(fm.legal k f && ok a.core f) then issueTrap s a ⟨0x01, 0, BitVec.ofNat 64 pc.toNat, false⟩ pc next
  else
    if fm.guard = .scalar && !guardBit k f (if control then lead else c.r) then .ran (retire s a 0 next false)
    else if fm.ends.isBefore && c.chunk.count ≠ 0 then
      .first (s.modCtx a fun c => { c with chunk := { c.chunk with ended := true } })
    else if c.r.ldq.length < fm.ldqNeed f then .waits (queueStall s a (.ldq (fm.ldqNeed f)))
    else if fm.stqDst f && 8 ≤ c.stqHeld then .waits (queueStall s a .stq)
    else
      let e : Env := ⟨a, f, fm, c.r, lead, Config.staleQueue s.free, (s.dom c.dom).superstep⟩
      let s := if fm.stqDst f then { s with free := s.free + 1 } else s
      match body e s with
      | .done s => .ran (retire s a (fm.ldqNeed f) next fm.ends.isHolding)
      | .jump s pc => .ran (retire s a (fm.ldqNeed f) pc fm.ends.isHolding)
      | .leap s pc => .ran (retire s a (fm.ldqNeed f) pc true)
      | .trap t => issueTrap s a t pc next
      | .wait w s => .waits ((s.modCtx a fun c => { c with status := .waiting w }).switch a.core)
      | .miss va acc => .waits (stallMiss s a acc va)
      | .park s => .ran ((((s.modCtx a fun c => { c with status := .parking, chunk := Chunk.empty }).bump a 0x02).due
          (.contextEnd a.core a.ctx)).switch a.core)
      | .endFirst => .first (s.modCtx a fun c => { c with chunk := { c.chunk with ended := true } })

/-- A stalled instruction of a fused gang: each member whose condition does not hold stalls, and one whose condition holds keeps the
counter's word of that moment until all issue (R92, R257). -/
def stallGang (fm : Form) (f : Fields) (ok : CoreId → Fields → Bool) (control : Bool) (body : Env → State → Act)
    (lead : RegState) (word : CoreId → Dword) : List CtxId → State → State
  | [], s => s
  | m :: t, s =>
    stallGang fm f ok control body lead word t (match issueOne fm f ok control body m lead s with
      | .waits s' => s'
      | .ran _ => s.modCtx m fun c => { c with waitWord := some (c.waitWord.getD (word m.core)) }
      | _ => s)

/-- Issue for each member in turn; one that cannot issue holds them all, a trap in one stops them all; they
arrive at a rendezvous together (R92). Where several would trap, the first in the order of the gang does, and it alone records a trap: which
of them do is the model's choice (DESIGN CHOICE, log 92). -/
def issueGang (fm : Form) (f : Fields) (ok : CoreId → Fields → Bool) (control : Bool) (body : Env → State → Act)
    (lead : RegState) (s0 : State) : List CtxId → State → State
  | [], s => s
  | a :: t, s =>
    match issueOne fm f ok control body a lead s with
    | .ran s' => issueGang fm f ok control body lead s0 t s'
    | .waits s' =>
      if (s'.ctx a).status = .waiting .rendezvous ∨ (s'.ctx a).status = .waiting .link then issueGang fm f ok control body lead s0 t s'
      else match issueOne fm f ok control body a lead s0 with
        | .waits s' => match (s'.ctx a).status with
          | .waiting (.counter n _) => stallGang fm f ok control body lead (fun c => counterWord (s0.counter c n)) (s0.lockstep a) s0
          | _ => s'
        | _ => s0
    | .first _ => s0.modCtx a fun c => { c with chunk := { c.chunk with ended := true } }
    | .trapped _ => match issueOne fm f ok control body a lead s0 with
      | .trapped s' => s'
      | _ => s0

/-- In a fused gang every member's pc follows the leader's (R92). -/
def followLeader (s : State) (ms : List CtxId) : State :=
  match ms with
  | [] => s
  | l :: t => t.foldl (fun s a => s.modCtx a fun c =>
      if c.status = .live && (s.ctx l).status = .live then { c with r := { c.r with pc := (s.ctx l).r.pc } } else c) s

/-! A chunk whose members executed it together and met each other's writes is executed member by member, each seeing the stores that those
before it hold: the chunks then stand in the order of the gang (R92, R207, R290, log 90). -/

/-- Change the gang of a context. -/
def State.modGang (s : State) (a : CtxId) (h : Gang → Gang) : State :=
  match (s.ctx a).gang with | some g => { s with gangs := SMap.put s.gangs g (h (s.gangOf g)) } | none => s

/-- The turn passes to the next member once one has executed its chunk. -/
def passTurn (s : State) (a : CtxId) (t : Nat) : State :=
  match (s.lockstep a)[t + 1]? with
  | none => s
  | some m => let s := s.modGang a fun g => { g with solo := some (t + 1) }
              if (s.ctx m).status = .live then s.wake m else s

/-- After an instruction of the leader's chunk: its registers are kept for the others, up to a split; at the chunk's end the turn passes. -/
def afterLead (s : State) (a : CtxId) (was : RegState) (split : Bool) : State :=
  let limit := match (s.ctx a).gang with | some g => (s.gangOf g).limit | none => 256
  let s := s.modCtx a fun c => { c with chunk := { c.chunk with ended := c.chunk.ended || decide (limit ≤ c.chunk.count) } }
  let c := s.ctx a
  let s := s.modGang a fun g => { g with trace := g.trace ++ (if split then [] else if c.chunk.ended && !c.chunk.split then [was, c.r] else [was]) }
  if c.chunk.ended then passTurn s a 0 else s

/-- After an instruction of another member: it follows the leader's addresses, and its chunk ends where the leader's does; where it has to
end earlier, all begin again with that end. -/
def afterFollower (s : State) (a : CtxId) (t : Nat) : State :=
  let lead := (s.ctx ((s.lockstep a).headD a)).chunk
  let path := match (s.ctx a).gang with | some g => (s.gangOf g).trace | none => []
  let c := s.ctx a
  let last := if lead.split then 256 else path.length - 1
  if c.chunk.ended ∧ c.chunk.count < (if lead.split then path.length else last) then
    squashGroup (s.modGang a fun g => { g with limit := c.chunk.count }) (s.lockstep a)
  else
    let s := s.modCtx a fun c => { c with
      r := match path[c.chunk.count]? with | some r => { c.r with pc := r.pc } | none => c.r
      chunk := { c.chunk with ended := c.chunk.ended || decide (last ≤ c.chunk.count) } }
    if (s.ctx a).chunk.ended then passTurn s a t else s

/-- Issue for the member whose turn it is. A trap at its first instruction finds the others at theirs (R92). -/
def issueSolo (fm : Form) (f : Fields) (ok : CoreId → Fields → Bool) (control : Bool) (body : Env → State → Act)
    (a : CtxId) (t : Nat) (s : State) : State :=
  let c := s.ctx a
  let path := match c.gang with | some g => (s.gangOf g).trace | none => []
  let after (s : State) : State := if t = 0 then afterLead s a c.r c.chunk.split else afterFollower s a t
  match issueOne fm f ok control body a (if t = 0 then c.r else path[c.chunk.count]?.getD c.r) s with
  | .ran s => after s
  | .first s => if t = 0 then passTurn (s.modGang a fun g => { g with trace := if c.chunk.split then g.trace else g.trace ++ [c.r] }) a 0 else afterFollower s a t
  | .waits s => s
  | .trapped s => squashGroup s ((s.lockstep a).filter (· != a))

/-- Run an instruction in the context that holds the pipe, or in every member of its fused gang. -/
def issueWith (fm : Form) (f : Fields) (ok : CoreId → Fields → Bool) (control : Bool) (body : Env → State → Act)
    (s : State) : State :=
  match s.solo s.holder with
  | some t => issueSolo fm f ok control body s.holder t s
  | none =>
  match s.together s.holder with
  | [a] =>
    (match issueOne fm f ok control body a (s.ctx a).r s with
      | .ran s => s | .first s => s | .waits s => s | .trapped s => s)
  | ms => followLeader (issueGang fm f ok control body (s.ctx (ms.headD s.holder)).r s ms s) ms

/-- The outcome of an instruction of a chain: always a next state. -/
def issue (fm : Form) (f : Fields) (body : Env → State → Act) (s : State) : Host.Outcome State Fault Refusal :=
  .next (issueWith fm f alwaysOk false body s)

/-- As `issue`, with a limit that depends on the core (R154, R161). -/
def issueIf (fm : Form) (f : Fields) (ok : CoreId → Fields → Bool) (body : Env → State → Act) (s : State) :
    Host.Outcome State Fault Refusal :=
  .next (issueWith fm f ok false body s)

/-- As `issue`, for a control instruction, whose outcome is the leader's in a fused gang (R92). -/
def issueControl (fm : Form) (f : Fields) (body : Env → State → Act) (s : State) : Host.Outcome State Fault Refusal :=
  .next (issueWith fm f alwaysOk true body s)

/-- A body that acts on the context's registers alone. -/
def regBody (g : Env → RegState) (e : Env) (s : State) : Act := .done (s.setRegs e.at' (g e))

/-- An instruction that acts on registers alone. -/
def issueRegs (fm : Form) (f : Fields) (g : Env → RegState) (s : State) : Host.Outcome State Fault Refusal :=
  issue fm f (regBody g) s

/-- Return from a handler: the pc is EPC and ACTIVE is 0 (R120). -/
def returnFrom (r : RegState) : RegState := { r with active := false }

/-- Enter a software-trap handler (R119); what the load queue holds is discarded (R128). -/
def enterHandler (r : RegState) (info : W32) (pc next : VAddr) : RegState :=
  { r with code := 0x03, info := info, faddr := BitVec.ofNat 64 pc.toNat, epc := next, active := true, ldq := [], ldqDue := [] }

/-- R50's reserved-code fate: the cause and EPC are recorded, the message is due, and the core parks. -/
def parkReserved (s : State) (a : CtxId) (code : BitVec 11) : State :=
  if (s.ctx a).chunk.count ≠ 0 then s.modCtx a fun c => { c with chunk := { c.chunk with ended := true } }
  else
    let s := s.modCtx a fun c => { c with
      r := { c.r with code := 0x02, info := BitVec.ofNat 32 code.toNat, faddr := BitVec.ofNat 64 c.r.pc.toNat, epc := c.r.pc }
      status := .stopped, msgDue := true }
    (s.modCore a.core fun k => { k with parked := some a.ctx }).due (.faultMessage a.core a.ctx)

end Sys2Proof.Machine
end

