-- ==== Sys2Proof/Machine/Operands.lean ====
section
/-! DEFINITION. Operand forms: the two-source rule of R59, the files of R60 and R61, and queue mode (R43). -/

namespace Sys2Proof.Machine

/-- The ldq entry at a position, oldest first. -/
def RegState.entry (r : RegState) (i : Nat) : BitVec 256 := r.ldq.getD i 0

/-- SRC names ldq. -/
def Env.srcQ (e : Env) : Bool := e.q && e.fm.src.queued && e.f.srcN == 0
/-- TSRC names ldq; it takes the entry after SRC's (R43). -/
def Env.tsrcQ (e : Env) : Bool := e.q && e.fm.tsrc.queued && e.f.tsrcN == 0
/-- DST names stq. -/
def Env.dstQ (e : Env) : Bool := e.q && e.fm.dst.queued && e.f.dstN == 0
def Env.tsrcAt (e : Env) : Nat := if e.srcQ then e.fm.srcQueue else 0

/-- Scalar operands. -/
def Env.srcS (e : Env) : Dword := if e.srcQ then (e.r.entry 0).setWidth 64 else e.r.rdS e.f.srcN
def Env.tsrcS (e : Env) : Dword := if e.tsrcQ then (e.r.entry e.tsrcAt).setWidth 64 else e.r.rdS e.f.tsrcN
def Env.oldS (e : Env) : Dword := if e.dstQ then e.stale.setWidth 64 else e.r.rdS e.f.dstN
/-- A and B of a two-source instruction (R59). -/
def Env.aS (e : Env) : Dword := if e.f.reg.isSome then e.srcS else e.oldS
def Env.bS (e : Env) : Dword := if e.f.reg.isSome then e.tsrcS else e.srcS
/-- Write the scalar destination; a scalar result in stq clears the rest of the entry (R43). -/
def Env.putS (e : Env) (r : RegState) (x : Dword) : RegState :=
  if e.dstQ then { r with stq := r.stq ++ [x.setWidth 256] } else r.wrS e.f.dstN x

/-- Vector operands; an ldq or stq entry is 256 bits, the L0 width (R153). -/
def Env.srcV (e : Env) : Vec := if e.srcQ then (e.r.entry 0).setWidth 512 else e.r.rdV e.f.srcN
def Env.tsrcV (e : Env) : Vec := if e.tsrcQ then (e.r.entry e.tsrcAt).setWidth 512 else e.r.rdV e.f.tsrcN
def Env.oldV (e : Env) : Vec := if e.dstQ then (e.stale.setWidth 512) else e.r.rdV e.f.dstN
def Env.aV (e : Env) : Vec := if e.f.reg.isSome then e.srcV else e.oldV
def Env.bV (e : Env) : Vec := if e.f.reg.isSome then e.tsrcV else e.srcV
def Env.putV (e : Env) (r : RegState) (x : Vec) : RegState :=
  if e.dstQ then { r with stq := r.stq ++ [x.setWidth 256] } else r.wrV e.f.dstN x

/-- Float operands. -/
def Env.srcF (e : Env) : Dword := e.r.rdF e.f.srcN
def Env.tsrcF (e : Env) : Dword := e.r.rdF e.f.tsrcN
def Env.oldF (e : Env) : Dword := e.r.rdF e.f.dstN
def Env.aF (e : Env) : Dword := if e.f.reg.isSome then e.srcF else e.oldF
def Env.bF (e : Env) : Dword := if e.f.reg.isSome then e.tsrcF else e.srcF
def Env.putF (e : Env) (r : RegState) (x : Dword) : RegState := r.wrF e.f.dstN x

/-- Predicate operands. -/
def Env.srcP (e : Env) : Dword := e.r.rdP e.kind e.f.srcN
def Env.oldP (e : Env) : Dword := e.r.rdP e.kind e.f.dstN
def Env.aP (e : Env) : Dword := if e.f.reg.isSome then e.srcP else e.oldP
def Env.bP (e : Env) : Dword := if e.f.reg.isSome then e.r.rdP e.kind e.f.tsrcN else e.srcP
def Env.putP (e : Env) (r : RegState) (x : Dword) : RegState := r.wrP e.kind e.f.dstN x

/-- The immediate as a 64-bit pattern, sign-extended or zero-extended (R45). -/
def Env.immS (e : Env) : Dword := BitVec.ofInt 64 e.f.immS
def Env.immU (e : Env) : Nat := e.f.immU

/-- The selector of sel, fsel and vsel at a bit: PSEL inverted by PNEG; in queue mode p0, taken as it stands (R98). -/
def Env.selector (e : Env) (i : Nat) : Bool :=
  match e.f.reg with
  | none => true
  | some g => if e.f.qpair then true else xor (bitOf (e.r.rdP e.kind g.psel.toNat).toNat i) g.pneg

end Sys2Proof.Machine
end

