-- ==== Sys2Proof/Machine/Flags.lean ====
section
/-! DEFINITION. Rounding modes and flag computations: ARITH.STAT.RDEF, RND, the saturating forms, and the merge of
element flags (R100, R101, R111, R145, R150, R156). -/

namespace Sys2Proof.Machine

/-- ARITH.STAT.RDEF as a mode (R101). -/
def rdefMode (arith : Byte) : RMode :=
  match bits arith.toNat 6 2 with | 0 => .nearest | 1 => .toZero | 2 => .toPinf | _ => .toNinf

/-- The mode an instruction rounds in: RND 0 is `dflt`, 1 to 4 override (R44, R111); stochastic draws `rb` (R144). -/
def modeOf (rnd : Nat) (dflt : RMode) (rb : Nat) : RMode :=
  match rnd with
  | 0 => dflt | 1 => .nearest | 2 => .toZero | 3 => .toPinf | 4 => .toNinf | _ => .stochastic rb

/-- The mode of a float instruction (R111). -/
def Env.mode (e : Env) : RMode := modeOf e.f.rnd (rdefMode e.r.arith) 0

/-- The range and reading of an integer format (R100): 0 is 64-bit signed, 11 .i32, 12 .n32, 13 .i8. -/
def intRead (fmt n : Nat) : Int :=
  match fmt with
  | 0 => sintOf 64 n | 11 => sintOf 32 n | 12 => ((n % 2 ^ 32 : Nat) : Int) | _ => sintOf 8 n
def intLo (fmt : Nat) : Int := match fmt with | 0 => -2 ^ 63 | 11 => -2 ^ 31 | 12 => 0 | _ => -128
def intHi (fmt : Nat) : Int := match fmt with | 0 => 2 ^ 63 - 1 | 11 => 2 ^ 31 - 1 | 12 => 2 ^ 32 - 1 | _ => 127

/-- Clamp an exact result where SAT is set, with the flag that clamping raises (R100, R150). -/
def clampInt (sat : Bool) (lo hi e : Int) : Int × Nat :=
  if sat && e < lo then (lo, flagSAT) else if sat && hi < e then (hi, flagSAT) else (e, 0)

/-- A result of R100 placed in a 64-bit register. -/
def intPlace (fmt : Nat) (e : Int) : Dword :=
  match fmt with
  | 0 => BitVec.ofInt 64 e
  | 11 => (BitVec.ofInt 32 e).signExtend 64
  | _ => (BitVec.ofInt 32 e).setWidth 64

/-- R100 in whole: add, sub or mul with its format and saturation. -/
def arith100 (op : Int → Int → Int) (fmt : Nat) (sat : Bool) (a b : Dword) : Dword × Nat :=
  let c := clampInt sat (intLo fmt) (intHi fmt) (op (intRead fmt a.toNat) (intRead fmt b.toNat))
  (intPlace fmt c.1, c.2)

/-- A float format code (R44, R111); 0 is the default given. -/
def floatFmt (dflt : FloatFmt) (fmt : Nat) : FloatFmt :=
  match fmt with
  | 1 => .fp64 | 2 => .fp32 | 3 => .fp16 | 4 => .bf16 | _ => dflt

/-- The low bits of a register that hold a value of a format. -/
def lowBits (F : FloatFmt) (x : Dword) : Nat := x.toNat % 2 ^ F.width

/-- Write a coded result to the float destination and raise its flags. -/
def Env.putCoded (e : Env) (c : Coded) : RegState := (e.putF e.r (BitVec.ofNat 64 c.code)).raise c.flags

/-- All ones or all zeros over the predicate width (R103). -/
def predOf (k : CoreKind) (b : Bool) : Dword := if b then pOnes k else 0

end Sys2Proof.Machine
end

