-- ==== Sys2Proof/Machine/Control.lean ====
section
/-! DEFINITION. Page 0: branches, calls, loops and frames; page 5: trap, brk, rte; the two fates (R50, R105 to R110, R119, R120). -/

namespace Sys2Proof.Machine

/-- The address after the chain, and the branch target addr + 2 × I (R105). -/
def Env.next (e : Env) : VAddr := nextPc e.fm e.f e.r.pc
def Env.target (e : Env) : VAddr := e.r.pc + BitVec.ofInt 56 (2 * e.f.immS)
/-- The leader's source register, whose outcome every member of a fused gang takes (R92); its own where it is alone. -/
def Env.leadS (e : Env) : Dword := if e.srcQ then (e.lead.entry 0).setWidth 64 else e.lead.rdS e.f.srcN
/-- A register as a code address. A pc has 56 bits, as TRAP.EPC and LOOP.TOP do: bits 63:56 of a target are dropped, which R105 does
not say (DESIGN CHOICE, log 67). -/
def toPc (x : Dword) : VAddr := x.setWidth 56
def Env.addr (e : Env) : Dword := e.r.pc.setWidth 64
def misaligned (x : Dword) : Act := .trap ⟨0x05, 0, x, false⟩
/-- The bounds of a context's frame stack (R82, R109). -/
def stackLogOf (s : State) (a : CtxId) : Nat := if a.core.kind = .boot then 0xC else (s.core a.core).stackLog.toNat
def stackTopOf (s : State) (a : CtxId) : Nat := (stackTop (tcmSize a.core.kind) (stackLogOf s a) a.ctx).toNat
def stackFloor (s : State) (a : CtxId) : Nat := (stackTop (tcmSize a.core.kind) (stackLogOf s a) (a.ctx + 1)).toNat
/-- Locations of bytes of the core's own TCM at a window address within it. -/
def tcmBytes (a : CtxId) (va n : Nat) : List Nat := (List.range n).map fun i => tcmLoc a.core (va - tcmWindow + i)
/-- The bytes of a number at consecutive TCM addresses. -/
def tcmStore (a : CtxId) (va n x : Nat) : List (Nat × Byte) :=
  (List.range n).map fun i => (tcmLoc a.core (va - tcmWindow + i), BitVec.ofNat 8 (x / 256 ^ i))
/-- A load of the context's stack, its lines recorded (R207); a poisoned byte is consumed (R318). -/
def stackLoad (s : State) (a : CtxId) (va n : Nat) (k : State → Nat → Act) : Act :=
  match s.poisonAt a ((List.range n).map fun i => (tcmLoc a.core (va - tcmWindow + i), BitVec.ofNat 64 (va + i))) with
  | some p => .trap ⟨0x17, BitVec.ofNat 32 (memKind p.1), p.2, false⟩
  | none => k (s.noteRead a (tcmBytes a va n)) (s.see a (tcmBytes a va n))

/-- R105: Branch to addr plus 2I. -/
def brBody (e : Env) (s : State) : Act := .jump s e.target
def execBr (f : Fields) (s : State) : Host.Outcome State Fault Refusal := issueControl Forms.branch f brBody s

/-- R105: Branch when a register is zero. -/
def brzBody (e : Env) (s : State) : Act := if e.leadS = 0 then .jump s e.target else .done s
def execBrz (f : Fields) (s : State) : Host.Outcome State Fault Refusal := issueControl Forms.branchOn f brzBody s

/-- R105: Branch when a register is nonzero. -/
def brnzBody (e : Env) (s : State) : Act := if e.leadS ≠ 0 then .jump s e.target else .done s
def execBrnz (f : Fields) (s : State) : Host.Outcome State Fault Refusal := issueControl Forms.branchOn f brnzBody s

/-- R105: Decrement a counter and branch while nonzero. -/
def loopBody (e : Env) (s : State) : Act :=
  let s' := s.setRegs e.at' (e.putS e.r (e.oldS - 1))
  if (if e.dstQ then e.oldS - 1 ≠ 0 else e.f.dstN ≠ 0 ∧ e.lead.rdS e.f.dstN - 1 ≠ 0) then .jump s' e.target else .done s'
def execLoop (f : Fields) (s : State) : Host.Outcome State Fault Refusal := issueControl Forms.loopF f loopBody s

/-- R105: Write the return address to s31 and branch. -/
def callBody (e : Env) (s : State) : Act := .jump (s.setRegs e.at' (e.r.wrS 31 (e.next.setWidth 64))) e.target
def execCall (f : Fields) (s : State) : Host.Outcome State Fault Refusal := issueControl Forms.branch f callBody s

/-- R105: Jump to the address in a register. -/
def jmpBody (e : Env) (s : State) : Act := if bitOf e.leadS.toNat 0 then misaligned e.leadS else .jump s (toPc e.leadS)
def execJmp (f : Fields) (s : State) : Host.Outcome State Fault Refusal := issueControl Forms.jump f jmpBody s

/-- R105: Call through a register. -/
def callrBody (e : Env) (s : State) : Act :=
  if bitOf e.leadS.toNat 0 then misaligned e.leadS
  else .jump (s.setRegs e.at' (e.r.wrS 31 (e.next.setWidth 64))) (toPc e.leadS)
def execCallr (f : Fields) (s : State) : Host.Outcome State Fault Refusal := issueControl Forms.jump f callrBody s

/-- R105: Jump to s31. -/
def retBody (e : Env) (s : State) : Act := if bitOf (e.lead.rdS 31).toNat 0 then misaligned (e.lead.rdS 31) else .jump s (toPc (e.lead.rdS 31))
def execRet (f : Fields) (s : State) : Host.Outcome State Fault Refusal := issueControl Forms.bare f retBody s

/-- R106: Start the hardware loop with a count and top address. -/
def loopsetBody (e : Env) (s : State) : Act := .done (s.setRegs e.at' { e.r with loopCnt := e.srcS, loopTop := e.next })
def execLoopset (f : Fields) (s : State) : Host.Outcome State Fault Refusal := issueControl Forms.jump f loopsetBody s

/-- R106: End of hardware loop body: decrement and branch to top. -/
def loopendBody (e : Env) (s : State) : Act :=
  if 1 < e.lead.loopCnt.toNat then .jump (s.setRegs e.at' { e.r with loopCnt := e.r.loopCnt - 1 }) e.lead.loopTop
  else .done (s.setRegs e.at' { e.r with loopCnt := 0 })
def execLoopend (f : Fields) (s : State) : Host.Outcome State Fault Refusal := issueControl Forms.bare f loopendBody s

/-- R105: Does nothing. -/
def nopBody (e : Env) (s : State) : Act := .done s
def execNop (f : Fields) (s : State) : Host.Outcome State Fault Refusal := issueControl Forms.bare f nopBody s

/-- R109: Push a frame header on the frame stack, trapping on overflow. -/
def enterBody (e : Env) (s : State) : Act :=
  let m := e.srcS
  let s30 := e.r.rdS 30
  let size := e.immU
  let n : Int := s30.toNat - 16 * size
  if m.toNat % 8 ≠ 0 then misaligned m
  else if s30.toNat % 16 ≠ 0 then misaligned s30
  else if stackTopOf s e.at' < s30.toNat ∨ n < stackFloor s e.at' then .trap ⟨0x0A, 0, BitVec.ofInt 64 n, false⟩
  else
    let desc := size * 2 ^ 53 + bits m.toNat 3 53
    let s := s.hold e.at' (tcmStore e.at' n.toNat 8 (e.r.rdS 31).toNat ++ tcmStore e.at' (n.toNat + 8) 8 desc)
    .done (s.setRegs e.at' (e.r.wrS 30 (BitVec.ofInt 64 n)))
def execEnter (f : Fields) (s : State) : Host.Outcome State Fault Refusal := issue Forms.enterF f enterBody s

/-- R110: Pop a frame and restore s31, trapping on a delimiter or torn frame. -/
def leaveBody (e : Env) (s : State) : Act :=
  let s30 := e.r.rdS 30
  let p := s30.toNat
  let bad : Act := .trap ⟨0x0B, 0, s30, false⟩
  if p % 16 ≠ 0 ∨ p < stackFloor s e.at' ∨ stackTopOf s e.at' < p + 16 then bad
  else stackLoad s e.at' (p + 8) 8 fun s desc =>
    let sz := bits desc 53 11
    if sz = 0 ∨ stackTopOf s e.at' < p + 16 * sz then bad
    else stackLoad s e.at' p 8 fun s link =>
      .done (s.setRegs e.at' ((e.r.wrS 31 (BitVec.ofNat 64 link)).wrS 30 (BitVec.ofNat 64 (p + 16 * sz))))
def execLeave (f : Fields) (s : State) : Host.Outcome State Fault Refusal := issue Forms.bare f leaveBody s

/-- R119: trap enters the handler of TRAP.VEC, or is a precise trap with EPC at the next instruction. -/
def trapBody (e : Env) (s : State) : Act :=
  if e.r.tvec ≠ 0 ∧ e.r.active = false ∧ (s.lockstep e.at').length = 1 then
    .leap ((s.setRegs e.at' (enterHandler e.r (BitVec.ofNat 32 e.immU) e.r.pc e.next)).modCtx e.at' Ctx.dropAhead) e.r.tvec
  else .trap ⟨0x03, BitVec.ofNat 32 e.immU, e.addr, true⟩
def execTrap (f : Fields) (s : State) : Host.Outcome State Fault Refusal := issue Forms.trapF f trapBody s

/-- R119: Breakpoint precise trap. -/
def brkBody (e : Env) (_ : State) : Act := .trap ⟨0x04, BitVec.ofNat 32 e.immU, e.addr, false⟩
def execBrk (f : Fields) (s : State) : Host.Outcome State Fault Refusal := issue Forms.trapF f brkBody s

/-- R120: return from a handler, or an illegal-instruction trap outside one. -/
def rteBody (e : Env) (s : State) : Act :=
  if e.r.active then .leap (s.setRegs e.at' (returnFrom e.r)) e.r.epc else .trap ⟨0x01, 0, e.addr, false⟩
def execRte (f : Fields) (s : State) : Host.Outcome State Fault Refusal := issue Forms.rteF f rteBody s

/-- R50: a reserved code records its cause, posts its message and parks the core. -/
def execReservedOpcode (code : BitVec 11) (s : State) : Host.Outcome State Fault Refusal := .next (parkReserved s s.holder code)

/-- R46, R50: a malformed chain takes the illegal-instruction trap. -/
def execIllegalChain (s : State) : Host.Outcome State Fault Refusal :=
  let pc := (s.ctx s.holder).r.pc
  .next (match issueTrap s s.holder ⟨0x01, 0, pc.setWidth 64, false⟩ pc pc with
    | .ran s => s | .first s => s | .waits s => s | .trapped s => s)

end Sys2Proof.Machine
end

