-- ==== Sys2Proof/Machine/ScalarFloat.lean ====
section
/-! DEFINITION. Page 0: scalar floating point (R111 to R115). -/

namespace Sys2Proof.Machine

/-- The format of a scalar float instruction: FMT 0 and 1 are FP64 (R111). -/
def Env.ff (e : Env) : FloatFmt := floatFmt .fp64 e.f.fmt
def Env.fa (e : Env) : Nat := lowBits e.ff e.aF
def Env.fb (e : Env) : Nat := lowBits e.ff e.bF
def Env.fsrc (e : Env) : Nat := lowBits e.ff e.srcF
def Env.ftsrc (e : Env) : Nat := lowBits e.ff e.tsrcF
def Env.fold (e : Env) : Nat := lowBits e.ff e.oldF

/-- R112: Scalar float add, correctly rounded. -/
def faddRegs (e : Env) : RegState := e.putCoded (e.ff.add e.mode e.fa e.fb)
def execFadd (f : Fields) (s : State) : Host.Outcome State Fault Refusal := issueRegs Forms.fop2 f faddRegs s

/-- R112: Scalar float subtract. -/
def fsubRegs (e : Env) : RegState := e.putCoded (e.ff.sub e.mode e.fa e.fb)
def execFsub (f : Fields) (s : State) : Host.Outcome State Fault Refusal := issueRegs Forms.fop2 f fsubRegs s

/-- R112: Scalar float multiply. -/
def fmulRegs (e : Env) : RegState := e.putCoded (e.ff.mul e.mode e.fa e.fb)
def execFmul (f : Fields) (s : State) : Host.Outcome State Fault Refusal := issueRegs Forms.fop2 f fmulRegs s

/-- R112: Scalar float divide. -/
def fdivRegs (e : Env) : RegState := e.putCoded (e.ff.div e.mode e.fa e.fb)
def execFdiv (f : Fields) (s : State) : Host.Outcome State Fault Refusal := issueRegs Forms.fop2 f fdivRegs s

/-- R112: Scalar float square root. -/
def fsqrtRegs (e : Env) : RegState := e.putCoded (e.ff.sqrt e.mode e.fsrc)
def execFsqrt (f : Fields) (s : State) : Host.Outcome State Fault Refusal := issueRegs Forms.fop1 f fsqrtRegs s

/-- R112: Fused multiply-add into the old destination. -/
def fmaRegs (e : Env) : RegState := e.putCoded (e.ff.fma e.mode e.fsrc e.ftsrc e.fold)
def execFma (f : Fields) (s : State) : Host.Outcome State Fault Refusal := issueRegs Forms.fmaF f fmaRegs s

/-- R112: Scalar float minimum. -/
def fminRegs (e : Env) : RegState := e.putCoded (e.ff.minmax false e.fa e.fb)
def execFmin (f : Fields) (s : State) : Host.Outcome State Fault Refusal := issueRegs Forms.fop2n f fminRegs s

/-- R112: Scalar float maximum. -/
def fmaxRegs (e : Env) : RegState := e.putCoded (e.ff.minmax true e.fa e.fb)
def execFmax (f : Fields) (s : State) : Host.Outcome State Fault Refusal := issueRegs Forms.fop2n f fmaxRegs s

/-- R112: Round a float to an integral value. -/
def frndRegs (e : Env) : RegState := e.putCoded (e.ff.roundInt e.mode e.fsrc)
def execFrnd (f : Fields) (s : State) : Host.Outcome State Fault Refusal := issueRegs Forms.fop1 f frndRegs s

/-- R115: Invert the sign bit. -/
def fnegRegs (e : Env) : RegState := e.putF e.r (BitVec.ofNat 64 (e.fsrc ^^^ e.ff.signBit))
def execFneg (f : Fields) (s : State) : Host.Outcome State Fault Refusal := issueRegs Forms.fsign f fnegRegs s

/-- R115: Clear the sign bit. -/
def fabsRegs (e : Env) : RegState := e.putF e.r (BitVec.ofNat 64 (e.fsrc % e.ff.signBit))
def execFabs (f : Fields) (s : State) : Host.Outcome State Fault Refusal := issueRegs Forms.fsign f fabsRegs s

/-- R115: Magnitude of A with the sign of B. -/
def fsgnRegs (e : Env) : RegState := e.putF e.r (BitVec.ofNat 64 (e.fa % e.ff.signBit + (if bitOf e.fb (e.ff.width - 1) then e.ff.signBit else 0)))
def execFsgn (f : Fields) (s : State) : Host.Outcome State Fault Refusal := issueRegs Forms.fop2n f fsgnRegs s

/-- A float compare: the condition, and NV for a signalling NaN, or for any NaN where the compare orders (R113). -/
def fcompare (F : FloatFmt) (ordered : Bool) (rel : Val → Val → Bool) (a b : Nat) : Bool × Nat :=
  let x := F.decode a
  let y := F.decode b
  if x.isNan || y.isNan then (false, if ordered || x.isSnan || y.isSnan then flagNV else 0) else (rel x y, 0)
def Env.putCompare (e : Env) (c : Bool × Nat) : RegState := (e.putP e.r (predOf e.kind c.1)).raise c.2

/-- R113: Float equality compare into a predicate. -/
def fcmpeqRegs (e : Env) : RegState := e.putCompare (fcompare e.ff false Val.eq e.fsrc e.ftsrc)
def execFcmpeq (f : Fields) (s : State) : Host.Outcome State Fault Refusal := issueRegs Forms.fcmp f fcmpeqRegs s

/-- R113: Float less-than compare into a predicate. -/
def fcmpltRegs (e : Env) : RegState := e.putCompare (fcompare e.ff true Val.lt e.fsrc e.ftsrc)
def execFcmplt (f : Fields) (s : State) : Host.Outcome State Fault Refusal := issueRegs Forms.fcmp f fcmpltRegs s

/-- R113: Float less-or-equal compare into a predicate. -/
def fcmpleRegs (e : Env) : RegState := e.putCompare (fcompare e.ff true (fun x y => !Val.lt y x) e.fsrc e.ftsrc)
def execFcmple (f : Fields) (s : State) : Host.Outcome State Fault Refusal := issueRegs Forms.fcmp f fcmpleRegs s

/-- R113: Classify a float into a one-hot scalar. -/
def fclassRegs (e : Env) : RegState := e.putS e.r (BitVec.ofNat 64 (2 ^ e.ff.classOf e.fsrc))
def execFclass (f : Fields) (s : State) : Host.Outcome State Fault Refusal := issueRegs Forms.fclassF f fclassRegs s

/-- R115: Copy all 64 bits of an f register. -/
def fmovRegs (e : Env) : RegState := e.putF e.r e.srcF
def execFmov (f : Fields) (s : State) : Host.Outcome State Fault Refusal := issueRegs Forms.fmovF f fmovRegs s

/-- R114: Convert between float formats with rounding. -/
def fcvtRegs (e : Env) : RegState := 
  let S := floatFmt .fp64 e.f.tsrcN
  e.putCoded (e.ff.convert e.mode false (S.decode (lowBits S e.srcF)))
def execFcvt (f : Fields) (s : State) : Host.Outcome State Fault Refusal := issueRegs Forms.fcvtF f fcvtRegs s

/-- R114: Convert float to integer with saturation. -/
def fcvtiRegs (e : Env) : RegState := 
  let x := convertInt (intLo e.f.tsrcN) (intHi e.f.tsrcN) (modeOf e.f.rnd .toZero 0) (e.ff.decode e.fsrc)
  (e.putS e.r (intPlace e.f.tsrcN x.1)).raise x.2
def execFcvti (f : Fields) (s : State) : Host.Outcome State Fault Refusal := issueRegs Forms.fcvtiF f fcvtiRegs s

/-- R114: Convert integer to float with rounding. -/
def icvtfRegs (e : Env) : RegState := 
  e.putCoded (e.ff.convert e.mode false (Val.ofInt (intRead e.f.tsrcN e.srcS.toNat) 0 false))
def execIcvtf (f : Fields) (s : State) : Host.Outcome State Fault Refusal := issueRegs Forms.icvtfF f icvtfRegs s

/-- R115: Move f register bits to an s register. -/
def fmvfsRegs (e : Env) : RegState := e.putS e.r e.srcF
def execFmvfs (f : Fields) (s : State) : Host.Outcome State Fault Refusal := issueRegs Forms.fmvfsF f fmvfsRegs s

/-- R115: Move s register bits to an f register. -/
def fmvsfRegs (e : Env) : RegState := e.putF e.r e.srcS
def execFmvsf (f : Fields) (s : State) : Host.Outcome State Fault Refusal := issueRegs Forms.fmvsfF f fmvsfRegs s

/-- R115: Select between two f registers by a predicate. -/
def fselRegs (e : Env) : RegState := e.putF e.r (BitVec.ofNat 64 (if e.selector 0 then e.fsrc else e.ftsrc))
def execFsel (f : Fields) (s : State) : Host.Outcome State Fault Refusal := issueRegs Forms.fselF f fselRegs s

end Sys2Proof.Machine
end

