-- ==== Sys2Proof/Machine/Vector.lean ====
section
/-! DEFINITION. Page 1: the vector instructions (R151 to R160). -/

namespace Sys2Proof.Machine

/-- Element j, w bits wide, of a vector (R134). -/
def elem (w : Nat) (v : Vec) (j : Nat) : Nat := bits v.toNat (w * j) w
/-- Elements packed from bit 0 upward (R134). -/
def packN (w : Nat) : List Nat → Nat
  | [] => 0
  | x :: t => x % 2 ^ w + 2 ^ w * packN w t
def packV (w : Nat) (l : List Nat) : Vec := BitVec.ofNat 512 (packN w l)
/-- The number of elements of width w (R151). -/
def Env.lanes (e : Env) (w : Nat) : Nat := e.kind.vwidth / w
def Env.live (e : Env) (w j : Nat) : Bool := elemActive e.kind e.f e.r w j
def orFlags (l : List Coded) : Nat := l.foldl (fun a c => a ||| c.flags) 0

/-- Compute each active element of the vector destination; an inactive one keeps its old value and raises nothing (R152). -/
def Env.mapV (e : Env) (w : Nat) (g : Nat → Coded) : RegState :=
  let old := e.oldV
  let l := (List.range (e.lanes w)).map fun j => if e.live w j then g j else ⟨elem w old j, 0⟩
  (e.putV e.r (packV w (l.map (·.code)))).raise (orFlags l)

/-- Set the predicate bits of each active element (R158). -/
def Env.mapP (e : Env) (w : Nat) (g : Nat → Bool × Nat) : RegState :=
  let old := e.oldP.toNat
  let l := (List.range (e.lanes w)).map fun j => if e.live w j then g j else (false, 0)
  let bitv := fun i =>
    let j := i * 8 / w
    if j < e.lanes w && e.live w j then (l.getD j (false, 0)).1 else bitOf old i
  let n := (List.range e.kind.pwidth).foldl (fun a i => a + (if bitv i then 2 ^ i else 0)) 0
  (e.putP e.r (BitVec.ofNat 64 n)).raise (l.foldl (fun a c => a ||| c.2) 0)

/-- The integer reading of an element (R151, R155): FMT 0 is .i32. -/
def vfmt (fmt : Nat) : Nat := if fmt = 0 then 11 else fmt
def Env.iw (e : Env) : Nat := intWidth e.f.fmt
def Env.iread (e : Env) (x : Nat) : Int := intRead (vfmt e.f.fmt) x
/-- R155: an exact result, clamped with SAT, its low w bits kept. -/
def Env.iput (e : Env) (x : Int) : Coded :=
  let c := clampInt e.f.sat (intLo (vfmt e.f.fmt)) (intHi (vfmt e.f.fmt)) x
  ⟨wrapInt e.iw c.1, c.2⟩
def Env.int2 (e : Env) (op : Int → Int → Int) : RegState :=
  e.mapV e.iw fun j => e.iput (op (e.iread (elem e.iw e.aV j)) (e.iread (elem e.iw e.bV j)))
def Env.int1 (e : Env) (op : Int → Int) : RegState := e.mapV e.iw fun j => e.iput (op (e.iread (elem e.iw e.srcV j)))
/-- A shift of the bit pattern by the count uint(b) (R155). -/
def Env.shift (e : Env) (op : Nat → Nat → Nat) : RegState :=
  e.mapV e.iw fun j => ⟨op (elem e.iw e.aV j) (elem e.iw e.bV j), 0⟩
/-- Bit operations and moves over whole elements. -/
def Env.bw (e : Env) : Nat := bitWidth e.f.fmt
def Env.bit2 (e : Env) (op : Nat → Nat → Nat) : RegState := e.mapV e.bw fun j => ⟨op (elem e.bw e.aV j) (elem e.bw e.bV j), 0⟩
def notW (w x : Nat) : Nat := 2 ^ w - 1 - x % 2 ^ w
/-- The float format of a vector instruction: FMT 0 is .f32 (R151). -/
def Env.vf (e : Env) : FloatFmt := floatFmt .fp32 e.f.fmt
def Env.flt2 (e : Env) (op : FloatFmt → Nat → Nat → Coded) : RegState :=
  e.mapV e.vf.width fun j => op e.vf (elem e.vf.width e.aV j) (elem e.vf.width e.bV j)
def Env.flt1 (e : Env) (op : FloatFmt → Nat → Coded) : RegState := e.mapV e.vf.width fun j => op e.vf (elem e.vf.width e.srcV j)
def Env.exact1 (e : Env) (op : Val → Exact) : RegState := e.flt1 fun F a => F.finish e.mode (op (F.decode a))

/-- R155: Element-wise integer add, wrapping or saturating. -/
def vaddRegs (e : Env) : RegState := e.int2 (· + ·)
def execVadd (f : Fields) (s : State) : Host.Outcome State Fault Refusal := issueRegs Forms.vint2s f vaddRegs s

/-- R155: Element-wise integer subtract. -/
def vsubRegs (e : Env) : RegState := e.int2 (· - ·)
def execVsub (f : Fields) (s : State) : Host.Outcome State Fault Refusal := issueRegs Forms.vint2s f vsubRegs s

/-- R155: Element-wise integer multiply. -/
def vmulRegs (e : Env) : RegState := e.int2 (· * ·)
def execVmul (f : Fields) (s : State) : Host.Outcome State Fault Refusal := issueRegs Forms.vint2s f vmulRegs s

/-- R155: Element-wise integer minimum. -/
def vminRegs (e : Env) : RegState := e.int2 (min)
def execVmin (f : Fields) (s : State) : Host.Outcome State Fault Refusal := issueRegs Forms.vint2 f vminRegs s

/-- R155: Element-wise integer maximum. -/
def vmaxRegs (e : Env) : RegState := e.int2 (max)
def execVmax (f : Fields) (s : State) : Host.Outcome State Fault Refusal := issueRegs Forms.vint2 f vmaxRegs s

/-- R155: Element-wise high half of the product. -/
def vmulhRegs (e : Env) : RegState := e.int2 fun a b => a * b / (2 ^ e.iw : Nat)
def execVmulh (f : Fields) (s : State) : Host.Outcome State Fault Refusal := issueRegs Forms.vint2 f vmulhRegs s

/-- R155: Element-wise absolute value. -/
def vabsRegs (e : Env) : RegState := e.int1 fun a => (a.natAbs : Int)
def execVabs (f : Fields) (s : State) : Host.Outcome State Fault Refusal := issueRegs Forms.vint1 f vabsRegs s

/-- R155: Element-wise negation. -/
def vnegRegs (e : Env) : RegState := e.int1 fun a => -a
def execVneg (f : Fields) (s : State) : Host.Outcome State Fault Refusal := issueRegs Forms.vint1 f vnegRegs s

/-- R155: Element-wise bitwise and. -/
def vandRegs (e : Env) : RegState := e.bit2 (fun a b => a &&& b)
def execVand (f : Fields) (s : State) : Host.Outcome State Fault Refusal := issueRegs Forms.vbit2 f vandRegs s

/-- R155: Element-wise bitwise or. -/
def vorRegs (e : Env) : RegState := e.bit2 (fun a b => a ||| b)
def execVor (f : Fields) (s : State) : Host.Outcome State Fault Refusal := issueRegs Forms.vbit2 f vorRegs s

/-- R155: Element-wise bitwise xor. -/
def vxorRegs (e : Env) : RegState := e.bit2 (fun a b => a ^^^ b)
def execVxor (f : Fields) (s : State) : Host.Outcome State Fault Refusal := issueRegs Forms.vbit2 f vxorRegs s

/-- R155: Element-wise and-not. -/
def vandnRegs (e : Env) : RegState := e.bit2 (fun a b => a &&& notW e.bw b)
def execVandn (f : Fields) (s : State) : Host.Outcome State Fault Refusal := issueRegs Forms.vbit2 f vandnRegs s

/-- R155: Element-wise shift left. -/
def vshlRegs (e : Env) : RegState := e.shift fun a c => if e.iw ≤ c then 0 else a * 2 ^ c
def execVshl (f : Fields) (s : State) : Host.Outcome State Fault Refusal := issueRegs Forms.vint2 f vshlRegs s

/-- R155: Element-wise logical shift right. -/
def vshrRegs (e : Env) : RegState := e.shift fun a c => if e.iw ≤ c then 0 else a / 2 ^ c
def execVshr (f : Fields) (s : State) : Host.Outcome State Fault Refusal := issueRegs Forms.vint2 f vshrRegs s

/-- R155: Element-wise arithmetic shift right. -/
def vsraRegs (e : Env) : RegState := e.shift fun a c => wrapInt e.iw (sintOf e.iw a / (2 ^ (if e.iw ≤ c then e.iw else c) : Nat))
def execVsra (f : Fields) (s : State) : Host.Outcome State Fault Refusal := issueRegs Forms.vint2 f vsraRegs s

/-- R155: Element-wise bitwise not. -/
def vnotRegs (e : Env) : RegState := e.mapV e.bw fun j => ⟨notW e.bw (elem e.bw e.srcV j), 0⟩
def execVnot (f : Fields) (s : State) : Host.Outcome State Fault Refusal := issueRegs Forms.vbit1 f vnotRegs s

/-- R157: Element-wise float add. -/
def vfaddRegs (e : Env) : RegState := e.flt2 fun F a b => F.add e.mode a b
def execVfadd (f : Fields) (s : State) : Host.Outcome State Fault Refusal := issueRegs Forms.vflt2 f vfaddRegs s

/-- R157: Element-wise float subtract. -/
def vfsubRegs (e : Env) : RegState := e.flt2 fun F a b => F.sub e.mode a b
def execVfsub (f : Fields) (s : State) : Host.Outcome State Fault Refusal := issueRegs Forms.vflt2 f vfsubRegs s

/-- R157: Element-wise float multiply. -/
def vfmulRegs (e : Env) : RegState := e.flt2 fun F a b => F.mul e.mode a b
def execVfmul (f : Fields) (s : State) : Host.Outcome State Fault Refusal := issueRegs Forms.vflt2 f vfmulRegs s

/-- R157: Element-wise float divide. -/
def vfdivRegs (e : Env) : RegState := e.flt2 fun F a b => F.div e.mode a b
def execVfdiv (f : Fields) (s : State) : Host.Outcome State Fault Refusal := issueRegs Forms.vflt2 f vfdivRegs s

/-- R157: Element-wise float minimum. -/
def vfminRegs (e : Env) : RegState := e.flt2 fun F a b => F.minmax false a b
def execVfmin (f : Fields) (s : State) : Host.Outcome State Fault Refusal := issueRegs Forms.vflt2n f vfminRegs s

/-- R157: Element-wise float maximum. -/
def vfmaxRegs (e : Env) : RegState := e.flt2 fun F a b => F.minmax true a b
def execVfmax (f : Fields) (s : State) : Host.Outcome State Fault Refusal := issueRegs Forms.vflt2n f vfmaxRegs s

/-- R157: Element-wise fused multiply-add into d. -/
def vfmaRegs (e : Env) : RegState := 
  e.mapV e.vf.width fun j =>
    e.vf.fma e.mode (elem e.vf.width e.srcV j) (elem e.vf.width e.tsrcV j) (elem e.vf.width e.oldV j)
def execVfma (f : Fields) (s : State) : Host.Outcome State Fault Refusal := issueRegs Forms.vflt3 f vfmaRegs s

/-- R157: Element-wise old d minus A times B, rounded once. -/
def vfmsRegs (e : Env) : RegState := 
  e.mapV e.vf.width fun j =>
    e.vf.fms e.mode (elem e.vf.width e.srcV j) (elem e.vf.width e.tsrcV j) (elem e.vf.width e.oldV j)
def execVfms (f : Fields) (s : State) : Host.Outcome State Fault Refusal := issueRegs Forms.vflt3 f vfmsRegs s

/-- R157: Element-wise float absolute value. -/
def vfabsRegs (e : Env) : RegState := e.flt1 fun F a => ⟨a % F.signBit, 0⟩
def execVfabs (f : Fields) (s : State) : Host.Outcome State Fault Refusal := issueRegs Forms.vflt1n f vfabsRegs s

/-- R157: Element-wise float negation. -/
def vfnegRegs (e : Env) : RegState := e.flt1 fun F a => ⟨a ^^^ F.signBit, 0⟩
def execVfneg (f : Fields) (s : State) : Host.Outcome State Fault Refusal := issueRegs Forms.vflt1n f vfnegRegs s

/-- R157: Element-wise square root. -/
def vfsqrtRegs (e : Env) : RegState := e.exact1 sqrtExact
def execVfsqrt (f : Fields) (s : State) : Host.Outcome State Fault Refusal := issueRegs Forms.vflt1 f vfsqrtRegs s

/-- R157: Element-wise reciprocal, correctly rounded. -/
def vrcpRegs (e : Env) : RegState := e.exact1 rcpExact
def execVrcp (f : Fields) (s : State) : Host.Outcome State Fault Refusal := issueRegs Forms.vflt1 f vrcpRegs s

/-- R157: Element-wise reciprocal square root. -/
def vrsqRegs (e : Env) : RegState := e.exact1 rsqExact
def execVrsq (f : Fields) (s : State) : Host.Outcome State Fault Refusal := issueRegs Forms.vflt1 f vrsqRegs s

/-- R157: Element-wise power of two. -/
def vexp2Regs (e : Env) : RegState := e.exact1 exp2Exact
def execVexp2 (f : Fields) (s : State) : Host.Outcome State Fault Refusal := issueRegs Forms.vtrans f vexp2Regs s

/-- R157: Element-wise base-2 logarithm. -/
def vlog2Regs (e : Env) : RegState := e.exact1 log2Exact
def execVlog2 (f : Fields) (s : State) : Host.Outcome State Fault Refusal := issueRegs Forms.vtrans f vlog2Regs s

/-- R158: Element-wise select by predicate bits. -/
def vselRegs (e : Env) : RegState := e.putV e.r (packV e.bw ((List.range (e.lanes e.bw)).map fun j =>
    if e.selector (j * e.bw / 8) then elem e.bw e.srcV j else elem e.bw e.tsrcV j))
def execVsel (f : Fields) (s : State) : Host.Outcome State Fault Refusal := issueRegs Forms.vselF f vselRegs s

/-- R158: Element-wise integer equality into predicate bits. -/
def vcmpeqRegs (e : Env) : RegState := e.mapP e.iw fun j =>
  let a := e.iread (elem e.iw e.srcV j)
  let b := e.iread (elem e.iw e.tsrcV j)
  (decide (a = b), 0)
def execVcmpeq (f : Fields) (s : State) : Host.Outcome State Fault Refusal := issueRegs Forms.vcmp f vcmpeqRegs s

/-- R158: Element-wise integer less-than. -/
def vcmpltRegs (e : Env) : RegState := e.mapP e.iw fun j =>
  let a := e.iread (elem e.iw e.srcV j)
  let b := e.iread (elem e.iw e.tsrcV j)
  (decide (a < b), 0)
def execVcmplt (f : Fields) (s : State) : Host.Outcome State Fault Refusal := issueRegs Forms.vcmp f vcmpltRegs s

/-- R158: Element-wise integer less-or-equal. -/
def vcmpleRegs (e : Env) : RegState := e.mapP e.iw fun j =>
  let a := e.iread (elem e.iw e.srcV j)
  let b := e.iread (elem e.iw e.tsrcV j)
  (decide (a ≤ b), 0)
def execVcmple (f : Fields) (s : State) : Host.Outcome State Fault Refusal := issueRegs Forms.vcmp f vcmpleRegs s

/-- R158: Element-wise float equality. -/
def vfcmpeqRegs (e : Env) : RegState := 
  e.mapP e.vf.width fun j => fcompare e.vf false Val.eq (elem e.vf.width e.srcV j) (elem e.vf.width e.tsrcV j)
def execVfcmpeq (f : Fields) (s : State) : Host.Outcome State Fault Refusal := issueRegs Forms.vfcmp f vfcmpeqRegs s

/-- R158: Element-wise float less-than. -/
def vfcmpltRegs (e : Env) : RegState := 
  e.mapP e.vf.width fun j => fcompare e.vf true Val.lt (elem e.vf.width e.srcV j) (elem e.vf.width e.tsrcV j)
def execVfcmplt (f : Fields) (s : State) : Host.Outcome State Fault Refusal := issueRegs Forms.vfcmp f vfcmpltRegs s

/-- R158: Element-wise float less-or-equal. -/
def vfcmpleRegs (e : Env) : RegState := 
  e.mapP e.vf.width fun j => fcompare e.vf true (fun x y => !Val.lt y x) (elem e.vf.width e.srcV j) (elem e.vf.width e.tsrcV j)
def execVfcmple (f : Fields) (s : State) : Host.Outcome State Fault Refusal := issueRegs Forms.vfcmp f vfcmpleRegs s

/-- The terms of an integer reduction, inactive elements absent (R159). -/
def Env.iterms (e : Env) : List (Option (Int × Nat)) :=
  (List.range (e.lanes e.iw)).map fun j => if e.live e.iw j then some (e.iread (elem e.iw e.srcV j), 0) else none
/-- The result of an integer reduction, extended into the scalar destination. Where no element is active the result is 0, as R159 says, although
an instruction without an active element changes no state by R152 (DEDUCED, log 99). -/
def Env.putRed (e : Env) (x : Option (Int × Nat)) : RegState :=
  let x := x.getD (0, 0)
  (e.putS e.r (BitVec.ofInt 64 x.1)).raise x.2
/-- An add step at the element width: it wraps, or clamps with SAT (R150). -/
def Env.addStep (e : Env) (x y : Int × Nat) : Int × Nat :=
  let c := e.iput (x.1 + y.1)
  (e.iread c.code, x.2 ||| y.2 ||| c.flags)
/-- The terms of a float reduction. -/
def Env.fterms (e : Env) : List (Option Coded) :=
  (List.range (e.lanes e.vf.width)).map fun j => if e.live e.vf.width j then some ⟨elem e.vf.width e.srcV j, 0⟩ else none
/-- The result of a float reduction: +0 where no element is active (R159; DEDUCED, log 99). -/
def Env.putFred (e : Env) (x : Option Coded) : RegState := e.putCoded (x.getD ⟨0, 0⟩)
/-- A node over codes that carries the flags of its operands. -/
def mergeNode (op : Nat → Nat → Coded) (x y : Coded) : Coded :=
  let r := op x.code y.code
  ⟨r.code, x.flags ||| y.flags ||| r.flags⟩

/-- R159: Integer tree-sum reduction into a scalar. -/
def vredsumRegs (e : Env) : RegState := e.putRed (tsum e.addStep e.iterms)
def execVredsum (f : Fields) (s : State) : Host.Outcome State Fault Refusal := issueRegs Forms.vredS f vredsumRegs s

/-- R159: Integer maximum reduction. -/
def vredmaxRegs (e : Env) : RegState := e.putRed (tsum (fun x y => (max x.1 y.1, 0)) e.iterms)
def execVredmax (f : Fields) (s : State) : Host.Outcome State Fault Refusal := issueRegs Forms.vredM f vredmaxRegs s

/-- R159: Integer minimum reduction. -/
def vredminRegs (e : Env) : RegState := e.putRed (tsum (fun x y => (min x.1 y.1, 0)) e.iterms)
def execVredmin (f : Fields) (s : State) : Host.Outcome State Fault Refusal := issueRegs Forms.vredM f vredminRegs s

/-- R159: Float tree-sum reduction into an f register. -/
def vfredsumRegs (e : Env) : RegState := e.putFred (tsum (mergeNode (e.vf.add e.mode)) e.fterms)
def execVfredsum (f : Fields) (s : State) : Host.Outcome State Fault Refusal := issueRegs Forms.vfredS f vfredsumRegs s

/-- R159: Float maximum reduction. -/
def vfredmaxRegs (e : Env) : RegState := e.putFred (tsum (mergeNode (e.vf.minmax true)) e.fterms)
def execVfredmax (f : Fields) (s : State) : Host.Outcome State Fault Refusal := issueRegs Forms.vfredM f vfredmaxRegs s

/-- R159: Float minimum reduction. -/
def vfredminRegs (e : Env) : RegState := e.putFred (tsum (mergeNode (e.vf.minmax false)) e.fterms)
def execVfredmin (f : Fields) (s : State) : Host.Outcome State Fault Refusal := issueRegs Forms.vfredM f vfredminRegs s

/-- R160: Permute elements of A by indices in B. -/
def vpermRegs (e : Env) : RegState := e.mapV e.bw fun j => ⟨elem e.bw e.aV (elem e.bw e.bV j % e.lanes e.bw), 0⟩
def execVperm (f : Fields) (s : State) : Host.Outcome State Fault Refusal := issueRegs Forms.vbit2 f vpermRegs s

/-- The k limits of vslide, vext and vins make the instruction illegal where they fail (R154). -/
def vslideRegs (e : Env) : RegState :=
  e.mapV e.bw fun j =>
    let i := j + e.immU
    ⟨if i < e.lanes e.bw then elem e.bw e.srcV i else elem e.bw e.tsrcV (i - e.lanes e.bw), 0⟩
/-- R160: Take n elements from the concatenation of A and B starting at k. -/
def execVslide (f : Fields) (s : State) : Host.Outcome State Fault Refusal := issueIf Forms.vslideF f slideOk (regBody vslideRegs) s

/-- R160: Interleave halves of A and B. -/
def vzipRegs (e : Env) : RegState := e.mapV e.bw fun j =>
  let i := j / 2 + e.f.aux.toNat * (e.lanes e.bw / 2)
  ⟨if j % 2 = 0 then elem e.bw e.srcV i else elem e.bw e.tsrcV i, 0⟩
def execVzip (f : Fields) (s : State) : Host.Outcome State Fault Refusal := issueRegs Forms.vzipF f vzipRegs s

/-- R160: De-interleave A and B. -/
def vunzipRegs (e : Env) : RegState := e.mapV e.bw fun j =>
  let h := e.lanes e.bw / 2
  ⟨if j < h then elem e.bw e.srcV (2 * j + e.f.aux.toNat) else elem e.bw e.tsrcV (2 * (j - h) + e.f.aux.toNat), 0⟩
def execVunzip (f : Fields) (s : State) : Host.Outcome State Fault Refusal := issueRegs Forms.vzipF f vunzipRegs s

/-- R160: Copy a vector register. -/
def vmovRegs (e : Env) : RegState := e.mapV e.bw fun j => ⟨elem e.bw e.srcV j, 0⟩
def execVmov (f : Fields) (s : State) : Host.Outcome State Fault Refusal := issueRegs Forms.vbit1 f vmovRegs s

/-- The s or f source that AUX selects (R154). -/
def Env.scalarSrc (e : Env) : Nat := if e.f.aux.toNat = 1 then e.srcF.toNat else e.srcS.toNat

/-- R160: Broadcast a scalar to every element. -/
def vsplatRegs (e : Env) : RegState := e.mapV e.bw fun _ => ⟨e.scalarSrc % 2 ^ e.bw, 0⟩
def execVsplat (f : Fields) (s : State) : Host.Outcome State Fault Refusal := issueRegs (Forms.vsplatF f) f vsplatRegs s

/-- R160: Extract element k to a scalar or f register. -/
def vextRegs (e : Env) : RegState :=
  let x := elem e.bw e.srcV e.immU
  if e.f.aux.toNat = 1 then e.putF e.r (BitVec.ofNat 64 x)
  else if e.f.fmt = 0 || e.f.fmt = 11 || e.f.fmt = 13 then e.putS e.r (BitVec.ofInt 64 (sintOf e.bw x))
  else e.putS e.r (BitVec.ofNat 64 x)
def execVext (f : Fields) (s : State) : Host.Outcome State Fault Refusal := issueIf (Forms.vextF f) f laneOk (regBody vextRegs) s

/-- R160: Insert a scalar into element k. -/
def vinsRegs (e : Env) : RegState :=
  e.mapV e.bw fun j => ⟨if j = e.immU then e.scalarSrc % 2 ^ e.bw else elem e.bw e.oldV j, 0⟩
def execVins (f : Fields) (s : State) : Host.Outcome State Fault Refusal := issueIf (Forms.vinsF f) f laneOk (regBody vinsRegs) s

end Sys2Proof.Machine
end

