-- ==== Sys2Proof/Machine/Pair.lean ====
section
/-! DEFINITION. Page 3: vdot, vcvtn and vcvtw (R161 to R165), and the sums that engines and tiles share (R147 to R149). -/

namespace Sys2Proof.Machine

/-- An element format of a pair: a float, a codebook index, or a signed integer (R55, R139, R140). -/
inductive Elt where
  | flt (F : FloatFmt)
  | c4
  | int (w : Nat)
  deriving DecidableEq, Repr

def Elt.width : Elt → Nat | .flt F => F.width | .c4 => 4 | .int w => w

/-- Entry i of a codebook of four doublewords (R140). -/
def cbEntry (cb : Vector Dword 4) (i : Nat) : Nat := bits ((cb[i / 4]?.getD 0).toNat) (16 * (i % 4)) 16

/-- The exact value of an element (R135 to R140). -/
def Elt.value (cb : Vector Dword 4) : Elt → Nat → Val
  | .flt F, x => F.decode x
  | .c4, x => FloatFmt.bf16.decode (cbEntry cb (x % 16))
  | .int w, x => Val.ofInt (sintOf w x) 0 false

/-- The two formats of a pair code (R55). -/
def pairFmts (pair : Nat) : Elt × Elt :=
  match pair with
  | 0 => (.flt .e4m3, .flt .e4m3) | 1 => (.flt .e4m3, .flt .e5m2) | 2 => (.flt .e5m2, .flt .e4m3)
  | 3 => (.flt .e5m2, .flt .e5m2) | 4 => (.flt .e3m2, .flt .e3m2) | 5 => (.flt .e2m3, .flt .e2m3)
  | 6 => (.flt .e3m2, .flt .e2m3) | 7 => (.flt .e2m3, .flt .e3m2) | 8 => (.flt .e2m1, .flt .e2m1)
  | 9 => (.c4, .c4) | 10 => (.flt .e2m1, .c4) | 11 => (.int 8, .int 8) | 12 => (.int 4, .int 4)
  | 13 => (.int 8, .int 4) | 14 => (.flt .bf16, .flt .bf16) | 15 => (.flt .fp16, .flt .fp16)
  | 16 => (.flt .e4m3, .flt .bf16) | 17 => (.flt .e5m2, .flt .bf16) | 18 => (.c4, .flt .bf16)
  | 19 => (.flt .e2m1, .flt .bf16) | 20 => (.flt .fp32, .flt .bf16) | 21 => (.flt .fp32, .flt .fp16)
  | 22 => (.flt .fp32, .flt .e4m3) | 23 => (.flt .fp32, .flt .e5m2) | 24 => (.flt .fp32, .flt .e3m2)
  | 25 => (.flt .fp32, .flt .e2m3) | 26 => (.flt .fp32, .flt .e2m1) | 27 => (.flt .bf16, .flt .e4m3)
  | 28 => (.flt .bf16, .flt .e5m2) | 29 => (.flt .bf16, .flt .e2m1) | 30 => (.flt .fp32, .int 8)
  | _ => (.int 32, .int 8)

/-- Terms of one lane or one tile element (R162). -/
def pairTerms (pair : Nat) : Nat := if pair ≤ 7 then 4 else if pair ≤ 10 then 8 else if pair = 12 then 8 else if pair = 11 || pair = 13 then 4 else 2

/-- A block scale (R141): kind 0 none, 1 E8M0, 2 FP32; a NaN scale raises no NV of its own. -/
def scaleVal (kind : Nat) (x : Nat) : Val :=
  match kind with
  | 0 => .fin false 1 0
  | 1 => if x % 256 = 255 then .nan false else .fin false 1 ((x % 256 : Nat) - 127)
  | _ => match FloatFmt.fp32.decode (x % 2 ^ 32) with | .nan _ => .nan false | v => v

/-- R147 steps 1 to 3 for one block: the tsum of the products, times the product of the two scales, rounded to FP32. -/
def scaledBlock (ps : List (Option Term)) (sa sb : Val) : Coded :=
  let part := ((tsum nodeTerm ps).getD (.code ⟨0, 0⟩)).val
  let sc := mulExact sa sb
  let r := mulExact part.val sc.val
  FloatFmt.fp32.finish .nearest ⟨r.val, part.flags ||| sc.flags ||| r.flags⟩

/-- R147 step 4: R142 applied to c plus a sum, in FP32 and a mode. -/
def addFinal (mode : RMode) (c : Nat) (x : Coded) : Coded :=
  let r := FloatFmt.fp32.finish mode (addExact mode (FloatFmt.fp32.decode c) (FloatFmt.fp32.decode x.code))
  ⟨r.code, x.flags ||| r.flags⟩

/-- The exact products of two lists of codes. -/
def products (cb : Vector Dword 4) (fa fb : Elt) (a b : List Nat) : List (Option Term) :=
  (a.zip b).map fun p => some (.exact (mulExact (fa.value cb p.1) (fb.value cb p.2)))

/-- The sum of the integer products (R149). -/
def intDot (fa fb : Elt) (a b : List Nat) : Int :=
  (a.zip b).foldl (fun s p => s + sintOf fa.width p.1 * sintOf fb.width p.2) 0

/-- A and B of vdot: va and va + 1, or the two oldest ldq entries in queue mode (R161). -/
def Env.pairA (e : Env) : Vec := if e.srcQ then (e.r.entry 0).setWidth 512 else e.r.rdV e.f.srcN
def Env.pairB (e : Env) : Vec := if e.srcQ then (e.r.entry 1).setWidth 512 else e.r.rdV (e.f.srcN + 1)

/-- One lane of vdot (R163). -/
def vdotLane (pair : Nat) (e : Env) (i : Nat) : Coded :=
  let fm := pairFmts pair
  let g := pairTerms pair
  let a := (List.range g).map fun q => elem fm.1.width e.pairA (g * i + q)
  let b := (List.range g).map fun q => elem fm.2.width e.pairB (g * i + q)
  let c := elem 32 e.oldV i
  if Forms.pairInt pair then writebackInt32 e.f.sat (sintOf 32 c + intDot fm.1 fm.2 a b)
  else
    let blk := g * i / 32
    let nb := Forms.pairBlocks pair e.kind.vwidth
    let kind := e.f.aux.toNat
    let sa := if nb.1 = 0 then .fin false 1 0 else scaleVal kind (e.r.rdF (e.f.tsrcN + blk)).toNat
    let sb := if nb.2 = 0 then .fin false 1 0 else scaleVal kind (e.r.rdF (e.f.tsrcN + nb.1 + blk)).toNat
    addFinal e.mode c (scaledBlock (products e.r.codebook fm.1 fm.2 a b) sa sb)

/-- R163: Format-pair block-scaled dot product per lane accumulated into vd. -/
def vdotRegs (pair : Nat) (e : Env) : RegState := e.mapV 32 (vdotLane pair e)
def execVdot (pair : BitVec 5) (f : Fields) (s : State) : Host.Outcome State Fault Refusal :=
  issueIf (Forms.vdotF pair.toNat f) f (scalesOk pair.toNat) (regBody (vdotRegs pair.toNat)) s

/-- An element narrowed (R164): float formats by R142 and R143, INT8 by R142 or R149. -/
def narrow (pair : Nat) (mode : RMode) (sat : Bool) (x : Nat) : Coded :=
  match pairFmts pair with
  | (.flt A, .flt B) => B.convert mode sat (A.decode x)
  | (.flt A, _) =>
    let c := convertInt (-128) 127 mode (A.decode x)
    ⟨wrapInt 8 c.1, c.2⟩
  | _ =>
    let c := clampInt sat (-128) 127 (sintOf 32 x)
    ⟨wrapInt 8 c.1, c.2⟩

/-- The stochastic bits of a lane (R144). -/
def Env.rb (e : Env) (lane : Nat) : Nat := (rbits e.r.rngSeed e.ss e.r.rngCtr (BitVec.ofNat 32 lane)).toNat

/-- One more RND 5 instruction has drawn (R145). -/
def RegState.drew (r : RegState) (f : Fields) : RegState := if f.rnd = 5 then { r with rngCtr := r.rngCtr + 1 } else r

/-- R164: Narrow elements from format A into a slice of vd. -/
def vcvtnRegs (pair : Nat) (e : Env) : RegState :=
  let wa := (pairFmts pair).1.width
  let wb := (pairFmts pair).2.width
  let ns := e.lanes wa
  let part := e.f.aux.toNat
  let dflt := if pair = 30 then .toZero else rdefMode e.r.arith
  let total := if wb = 6 then e.kind.vwidth / 8 else e.kind.vwidth / wb
  let l := (List.range total).map fun j =>
    if part * ns ≤ j && j < part * ns + ns && e.live wb j then
      narrow pair (modeOf e.f.rnd dflt (e.rb j)) e.f.sat (elem wa e.srcV (j - part * ns))
    else ⟨elem wb e.oldV j, 0⟩
  let any := (List.range ns).any fun i => e.live wb (part * ns + i)
  if any then ((e.putV e.r (packV wb (l.map (·.code)))).raise (orFlags l)).drew e.f else e.r
def execVcvtn (pair : BitVec 5) (f : Fields) (s : State) : Host.Outcome State Fault Refusal :=
  issueRegs (Forms.vcvtnF pair.toNat) f (vcvtnRegs pair.toNat) s

/-- An element widened exactly (R165). -/
def widen (pair x : Nat) : Coded :=
  match pairFmts pair with
  | (.flt A, .flt B) => A.convert .nearest false (B.decode x)
  | (.flt A, _) => A.convert .nearest false (Val.ofInt (sintOf 8 x) 0 false)
  | _ => ⟨wrapInt 32 (sintOf 8 x), 0⟩

/-- R165: Widen a slice of va exactly into vd. -/
def vcvtwRegs (pair : Nat) (e : Env) : RegState :=
  let wa := (pairFmts pair).1.width
  let wb := (pairFmts pair).2.width
  e.mapV wa fun j => widen pair (elem wb e.srcV (e.f.aux.toNat * e.lanes wa + j))
def execVcvtw (pair : BitVec 5) (f : Fields) (s : State) : Host.Outcome State Fault Refusal :=
  issueRegs (Forms.vcvtwF pair.toNat) f (vcvtwRegs pair.toNat) s

end Sys2Proof.Machine
end

