-- ==== Sys2Proof/Machine/Ports.lean ====
section
/-! DEFINITION. Page 2: the engine ports as a context sees them (R168, R171, R172, R181). -/

namespace Sys2Proof.Machine

/-- The port state of a context (R168). -/
def Ctx.port (c : Ctx) (p : Nat) : Port := SMap.read Port.empty c.ports p
def State.modPort (s : State) (a : CtxId) (p : Nat) (g : Port → Port) : State :=
  s.modCtx a fun c => { c with ports := SMap.put c.ports p (g (c.port p)) }

/-- Ports 4 to 7 have no engine (R168, R196). -/
def portExists (p : Nat) : Bool := p < 4 || (8 ≤ p && p < 16)

/-- Stage an effect in the running chunk. -/
def State.stage (s : State) (a : CtxId) (x : Effect) : State :=
  s.modCtx a fun c => { c with chunk := { c.chunk with effects := c.chunk.effects ++ [x], epcs := c.chunk.epcs ++ [c.r.pc] } }

/-- pop: wait for an element, take the oldest (it leaves the FIFO when the chunk commits) (R171). -/
def popAct (a : CtxId) (p : Nat) (put : Dword → RegState) (s : State) : Act :=
  match ((s.ctx a).port p).output with
  | [] => .wait (.element p) s
  | x :: _ => .done ((s.setRegs a (put x)).stage a (.popped p))

/-- The commands of a context at a port, oldest first: its input FIFO, or its operations on the cluster's channels (R168, R210). -/
def portCommands (s : State) (a : CtxId) (p : Nat) : List Command :=
  ((s.ctx a).port p).input ++ if p < 8 then []
  else match clusterOf a.core with
    | none => []
    | some cl => (s.cluster cl).chans.flatMap fun x =>
        ((x.2.active.toList ++ x.2.shadow.toList ++ x.2.waiting).filter fun o => o.owner == a && o.port == p).map (·.cmd)

/-- The elements a context still finds in a port's output FIFO: an element its open chunk popped is gone for it (R171, R172). -/
def outCount (c : Ctx) (p : Nat) : Nat :=
  (c.port p).output.length - (c.chunk.effects.filter fun x => x == .popped p).length

/-- engst's word w (R172). -/
def engstWord (s : State) (a : CtxId) (p w : Nat) : Dword :=
  let q := (s.ctx a).port p
  let l := portCommands s a p
  if w = 0 then
    BitVec.ofNat 64 (q.lastErr.toNat * 2 ^ 56 + outCount (s.ctx a) p * 2 ^ 40 + l.length * 2 ^ 32
      + (if l.any (fun c => c.begun && c.outcome.isNone) then 1 else 0))
  else q.errAddr

/-- R171: Take the oldest completion element, waiting while the FIFO is empty. -/
def popBody (e : Env) (s : State) : Act := popAct e.at' e.f.srcN (e.putS e.r) s
def execPop (f : Fields) (s : State) : Host.Outcome State Fault Refusal := issue Forms.popF f popBody s

/-- R171: Take a completion element if any, setting a predicate. -/
def popqBody (e : Env) (s : State) : Act :=
  match ((s.ctx e.at').port e.f.srcN).output with
  | [] => .done (s.setRegs e.at' ((e.putS e.r 0).wrP e.kind e.f.tsrcN 0))
  | x :: _ => .done ((s.setRegs e.at' ((e.putS e.r x).wrP e.kind e.f.tsrcN (pOnes e.kind))).stage e.at' (.popped e.f.srcN))
def execPopq (f : Fields) (s : State) : Host.Outcome State Fault Refusal := issue Forms.popqF f popqBody s

/-- R172: Read the context's engine status word at a port. -/
def engstBody (e : Env) (s : State) : Act := .done (s.setRegs e.at' (e.putS e.r (engstWord s e.at' e.f.srcN e.f.aux.toNat)))
def execEngst (f : Fields) (s : State) : Host.Outcome State Fault Refusal := issue Forms.engstF f engstBody s

/-- R171: Remove unstarted commands and stop the running one with STATUS 0x04. -/
def engabortBody (e : Env) (s : State) : Act := .done (s.stage e.at' (.engabort e.f.srcN))
def execEngabort (f : Fields) (s : State) : Host.Outcome State Fault Refusal := issue Forms.engabortF f engabortBody s

/-- The head of the matrix queue (R181). -/
def rowprogWord (c : Ctx) : Dword :=
  let q := (c.port 0).input
  match q with
  | [] => 0
  | h :: _ => BitVec.ofNat 64 (q.length * 2 ^ 24 + (if h.begun then 2 ^ 16 + h.prog else 0))

/-- R181: Read the row progress of the context's matrix queue head. -/
def rowprogBody (e : Env) (s : State) : Act := .done (s.setRegs e.at' (e.putS e.r (rowprogWord (s.ctx e.at'))))
def execRowprog (f : Fields) (s : State) : Host.Outcome State Fault Refusal := issue Forms.rowprogF f rowprogBody s

end Sys2Proof.Machine
end

