-- ==== Sys2Proof/Machine/Memory.lean ====
section
/-! DEFINITION. Page 4: loads, stores, queue instructions, fences and atomics (R194 to R209). -/

namespace Sys2Proof.Machine

/-- Remove the entries that served one answered access and no more (R231). -/
def State.useOnce (s : State) (a : CtxId) (unit : Nat) : State :=
  if (s.core a.core).tlb.slots.any (fun t => t.once == some (reqNo a unit)) then
    s.modCore a.core fun c => { c with tlb := { c.tlb with
      slots := c.tlb.slots.map fun t => if t.once == some (reqNo a unit) then { t with valid := false } else t } }
  else s

/-- A failed access as an act: a precise trap, or a miss (R200, R224). -/
def reachFail (acc : Nat) : Reach → Act
  | .trap c i a => .trap ⟨c, i, a, false⟩
  | .miss va => .miss va acc
  | .loc _ => .trap ⟨0x06, 0, 0, false⟩

/-- A load of the bytes at some addresses: every check of R200, then the bytes, with their lines recorded; a poisoned
byte is consumed (R318). -/
def loadBytes (s : State) (a : CtxId) (vas : List Dword) (k : State → Nat → Act) : Act :=
  match reachAll s a 0 0 true vas with
  | .error r => reachFail 0 r
  | .ok locs =>
    match s.poisonAt a (locs.zip vas) with
    | some p => .trap ⟨0x17, BitVec.ofNat 32 (memKind p.1), p.2, false⟩
    | none => k ((s.noteRead a locs).useOnce a 0) (s.see a locs)

/-- A store held until the chunk commits; in a phase-structured card a byte of host-visible memory is an export effect (R326). -/
def storeLocs (s : State) (a : CtxId) (vas : List Dword) (l : List (Nat × Byte)) : State :=
  let out := (l.zip vas).filter fun e => isHost e.1.1
  let s := (s.hold a (if s.phased a then l.filter fun e => !isHost e.1 else l)).useOnce a 0
  if s.phased a && out != [] then s.stage a (.hostStore (out.map (·.1)) (out.map (·.2))) else s

/-- The tick at which the first of the L0 leases that serve some addresses ends (R231). -/
def leaseOver (s : State) (a : CtxId) (vas : List Dword) : Option Nat :=
  if a.core.kind ≠ .l0 then none
  else (vas.filterMap fun v => if isWindow v then none
    else ((s.core a.core).tlb.slots.find? fun e => e.hits (s.ctx a).asid.toNat s.ticks (reqNo a 0) v.toNat).map (·.expires)).min?

/-- A chunk remembers the earlier of its leases' ends. -/
def Chunk.leased (c : Chunk) (t : Option Nat) : Chunk :=
  { c with lease := match c.lease, t with | some x, some y => some (min x y) | some x, none => some x | none, y => y }

/-- A chunk that holds an access until its commit keeps the end of its lease (R231). -/
def State.noteLease (s : State) (a : CtxId) (vas : List Dword) : State :=
  match leaseOver s a vas with
  | none => s
  | some t => s.modCtx a fun c => { c with chunk := c.chunk.leased (some t) }

/-- A store of bytes to some addresses (R200, R201). -/
def storeBytes (s : State) (a : CtxId) (l : List (Dword × Byte)) (k : State → Act) : Act :=
  match reachAll s a 0 1 true (l.map (·.1)) with
  | .error r => reachFail 1 r
  | .ok locs => k (storeLocs (s.noteLease a (l.map (·.1))) a (l.map (·.1)) (locs.zip (l.map (·.2))))

/-- The effective address of R195. -/
def Env.ea (e : Env) : Dword := e.srcS + e.immS

/-- The bytes of a number, each with its address. -/
def bytesAt (va : Dword) (n x : Nat) : List (Dword × Byte) :=
  (List.range n).map fun i => (va + BitVec.ofNat 64 i, BitVec.ofNat 8 (x / 256 ^ i))

/-- A scalar load of n bytes, aligned to its size; an ld64 of the engine-port window pops or reads a status (R196, R200, R201). -/
def scalarLoad (n : Nat) (ext : Nat → Dword) (put : Env → Dword → RegState) (e : Env) (s : State) : Act :=
  let ea := e.ea
  if ea.toNat % n ≠ 0 then .trap ⟨0x05, 0, ea, false⟩
  else
    let w := ea.toNat - 0x00FF040000000000
    if n = 8 ∧ e.fm.dst = .s ∧ e.kind = .l0 ∧ ¬ s.computing e.at' ∧ 0x00FF040000000000 ≤ ea.toNat ∧ w < 1024
        ∧ portExists (w / 64) ∧ w % 64 ≤ 16 then
      if w % 64 = 0 then
        if (s.ctx e.at').chunk.count ≠ 0 then .endFirst else popAct e.at' (w / 64) (put e) s
      else .done (s.setRegs e.at' (put e (engstWord s e.at' (w / 64) (w % 64 / 8 - 1))))
    else if n = 8 ∧ e.fm.dst = .s ∧ e.kind = .l0 ∧ s.computing e.at' ∧ 0x00FF040000000000 ≤ ea.toNat ∧ w < 1024 ∧ portExists (w / 64) ∧ w % 64 ≤ 16 then
      .trap ⟨0x07, 0, ea, false⟩
    else loadBytes s e.at' (span ea n) fun s x => .done (s.setRegs e.at' (put e (ext x)))

def zext (x : Nat) : Dword := BitVec.ofNat 64 x
def sextFrom (w x : Nat) : Dword := BitVec.ofInt 64 (sintOf w x)
def Env.putSr (e : Env) (x : Dword) : RegState := e.putS e.r x

/-- A scalar store of the low n bytes of a register (R201). -/
def scalarStore (n : Nat) (src : Env → Dword) (e : Env) (s : State) : Act :=
  let ea := e.ea
  if ea.toNat % n ≠ 0 then .trap ⟨0x05, 0, ea, false⟩
  else storeBytes s e.at' (bytesAt ea n (src e).toNat) fun s => .done s

/-- The scalar a store's DST field names. -/
def Env.dstS (e : Env) : Dword := e.r.rdS e.f.dstN

/-- R201: Load a byte, zero-extended. -/
def ld8Body (e : Env) (s : State) : Act := scalarLoad 1 zext Env.putSr e s
def execLd8 (f : Fields) (s : State) : Host.Outcome State Fault Refusal := issue Forms.ld f ld8Body s

/-- R201: Load a byte, sign-extended. -/
def ld8sBody (e : Env) (s : State) : Act := scalarLoad 1 (sextFrom 8) Env.putSr e s
def execLd8s (f : Fields) (s : State) : Host.Outcome State Fault Refusal := issue Forms.ld f ld8sBody s

/-- R201: Load a halfword, zero-extended. -/
def ld16Body (e : Env) (s : State) : Act := scalarLoad 2 zext Env.putSr e s
def execLd16 (f : Fields) (s : State) : Host.Outcome State Fault Refusal := issue Forms.ld f ld16Body s

/-- R201: Load a halfword, sign-extended. -/
def ld16sBody (e : Env) (s : State) : Act := scalarLoad 2 (sextFrom 16) Env.putSr e s
def execLd16s (f : Fields) (s : State) : Host.Outcome State Fault Refusal := issue Forms.ld f ld16sBody s

/-- R201: Load a word, zero-extended. -/
def ld32Body (e : Env) (s : State) : Act := scalarLoad 4 zext Env.putSr e s
def execLd32 (f : Fields) (s : State) : Host.Outcome State Fault Refusal := issue Forms.ld f ld32Body s

/-- R201: Load a word, sign-extended. -/
def ld32sBody (e : Env) (s : State) : Act := scalarLoad 4 (sextFrom 32) Env.putSr e s
def execLd32s (f : Fields) (s : State) : Host.Outcome State Fault Refusal := issue Forms.ld f ld32sBody s

/-- R201: Load a doubleword. -/
def ld64Body (e : Env) (s : State) : Act := scalarLoad 8 zext Env.putSr e s
def execLd64 (f : Fields) (s : State) : Host.Outcome State Fault Refusal := issue Forms.ld f ld64Body s

/-- The width in bytes of ldf and stf (R201). -/
def floatBytes (fmt : Nat) : Nat := if fmt = 2 then 4 else if fmt = 3 || fmt = 4 then 2 else 8

/-- R201: Load a float into an f register. -/
def ldfBody (e : Env) (s : State) : Act := scalarLoad (floatBytes e.f.fmt) zext (fun e x => e.putF e.r x) e s
def execLdf (f : Fields) (s : State) : Host.Outcome State Fault Refusal := issue Forms.ldfF f ldfBody s

/-- R201: Store a byte. -/
def st8Body (e : Env) (s : State) : Act := scalarStore 1 Env.dstS e s
def execSt8 (f : Fields) (s : State) : Host.Outcome State Fault Refusal := issue Forms.st f st8Body s

/-- R201: Store a halfword. -/
def st16Body (e : Env) (s : State) : Act := scalarStore 2 Env.dstS e s
def execSt16 (f : Fields) (s : State) : Host.Outcome State Fault Refusal := issue Forms.st f st16Body s

/-- R201: Store a word. -/
def st32Body (e : Env) (s : State) : Act := scalarStore 4 Env.dstS e s
def execSt32 (f : Fields) (s : State) : Host.Outcome State Fault Refusal := issue Forms.st f st32Body s

/-- R201: Store a doubleword. -/
def st64Body (e : Env) (s : State) : Act := scalarStore 8 Env.dstS e s
def execSt64 (f : Fields) (s : State) : Host.Outcome State Fault Refusal := issue Forms.st f st64Body s

/-- R201: Store a float from an f register. -/
def stfBody (e : Env) (s : State) : Act := scalarStore (floatBytes e.f.fmt) Env.oldF e s
def execStf (f : Fields) (s : State) : Host.Outcome State Fault Refusal := issue Forms.stfF f stfBody s

/-- The active 32-bit words of a vector access (R201). -/
def Env.words (e : Env) : List Nat := (List.range (e.kind.vwidth / 32)).filter fun j => e.live 32 j
/-- The active elements of a strided access, each with its address (R201). -/
def Env.strided (e : Env) : List (Nat × Dword) :=
  ((List.range (e.lanes e.bw)).filter fun j => e.live e.bw j).map fun j => (j, e.ea + BitVec.ofNat 64 j * e.tsrcS)
/-- Scatter loaded elements into the destination; the others keep their value. -/
def Env.spread (e : Env) (w : Nat) (js : List Nat) (x : Nat) : RegState :=
  e.putV e.r (packV w ((List.range (e.lanes w)).map fun j =>
    match js.idxOf? j with
    | some i => bits x (w * i) w
    | none => elem w e.oldV j))
/-- The alignment of a strided access: 4 bytes at its base, and each element to its own width (R200); with no active element nothing is
checked (R42, R152). -/
def Env.badStride (e : Env) : Option Dword :=
  if e.strided ≠ [] ∧ e.ea.toNat % 4 ≠ 0 then some e.ea
  else ((e.strided.map (·.2)).find? fun a => a.toNat % (e.bw / 8) != 0)

/-- R201: Load a whole vector register; with no active element it does nothing (R42, R152). -/
def vldBody (e : Env) (s : State) : Act :=
  if e.words ≠ [] ∧ e.ea.toNat % 4 ≠ 0 then misaligned e.ea
  else loadBytes s e.at' (e.words.flatMap fun j => span (e.ea + BitVec.ofNat 64 (4 * j)) 4) fun s x =>
    .done (s.setRegs e.at' (e.spread 32 e.words x))
def execVld (f : Fields) (s : State) : Host.Outcome State Fault Refusal := issue Forms.vldF f vldBody s

/-- R201: Store a whole vector register. -/
def vstBody (e : Env) (s : State) : Act :=
  if e.words ≠ [] ∧ e.ea.toNat % 4 ≠ 0 then misaligned e.ea
  else storeBytes s e.at' (e.words.flatMap fun j => bytesAt (e.ea + BitVec.ofNat 64 (4 * j)) 4 (elem 32 (e.r.rdV e.f.dstN) j))
    fun s => .done s
def execVst (f : Fields) (s : State) : Host.Outcome State Fault Refusal := issue Forms.vstF f vstBody s

/-- R201: Strided vector element load. -/
def vldsBody (e : Env) (s : State) : Act :=
  match e.badStride with
  | some a => misaligned a
  | none => loadBytes s e.at' (e.strided.flatMap fun p => span p.2 (e.bw / 8)) fun s x =>
      .done (s.setRegs e.at' (e.spread e.bw (e.strided.map (·.1)) x))
def execVlds (f : Fields) (s : State) : Host.Outcome State Fault Refusal := issue Forms.vldsF f vldsBody s

/-- R201: Strided vector element store. -/
def vstsBody (e : Env) (s : State) : Act :=
  match e.badStride with
  | some a => misaligned a
  | none => storeBytes s e.at' (e.strided.flatMap fun p => bytesAt p.2 (e.bw / 8) (elem e.bw (e.r.rdV e.f.dstN) p.1))
      fun s => .done s
def execVsts (f : Fields) (s : State) : Host.Outcome State Fault Refusal := issue Forms.vstsF f vstsBody s

/-- R203: Prefetch hint for reading. -/
def pfBody (e : Env) (s : State) : Act := .done s
def execPf (f : Fields) (s : State) : Host.Outcome State Fault Refusal := issue Forms.pfF f pfBody s

/-- R203: Prefetch hint for writing. -/
def pfwBody (e : Env) (s : State) : Act := .done s
def execPfw (f : Fields) (s : State) : Host.Outcome State Fault Refusal := issue Forms.pfF f pfwBody s

/-- What the access half has issued for this instruction; its data once arrived (R127, R128). -/
def aheadOf (c : Ctx) (store : Bool) : Option Ahead := c.ahead.head?.filter fun h => h.pc == c.r.pc && h.store == store

/-- A queue load whose data was read ahead lands at once where none is on its way before it and ldq has room; another's data is on its
way (R127, R128). -/
def RegState.load (r : RegState) (early : Bool) (x : BitVec 256) : RegState :=
  if early && r.ldqDue == [] && decide (r.ldq.length < 8) then { r with ldq := r.ldq ++ [x] } else { r with ldqDue := r.ldqDue ++ [x] }

/-- A queue load at the execute half: the access made ahead with the fault it found, or the access now (R128, R202). The load never
stalls the pipe for its data (R129). -/
def queueLoad (n : Nat) (e : Env) (s : State) : Act :=
  let ea := e.ea
  if ea.toNat % (if n = 32 then 4 else n) ≠ 0 then misaligned ea
  else
    match aheadOf (s.ctx e.at') false with
    | some h =>
      (match h.fault with
      | some f => .trap ⟨f.1, f.2.1, f.2.2, false⟩
      | none =>
        match s.poisonAt e.at' (h.locs.zip (span ea n)) with
        | some p => .trap ⟨0x17, BitVec.ofNat 32 (memKind p.1), p.2, false⟩
        | none => .done (((s.noteRead e.at' h.locs).modCtx e.at' fun c => { c with ahead := c.ahead.drop 1 }).setRegs e.at' (e.r.load true h.data)))
    | none => loadBytes s e.at' (span ea n) fun s x => .done (s.setRegs e.at' (e.r.load false (BitVec.ofNat 256 x)))

/-- R202: Queue load of 1 to 8 bytes into ldq. -/
def qldBody (e : Env) (s : State) : Act := queueLoad (2 ^ e.f.aux.toNat) e s
def execQld (f : Fields) (s : State) : Host.Outcome State Fault Refusal := issue Forms.qldF f qldBody s

/-- R202: Queue load of 32 bytes into ldq. -/
def qvldBody (e : Env) (s : State) : Act := queueLoad 32 e s
def execQvld (f : Fields) (s : State) : Host.Outcome State Fault Refusal := issue Forms.qvldF f qvldBody s

/-- R202: Queue store of the oldest stq entry. -/
def qstBody (e : Env) (s : State) : Act :=
  let n := 2 ^ e.f.aux.toNat
  let ea := e.ea
  if ea.toNat % (if n = 32 then 4 else n) ≠ 0 then misaligned ea
  else match (aheadOf (s.ctx e.at') true).bind Ahead.fault, e.r.stq with
    | some f, _ => .trap ⟨f.1, f.2.1, f.2.2, false⟩
    | none, [] => .wait .stq s
    | none, x :: t => storeBytes s e.at' (bytesAt ea n x.toNat) fun s =>
        let s := if (aheadOf (s.ctx e.at') true).isSome then s.modCtx e.at' fun c => { c with ahead := c.ahead.drop 1 } else s
        .done (s.setRegs e.at' { e.r with stq := t })
def execQst (f : Fields) (s : State) : Host.Outcome State Fault Refusal := issue Forms.qstF f qstBody s

/-- R208: End the current chunk after this instruction. -/
def chunkEndBody (e : Env) (s : State) : Act := .done s
def execChunkEnd (f : Fields) (s : State) : Host.Outcome State Fault Refusal := issue Forms.chunkEndF f chunkEndBody s

/-- Discard the instruction cache of a core (R125, R209). -/
def State.dropCode (s : State) (c : CoreId) : State := s.modCore c fun k => { k with icache := [], fetchLine := none }

/-- An atomic at device or fabric scope is also a fence of that scope (R206). -/
def State.atScope (e : Env) (s : State) : State := if 4 ≤ e.f.scope then s.dropCode e.at'.core else s

/-- R209: Wait until earlier accesses are visible at the scope; at device or fabric scope (0, 4, 5) the core's instruction cache is
discarded. -/
def fenceBody (e : Env) (s : State) : Act :=
  .done (if e.f.scope = 0 ∨ 4 ≤ e.f.scope then s.dropCode e.at'.core else s)
def execFence (f : Fields) (s : State) : Host.Outcome State Fault Refusal := issue Forms.fenceF f fenceBody s

/-- The new value of an atomic (R204): operation 0 to 9 in the opcode's order, the old value and b as numbers. -/
def amoNew (op fmt : Nat) (sat : Bool) (old b : Nat) : Nat × Nat :=
  let w := if fmt = 0 then 64 else 32
  let so := intRead fmt old
  let sb := intRead fmt b
  match op with
  | 0 => let c := clampInt sat (intLo fmt) (intHi fmt) (so + sb); (wrapInt w c.1, c.2)
  | 1 => (old &&& b, 0)
  | 2 => (old ||| b, 0)
  | 3 => (old ^^^ b, 0)
  | 4 => (wrapInt w (min (sintOf w old) (sintOf w b)), 0)
  | 5 => (wrapInt w (max (sintOf w old) (sintOf w b)), 0)
  | 6 => (min (old % 2 ^ w) (b % 2 ^ w), 0)
  | 7 => (max (old % 2 ^ w) (b % 2 ^ w), 0)
  | _ => (b % 2 ^ w, 0)

/-- R204, R205: one indivisible read and write of an aligned word, held with the chunk's stores; host-visible memory ends
the chunk before it, and is an export effect with sd = s0 in a phase-structured card. -/
def amoBody (op : Nat) (e : Env) (s : State) : Act :=
  let n := if e.f.fmt = 0 then 8 else 4
  let ea := e.ea
  if ea.toNat % n ≠ 0 then misaligned ea
  else match reachAll s e.at' 0 3 true (span ea n) with
    | .error r => reachFail 3 r
    | .ok locs =>
      let host := locs.any isHost
      if host && (s.ctx e.at').chunk.count ≠ 0 then .endFirst
      else if host && s.phased e.at' then
        if e.f.dstN ≠ 0 || e.dstQ then .trap ⟨0x0D, 0, ea, false⟩
        else .done (((State.atScope e (s.noteLease e.at' (span ea n))).stage e.at' (.hostAmo (locs.headD 0) op e.f.fmt e.f.sat e.tsrcS 0 ea)).useOnce e.at' 0)
      else match s.poisonAt e.at' (locs.zip (span ea n)) with
        | some p => .trap ⟨0x17, BitVec.ofNat 32 (memKind p.1), p.2, false⟩
        | none =>
          let old := s.see e.at' locs
          let x := amoNew op e.f.fmt e.f.sat old (e.tsrcS.toNat % 2 ^ (8 * n))
          let s := (State.atScope e ((s.noteLease e.at' (span ea n)).noteRead e.at' locs)).useOnce e.at' 0
          let s := if op = 9 && old ≠ e.oldS.toNat % 2 ^ (8 * n) then s
            else s.hold e.at' ((List.range n).map fun i => (locs.getD i 0, BitVec.ofNat 8 (x.1 / 256 ^ i)))
          let d := if e.f.fmt = 11 then sextFrom 32 old else zext old
          .done (s.setRegs e.at' ((e.putS e.r d).raise x.2))

/-- R204: Atomic add, optionally saturating. -/
def amoaddBody (e : Env) (s : State) : Act := amoBody 0 e s
def execAmoadd (f : Fields) (s : State) : Host.Outcome State Fault Refusal := issue (Forms.amo [0, 11, 12] [0, 1] f) f amoaddBody s

/-- R204: Atomic and. -/
def amoandBody (e : Env) (s : State) : Act := amoBody 1 e s
def execAmoand (f : Fields) (s : State) : Host.Outcome State Fault Refusal := issue (Forms.amo [0, 11, 12] [0] f) f amoandBody s

/-- R204: Atomic or. -/
def amoorBody (e : Env) (s : State) : Act := amoBody 2 e s
def execAmoor (f : Fields) (s : State) : Host.Outcome State Fault Refusal := issue (Forms.amo [0, 11, 12] [0] f) f amoorBody s

/-- R204: Atomic xor. -/
def amoxorBody (e : Env) (s : State) : Act := amoBody 3 e s
def execAmoxor (f : Fields) (s : State) : Host.Outcome State Fault Refusal := issue (Forms.amo [0, 11, 12] [0] f) f amoxorBody s

/-- R204: Atomic signed minimum. -/
def amominBody (e : Env) (s : State) : Act := amoBody 4 e s
def execAmomin (f : Fields) (s : State) : Host.Outcome State Fault Refusal := issue (Forms.amo [0, 11] [0] f) f amominBody s

/-- R204: Atomic signed maximum. -/
def amomaxBody (e : Env) (s : State) : Act := amoBody 5 e s
def execAmomax (f : Fields) (s : State) : Host.Outcome State Fault Refusal := issue (Forms.amo [0, 11] [0] f) f amomaxBody s

/-- R204: Atomic unsigned minimum. -/
def amominnBody (e : Env) (s : State) : Act := amoBody 6 e s
def execAmominn (f : Fields) (s : State) : Host.Outcome State Fault Refusal := issue (Forms.amo [0, 12] [0] f) f amominnBody s

/-- R204: Atomic unsigned maximum. -/
def amomaxnBody (e : Env) (s : State) : Act := amoBody 7 e s
def execAmomaxn (f : Fields) (s : State) : Host.Outcome State Fault Refusal := issue (Forms.amo [0, 12] [0] f) f amomaxnBody s

/-- R204: Atomic swap. -/
def amoswpBody (e : Env) (s : State) : Act := amoBody 8 e s
def execAmoswp (f : Fields) (s : State) : Host.Outcome State Fault Refusal := issue (Forms.amo [0, 11, 12] [0] f) f amoswpBody s

/-- R204: Atomic compare and swap. -/
def amocasBody (e : Env) (s : State) : Act := amoBody 9 e s
def execAmocas (f : Fields) (s : State) : Host.Outcome State Fault Refusal := issue (Forms.amo [0, 11, 12] [0] f) f amocasBody s

end Sys2Proof.Machine
end

