-- ==== Sys2Proof/Machine/Contexts.lean ====
section
/-! DEFINITION. Page 5: helpers, park, gangs and work queries (R80 to R93, R124). -/

namespace Sys2Proof.Machine

/-- Helper numbers of an L0 core. -/
def helpers : List Nat := (List.range 10).map (· + 1)
def State.status (s : State) (a : CtxId) : Status := (s.ctx a).status
/-- Whether a context's running chunk has joined a helper and not started it again. -/
def Chunk.hasJoined (c : Chunk) (h : Nat) : Bool :=
  c.effects.foldl (fun b x => match x with | .joined k => b || k == h | .start k _ _ => b && k != h | _ => b) false
/-- A helper free for a start: neither in use nor reserved, or joined by the starter's own running chunk (R88, R89). -/
def freeHelper (s : State) (a : CtxId) : Option Nat :=
  helpers.find? fun h => s.status ⟨a.core, h⟩ == .free || (s.status ⟨a.core, h⟩ == .ended && (s.ctx a).chunk.hasJoined h)

/-- R88: Start a helper context at commit. -/
def startBody (e : Env) (s : State) : Act :=
  let pc := e.srcS
  if bitOf pc.toNat 0 then misaligned pc
  else match freeHelper s e.at' with
    | none => .done (s.setRegs e.at' (e.putS e.r 0))
    | some h =>
      let s := s.modCtx ⟨e.at'.core, h⟩ fun c => { c with status := .reserved }
      .done ((s.setRegs e.at' (e.putS e.r (BitVec.ofNat 64 h))).stage e.at' (.start h (toPc pc) e.tsrcS))
def execStart (f : Fields) (s : State) : Host.Outcome State Fault Refusal := issue Forms.startF f startBody s

/-- A started helper's context (R88): registers 0 but s1, s2, s30 and LEVEL.CUR, which holds the starting level of its layer's entry (R30,
log 93); the starter's card, ASID, KIND and records. A helper of a KIND 0
card reads its own number as INST; its epoch is its starter's, since only control contexts commit one (R31, R258, R364, log 69). -/
def helperCtx (s : State) (a : CtxId) (h : Nat) (entry : VAddr) (arg : Dword) : Ctx :=
  let c := s.ctx a
  let r := ((RegState.zero.wrS 1 arg).wrS 2 (BitVec.ofNat 64 a.ctx)).wrS 30 (stackTop (tcmSize a.core.kind) (stackLogOf s a) h)
  let level : BitVec 4 := match c.card with | some n => BitVec.ofNat 4 ((s.card n).start (layerOf a.core.kind)).1 | none => 0
  { Ctx.reset with
    r := { r with pc := entry, level := level }, status := .live, card := c.card, copy := c.copy, mate := c.mate, gpos := c.gpos, asid := c.asid,
    domKind := c.domKind, domInst := if c.domKind = 0 then BitVec.ofNat 16 h else c.domInst, dom := c.dom, entry := entry,
    firstRec := c.firstRec, nRec := c.nRec }

/-- R89: Wait for a helper to end and take its result. -/
def joinBody (e : Env) (s : State) : Act :=
  let h := e.srcS.toNat
  let bad : Act := .trap ⟨0x08, BitVec.ofNat 32 h, e.addr, false⟩
  if h < 1 ∨ 10 < h ∨ h = e.at'.ctx then bad
  else match s.status ⟨e.at'.core, h⟩ with
    | .free => bad
    | .reserved => bad
    | .ended =>
      let taken := (List.range 11).any fun k => k != e.at'.ctx &&
        (s.ctx ⟨e.at'.core, k⟩).chunk.effects.contains (.joined h)
      if taken then .wait (.helper h) s
      else .done ((s.setRegs e.at' (e.putS e.r ((s.ctx ⟨e.at'.core, h⟩).r.rdS 1))).stage e.at' (.joined h))
    | _ => .wait (.helper h) s
def execJoin (f : Fields) (s : State) : Host.Outcome State Fault Refusal := issue Forms.joinF f joinBody s

/-- R124: End the context once its earlier effects have committed. -/
def parkBody (e : Env) (s : State) : Act := .park s
def execPark (f : Fields) (s : State) : Host.Outcome State Fault Refusal := issue Forms.parkF f parkBody s

/-- R93: Let a fused gang's members continue independently. The members' chunks that hold the split commit, or are squashed with FUSED
back at 1, together (R207, log 68). -/
def splitBody (e : Env) (s : State) : Act :=
  match (s.ctx e.at').gang with
  | some g =>
    if e.at'.ctx = 0 && (s.gangOf g).fused && 1 < (s.gangOf g).members.length then
      let s := (s.gangOf g).members.foldl (fun s m => s.modCtx m fun c => { c with chunk := { c.chunk with split := true } }) s
      .done { s with gangs := SMap.put s.gangs g { s.gangOf g with fused := false } }
    else .done s
  | none => .done s
def execSplit (f : Fields) (s : State) : Host.Outcome State Fault Refusal := issue Forms.splitF f splitBody s

/-- R93: Wait for every gang member's fuse and refuse or trap on divergence. -/
def fuseBody (e : Env) (s : State) : Act :=
  match (s.ctx e.at').gang with
  | some g =>
    if e.at'.ctx = 0 && !(s.gangOf g).fused && 1 < (s.gangOf g).members.length then .wait .fuse s else .done s
  | none => .done s
def execFuse (f : Fields) (s : State) : Host.Outcome State Fault Refusal := issue Forms.fuseF f fuseBody s

/-- Whether a gang member has parked: its control context no longer runs (R93). -/
def hasParked (st : Status) : Bool := st == .parking || st == .ended || st == .free

/-- Whether every member of a split gang has arrived at a fuse or parked. -/
def fuseDue (s : State) (g : Nat) : Bool :=
  (s.gangOf g).members.all fun m => s.status m == .waiting .fuse || hasParked (s.status m)

/-- Complete the fuses of a gang whose members have all arrived: each fuse was the first instruction of a chunk, and a squash of that chunk
goes back to the instruction after it (R93, R207). -/
def resolveFuse (s : State) (g : Nat) : State :=
  let ms := (s.gangOf g).members.filter fun m => s.status m == .waiting .fuse
  let parked := (s.gangOf g).members.any fun m => hasParked (s.status m)
  let lead := (s.ctx (ms.headD ⟨⟨.l0, 0⟩, 0⟩)).r.pc
  let same := ms.all fun m => (s.ctx m).r.pc == lead
  if parked || same then
    let s := ms.foldl (fun s m => (retire (s.wake m) m 0 ((s.ctx m).r.pc + 4) false).modCtx m fun c => { c with
      chunk := { Chunk.empty with count := 1, base := 1, ckpt := c.r, against := if c.ahead = [] then [] else c.chunk.against } }) s
    if parked then s else { s with gangs := SMap.put s.gangs g { s.gangOf g with fused := true } }
  else ms.foldl (fun s m =>
    let pc := (s.ctx m).r.pc
    takeTrap s m ⟨0x09, BitVec.ofNat 32 lead.toNat, pc.setWidth 64, false⟩ pc pc) s

/-- Queries posted and staged (R85). -/
def queriesOut (c : Ctx) : Nat :=
  c.queries.length + c.chunk.effects.countP fun x => match x with | .workq _ _ => true | _ => false

/-- R85: Post a query for the next chunk of the context's card. -/
def workqBody (e : Env) (s : State) : Act :=
  let a := e.srcS
  if a.toNat % 16 ≠ 0 then misaligned a
  else match (if a.toNat / 2 ^ 40 = 0xFF01 then windowReach s e.at' a else .miss 0) with
    | .loc _ =>
      if queriesOut (s.ctx e.at') = 2 then .done (s.setRegs e.at' (e.putS e.r 1))
      else .done ((s.setRegs e.at' (e.putS e.r 0)).stage e.at' (.workq a e.f.aux.toNat))
    | _ => .trap ⟨0x06, 0, a, false⟩
def execWorkq (f : Fields) (s : State) : Host.Outcome State Fault Refusal := issue Forms.workqF f workqBody s

end Sys2Proof.Machine
end

