-- ==== Sys2Proof/Machine/Translate.lean ====
section
/-! DEFINITION. Misses, fault messages, mailboxes, tlbw, leases and shoot-downs (R224 to R235, R314, R315). -/

namespace Sys2Proof.Machine

/-- The request handle of a context's unit (R225): units 1 to 5 as SRCU, a channel adding 16 times its number. A service core's has LAYER 0 and
its cluster as LOCAL, so that it reads as the L0 core's of that LOCAL (DESIGN CHOICE, log 11). -/
def reqHandle (a : CtxId) (unit : Nat) (seq : Byte) : Nat :=
  layerOf a.core.kind * 2 ^ 30 + localOf a.core * 2 ^ 20 + a.ctx * 2 ^ 16 + unit % 16 * 2 ^ 12 + unit / 16 * 2 ^ 8 + seq.toNat

/-- A miss message (R225). -/
def missMsg (s : State) (a : CtxId) (m : Miss) : List Dword :=
  [m.va.setWidth 64,
   BitVec.ofNat 64 (reqHandle a m.unit m.seq * 2 ^ 32 + m.acc * 2 ^ 16 + (s.ctx a).asid.toNat),
   BitVec.ofNat 64 (dieOf a.core), 0]

/-- A fault message (R314): FLAGS without PAIRED, which a member of a redundant pair sets. -/
def faultWords (s : State) (a : CtxId) (unit flags : Nat) (code : Byte) (info : W32) (addr : Dword) (epc : VAddr) : List Dword :=
  let c := s.ctx a
  let flags := flags + (if c.copy == .primary || c.copy == .shadow then 2 else 0)
  [addr, epc.setWidth 64, BitVec.ofNat 64 (reqHandle a unit 0 * 2 ^ 32 + flags * 2 ^ 24 + code.toNat * 2 ^ 16 + c.asid.toNat),
   BitVec.ofNat 64 (dieOf a.core * 2 ^ 32 + info.toNat)]

/-- The fault message of a stopped context; a rollback follows where a phase-structured context consumes an error, and where a gang's member
does so in a fetch (R314, R318, R330). -/
def faultMsg (s : State) (a : CtxId) : List Dword :=
  let c := s.ctx a
  let flags := (if (s.core a.core).parked = some a.ctx then 1 else 0)
    + (if s.phased a && (c.r.code = 0x17 || (c.r.code = 0x16 && s.inGang a)) then 4 else 0)
    + (if (c.r.code = 0x16 || c.r.code = 0x17) && c.perm then 8 else 0)
  faultWords s a 0 flags c.r.code c.r.info c.r.faddr c.r.epc

/-- Byte 18 of a message: 0 in a miss message (R314). -/
def isMissMsg (m : List Dword) : Bool := bits ((m.getD 2 0).toNat) 16 8 == 0

/-- Whether a mailbox has room for a message of its class: 1,024 of each (R314). -/
def Mailbox.room (b : Mailbox) (m : List Dword) : Bool := (b.msgs.countP fun x => isMissMsg x == isMissMsg m) < 1024

/-- Post a message of a unit of a context: it enters, or is held outside until an entry of its class frees, behind those held before it
(R314). -/
def postMsg (s : State) (who : CtxId) (unit : Nat) (t : CoreId) (m : List Dword) : State :=
  let b := (s.core t).mailbox
  let b := if b.room m && !(b.held.any fun x => isMissMsg x.2.2 == isMissMsg m) then { b with msgs := b.msgs ++ [m] }
    else { b with held := b.held ++ [(who, unit, m)] }
  let s := s.modCore t fun c => { c with mailbox := b }
  if t.kind = .service then s.bumpCluster t.idx (if isMissMsg m then 0x22 else 0x23) 1 else s

/-- The step in which a unit of a context goes on. -/
def unitDue (a : CtxId) (unit : Nat) : Option Due :=
  match unit % 16 with
  | 1 => some (.engine a.core a.ctx 0)
  | 2 => some (.engine a.core a.ctx 1)
  | 3 => (clusterOf a.core).map fun cl => .channel cl (unit / 16)
  | 4 => some (.engine a.core a.ctx 3)
  | _ => some (.engine a.core a.ctx 2)

/-- The first held message whose class has room enters, and the engine or channel that posted it goes on (R314). -/
def admitHeld (s : State) (t : CoreId) : State :=
  let b := (s.core t).mailbox
  match b.held.find? fun x => b.room x.2.2 with
  | some x =>
    let s := s.modCore t fun c => { c with mailbox := ⟨c.mailbox.msgs ++ [x.2.2], c.mailbox.held.erase x⟩ }
    if x.2.1 = 0 ∨ x.2.1 = 99 ∨ isMissMsg x.2.2 then s else match unitDue x.1 x.2.1 with | some d => s.due d | none => s
  | none => s

/-- Whether a mailbox holds outside it a fault message of a context (R314). -/
def ctxHeld (s : State) (a : CtxId) : Bool :=
  s.cores.any fun k => k.2.mailbox.held.any fun x => x.1 == a && x.2.1 == 0 && !isMissMsg x.2.2

/-- Whether one holds a fault message of a core's engine, or of one of its cluster's channels, by its unit number (R314). -/
def unitHeld (s : State) (c : CoreId) (unit : Nat) : Bool :=
  s.cores.any fun k => k.2.mailbox.held.any fun x =>
    x.2.1 == unit && (x.1.core == c || (unit % 16 == 3 && clusterOf x.1.core == clusterOf c)) && !isMissMsg x.2.2

/-- Where a core's messages go: its service core, or the boot core while that core's cluster is not ON (R50, R357). -/
def mailTo (s : State) (c : CoreId) : CoreId :=
  let t := mailboxOf c
  if t.kind = .service ∧ (s.cluster t.idx).gate ≠ .on then ⟨.boot, 0⟩ else t

/-- R314: A 32-byte fault message is taken whole into its mailbox target. -/
def execFaultMessage (core : CoreId) (ctx : Nat) (s : State) : Host.Outcome State Fault Refusal :=
  let a : CtxId := ⟨core, ctx⟩
  if (s.ctx a).msgDue then .next (postMsg (s.modCtx a fun c => { c with msgDue := false, perm := false }) a 0 (mailTo s core) (faultMsg s a))
  else .next s

/-- The message of an uncorrectable error that a unit of a context consumes. No fault has set TRAP.EPC for it: EPC is the register as it
stands (R314, log 71). -/
def postUnitFault (s : State) (a : CtxId) (unit : Nat) (perm : Bool) (info : W32) (addr : Dword) : State :=
  postMsg s a (if unit = 0 then 99 else unit) (mailTo s a.core) (faultWords s a unit (if perm then 8 else 0) 0x17 info addr (s.ctx a).r.epc)

/-- An uncorrectable error that an engine or a channel of a context consumes is counted, and its message posted (R191, R314, R318). -/
def unitFault (s : State) (a : CtxId) (unit : Nat) (loc : Nat) (addr : Dword) : State :=
  let was := (s.ctx a).perm
  let s := noteUncorr (s.modCtx a fun c => { c with perm := false }) a (some loc)
  let perm := (s.ctx a).perm
  postUnitFault (s.modCtx a fun c => { c with perm := was }) a unit perm (BitVec.ofNat 32 (memKind loc)) addr

/-- R225: A TLB miss message is taken whole into a mailbox. -/
def execMissMessage (core : CoreId) (ctx unit : Nat) (s : State) : Host.Outcome State Fault Refusal :=
  let a : CtxId := ⟨core, ctx⟩
  match (s.ctx a).misses.find? fun m => m.unit == unit && !m.posted with
  | none => .next s
  | some m =>
    let s' := s.modCtx a fun c => { c with misses := c.misses.map fun x => if x == m then { x with posted := true } else x }
    .next (postMsg s' a unit (mailTo s core) (missMsg s a m))

/-- A stage-2 fault record for a requester's miss (R230): the original VA, the guest-physical address, the ASID, CODE 0x12 or 0x13,
S1WALK with the ACC of the failing access (0 for a table read), and the requester's handle and die. -/
def stage2Msg (x : Stage2Fault) : List Dword :=
  let code := if x.perm then 0x13 else 0x12
  let flags := if x.walk then 1 else x.acc.toNat * 2
  [x.va.setWidth 64, x.gpa, BitVec.ofNat 64 (reqHandle ⟨x.core, x.ctx⟩ x.unit x.seq * 2 ^ 32 + flags * 2 ^ 24 + code * 2 ^ 16 + x.asid.toNat),
    BitVec.ofNat 64 (dieOf x.core)]

/-- R230: A stage-2 fault record is posted to the boot core; the requester keeps waiting. -/
def execStage2FaultRecord (x : Stage2Fault) (s : State) : Host.Outcome State Fault Refusal := .next (postMsg s ⟨x.core, x.ctx⟩ 99 ⟨.boot, 0⟩ (stage2Msg x))

/-- R314: A held message enters the mailbox when an entry frees. -/
def execMailboxHeldEntry (core : CoreId) (s : State) : Host.Outcome State Fault Refusal := .next (admitHeld s core)

/-- R315: Firmware removes the oldest mailbox message; a held one may enter. -/
def execMboxPop (core : CoreId) (s : State) : Host.Outcome State Fault Refusal :=
  .next ((s.modCore core fun c => { c with mailbox := { c.mailbox with msgs := c.mailbox.msgs.drop 1 } }).due
    (.mailboxHeldEntry core))

/-- Entries a core's TLB holds (R222); the boot and service cores as L1 (log 14). -/
def tlbSize : CoreKind → Nat | .l2 => 256 | .l3 => 256 | _ => 64

/-- Whether an entry's page overlaps the page of `shift` bits that holds `va` (R226, R233). -/
def TlbEntry.overlaps (t : TlbEntry) (asid va shift : Nat) : Bool :=
  t.asid == asid && (let m := max shift t.shift; t.page * 2 ^ t.shift / 2 ^ m == va / 2 ^ m)

def invalidate (p : TlbEntry → Bool) (t : Tlb) : Tlb :=
  { t with slots := t.slots.map fun e => if e.valid && p e then { e with valid := false } else e }

/-- Write an entry into the lowest invalid or expired slot, else at the round-robin pointer, which starts at 0 and advances when a write uses it
(R226; DESIGN CHOICE, log 101). -/
def tlbInsert (cap ticks : Nat) (e : TlbEntry) (t : Tlb) : Tlb :=
  match (List.range t.slots.length).find? fun i => match t.slots[i]? with | some x => !x.valid || x.expires ≤ ticks | none => false with
  | some i => { t with slots := t.slots.set i e }
  | none =>
    if t.slots.length < cap then { t with slots := t.slots ++ [e] }
    else { slots := t.slots.set t.next e, next := (t.next + 1) % cap }

/-- A lease that never ends: above L0 an entry lives until it is removed. -/
def noLease : Nat := 2 ^ 64

/-- Whether an entry serves only the access whose miss it answers (R231). -/
def leaseZero (k : CoreKind) (dat : Dword) : Bool := k == .l0 && bits dat.toNat 52 12 == 0

/-- The tick at which an entry's lease ends (R231). One with LEASE 0 serves the access it answers up to the bound of R232, and none where
it answers no outstanding miss. -/
def leaseEnd (s : State) (k : CoreKind) (dat : Dword) (answers : Bool) : Nat :=
  if leaseZero k dat then (if answers then s.ticks + s.dev.leaseMax.toNat + 32 else s.ticks)
  else if k = .l0 then s.ticks + min (bits dat.toNat 52 12 * 256) s.dev.leaseMax.toNat
  else noLease

/-- The target of a request handle: core, context and unit (R225, R226). -/
def reqTarget (req die : Nat) : CtxId × Nat :=
  (⟨coreAt (bits req 30 2) die (bits req 20 10), bits req 16 4⟩, bits req 12 4 + (if bits req 12 4 = 3 then 16 * bits req 8 4 else 0))

/-- The cores a firmware serves (R50, R315). -/
def serves (fw c : CoreId) : Bool := fw.kind == .boot || (fw.kind == .service && mailboxOf c == fw)

/-- Whether a handle's layer, die and LOCAL name a core (R17, R225). -/
def targetExists (req die : Nat) (c : CoreId) : Bool :=
  coreExists c && dieOf c == die && localOf c == bits req 20 10 && layerOf c.kind == bits req 30 2

/-- The checks of tlbw before its commit (R226). -/
def tlbwBody (e : Env) (s : State) : Act :=
  let sel := e.oldS.toNat
  let tag := e.srcS.toNat
  let dat := e.tsrcS.toNat
  let req := bits sel 0 32
  let fc := bits sel 32 8
  let die := bits sel 40 4
  let ill : Act := .trap ⟨0x01, 0, e.addr, false⟩
  if !isPriv e.kind then ill
  else if sel / 2 ^ 44 ≠ 0 ∨ 8 < die ∨ ¬ (fc = 0 ∨ fc = 0x10 ∨ fc = 0x11 ∨ fc = 0xFF) then ill
  else if bits req 12 4 = 15 ∧ fc ≠ 0 then ill
  else if bitOf tag 1 ∨ dat % 256 ≠ 0 then ill
  else
    let c := (reqTarget req die).1.core
    if !targetExists req die c || !serves e.at'.core c then .trap ⟨0x06, 0, 0, false⟩
    else .done (s.stage e.at' (.tlbw e.oldS e.srcS e.tsrcS))
/-- R226: Firmware answers a miss by installing an entry and resuming or faulting the requester. -/
def execTlbw (f : Fields) (s : State) : Host.Outcome State Fault Refusal := issue Forms.tlbwF f tlbwBody s

/-- End a command of an engine with a STATUS and a failing address (R180, R216). -/
def endCommand (p : Port) (st : Byte) (va : Dword) : Port :=
  match p.input with
  | [] => p
  | h :: t => { p with input := { h with begun := true, outcome := some (st, va) } :: t }

/-- The answer to a miss of a context's own access: a stalled context retries it or takes the fault when it issues; a fault that the
access half met is held with its instruction (R128, R226, R227). -/
def answerOwn (s : State) (a : CtxId) (m : Miss) (fc : Nat) : State :=
  let fault : Byte × W32 × Dword := (BitVec.ofNat 8 fc, BitVec.ofNat 32 m.acc, m.va.setWidth 64)
  match m.early with
  | some e => if fc = 0 then s else s.modCtx a fun c => { c with ahead := c.ahead ++ [⟨e.1, e.2, [], 0, some fault⟩] }
  | none =>
    if (s.ctx a).status = .waiting .miss then (s.modCtx a fun c => { c with pendFault := if fc = 0 then none else some fault }).wake a else s

/-- tlbw at commit (R226). -/
def tlbwCommit (s : State) (sel tag dat : Dword) : State :=
  let req := bits sel.toNat 0 32
  let fc := bits sel.toNat 32 8
  let tu := reqTarget req (bits sel.toNat 40 4)
  let a := tu.1
  let unit := tu.2
  let srcu := bits req 12 4
  let va := bits tag.toNat 4 44 * 2 ^ 12
  let sh := pageShift (bits tag.toNat 2 2)
  let miss := if srcu = 15 then none else (s.ctx a).misses.find? fun m => m.unit == unit && m.seq.toNat == req % 256
  let t : TlbEntry := { tag := tag, data := dat, valid := true, expires := leaseEnd s a.core.kind dat miss.isSome
                        once := if leaseZero a.core.kind dat then some (reqNo a unit) else none }
  let b := invalidate (fun t => t.overlaps (bits tag.toNat 48 16) va sh) (s.core a.core).tlb
  let b := tlbInsert (tlbSize a.core.kind) s.ticks t b
  let s := if fc = 0 ∧ bitOf tag.toNat 0 then s.modCore a.core fun c => { c with tlb := b } else s
  match miss with
  | none => s
  | some m =>
    let s := s.modCtx a fun c => { c with misses := c.misses.filter (· != m) }
    if fc = 0xFF then (match (s.ctx a).card with | some n => (s.modCard n fun k => { k with doomed := true }).due (.watchdogKill n) | none => s)
    else if unit = 0 then answerOwn s a m fc
    else
      let st : Byte := BitVec.ofNat 8 (fc - 0x0F)
      match srcu with
      | 3 =>
        (match clusterOf a.core with
        | some cl =>
          let ch := unit / 16
          let s := if fc = 0 then s else s.modChan cl ch fun x =>
            { x with active := x.active.map fun o => { o with cmd := { o.cmd with outcome := some (st, m.va.setWidth 64) } } }
          s.due (.channel cl ch)
        | none => s)
      | u =>
        let port := match u with | 1 => 0 | 2 => 1 | 4 => 3 | _ => 2
        let s := if fc = 0 then s else s.modPort a port fun p => endCommand p st (m.va.setWidth 64)
        s.due (.engine a.core a.ctx port)

/-- Whether a shoot-down's words name an entry (R233). -/
def shootHits (a b : Dword) (t : TlbEntry) : Bool :=
  match bits b.toNat 6 2 with
  | 0 => t.overlaps (bits b.toNat 48 16) (bits a.toNat 12 44 * 2 ^ 12) (pageShift (bits b.toNat 4 2))
  | 1 => t.asid == bits b.toNat 48 16
  | _ => true

/-- Whether a core is a target of a shoot-down from a firmware's core (R233). -/
def shootTarget (fw : CoreId) (tgt : Nat) (c : CoreId) : Bool :=
  match c.kind with
  | .l0 => bitOf tgt 0 && fw.kind == .service && clusterOf c == some fw.idx
  | .l1 => bitOf tgt 1 | .l2 => bitOf tgt 2 | .l3 => bitOf tgt 3
  | _ => false

/-- R233: Firmware shoot-down of TLB entries, waiting for every acknowledgement. A core the machine does not list holds
no entry and counts as acknowledged; so does one whose clock is gated (R234). -/
def tlbinvBody (e : Env) (s : State) : Act :=
  let a := e.srcS
  let b := e.tsrcS
  if !isPriv e.kind then .trap ⟨0x01, 0, e.addr, false⟩
  else if a.toNat % 4096 ≠ 0 ∨ a.toNat / 2 ^ 56 ≠ 0 ∨ bits b.toNat 8 40 ≠ 0 ∨ bits b.toNat 6 2 = 3 then
    .trap ⟨0x01, 0, e.addr, false⟩
  else if (s.ctx e.at').shot then .done (s.modCtx e.at' fun c => { c with shot := false })
  else
    let ts := (s.cores.map fun x => coreOfKey x.1).filter fun c =>
      shootTarget e.at'.core (b.toNat % 16) c && !(s.core c).gated
    let s := s.modCtx e.at' fun c => { c with shot := true }
    if ts = [] then .done (s.modCtx e.at' fun c => { c with shot := false })
    else .wait .shootdown (ts.foldl (fun s c =>
      (s.modCore c fun k => { k with shoot := k.shoot ++ [(e.at', a, b, false)] }).due (.shootdownMessage c)) s)
def execTlbinv (f : Fields) (s : State) : Host.Outcome State Fault Refusal := issue Forms.tlbinvF f tlbinvBody s

/-- An effect that accesses host-visible memory when it is performed. -/
def Effect.isHostAccess : Effect → Bool | .hostAmo _ _ _ _ _ _ _ => true | .hostStore _ _ => true | _ => false

/-- Whether a context's chunk holds an access that is still to be performed. -/
def Chunk.holds (c : Chunk) : Bool := c.stores != [] || c.effects.any Effect.isHostAccess

/-- R233: A shoot-down arrives at a core and removes matching entries; chunks that hold accesses are squashed, with those that commit
together with them, so that no access through a removed entry is still to be performed. -/
def execShootdownMessage (core : CoreId) (s : State) : Host.Outcome State Fault Refusal :=
  match (s.core core).shoot.find? fun x => !x.2.2.2 with
  | none => .next s
  | some x =>
    let s := s.modCore core fun c => { c with
      tlb := invalidate (shootHits x.2.1 x.2.2.1) c.tlb
      shoot := c.shoot.map fun y => if y == x then (y.1, y.2.1, y.2.2.1, true) else y }
    let s := (s.core core).ctxs.foldl (fun s k => if (s.ctx ⟨core, k.1⟩).chunk.holds then squashGroup s (commitGroup s ⟨core, k.1⟩) else s) s
    .next (s.due (.shootdownAck core))

/-- Whether a core may acknowledge a shoot-down: no access that used a removed entry waits in its export buffer (R233, R326). -/
def mayAck (s : State) (c : CoreId) : Bool := !((s.core c).exports.any fun x => x.fx.isHostAccess)

/-- R233: A core acknowledges a shoot-down once its accesses through removed entries are done. -/
def execShootdownAck (core : CoreId) (s : State) : Host.Outcome State Fault Refusal :=
  match (s.core core).shoot.find? fun x => x.2.2.2 with
  | none => .next s
  | some x => if mayAck s core then .next (s.modCore core fun c => { c with shoot := c.shoot.erase x }) else .next s

/-- R234: A gated upper core invalidates its TLB on waking. -/
def execWakeTlbInvalidate (core : CoreId) (s : State) : Host.Outcome State Fault Refusal :=
  .next (s.modCore core fun c => { c with tlb := invalidate (fun _ => true) c.tlb, gated := false })

/-- R231: An L0 TLB entry whose lease has ended is dropped; one whose lease runs stands. -/
def execLeaseExpiry (core : CoreId) (entry : Nat) (s : State) : Host.Outcome State Fault Refusal :=
  .next (s.modCore core fun c => { c with tlb := { c.tlb with
    slots := c.tlb.slots.modify entry fun t => if t.expires ≤ s.ticks then { t with valid := false } else t } })

end Sys2Proof.Machine
end

