-- ==== Sys2Proof/Machine/Writes.lean ====
section
/-! DEFINITION. Committed writes to memory by any party: the write signatures of R207, the journals of R323 and R327, and
the poison marks of R318; and the arrival counters of R255. -/

namespace Sys2Proof.Machine

/-- Record written lines at some homes for every other open chunk that has read one of those homes, and for a chunk that commits with the
writer's where it has read one ahead for a later chunk (R207, R291). -/
def recordWrites (s : State) (who : List CtxId) (homes sigs : List Nat) : State :=
  s.allCtxs.foldl (fun s b =>
    let c := (s.ctx b).chunk
    let early := (s.ctx b).ahead.flatMap Ahead.locs
    let hs := homes.filter fun h => (!who.contains b && c.rlines.any fun l => homeOf (l * 64) == h) || early.any fun l => homeOf l == h
    if (c.count = 0 ∧ early = []) ∨ hs = [] then s
    else s.modCtx b fun x => { x with chunk := { x.chunk with
      against := (x.chunk.against ++ hs.flatMap fun h => sigs.map fun g => (h, g)).dedup } }) s

/-- The eight bytes of a doubleword, and a little-endian number of w bytes. -/
def num8 (n : Nat) : List Byte := (List.range 8).map fun i => BitVec.ofNat 8 (n / 256 ^ i)
def numW (w n : Nat) : List Byte := (List.range w).map fun i => BitVec.ofNat 8 (n / 256 ^ i)

/-- The window address of a location of a TCM or a scratchpad (R196). -/
def windowOf (l : Nat) : Nat := tcmWindow + (if isSp l then 2 ^ 40 else 0) + l % 2 ^ 32

/-- The core whose journal takes a line of a TCM or a scratchpad (R323). -/
def journalCore (jc : CoreId) (l : Nat) : CoreId := if isTcm l then coreOfKey ((l - 2 ^ 53) / 2 ^ 32) else jc

/-- The journal a line goes to: 1 with a core's key, 3 an SRAM region or 4 an HBM region with its die (R323, R327). -/
def journalOf (jc : CoreId) (l : Nat) : Nat × Nat :=
  if isTcm l || isSp l then (1, (journalCore jc l).key)
  else if isSram l then (3, homeOf l) else (4, homeOf l)

/-- The die of a journal: its core's, or its region's. -/
def journalDie (j : Nat × Nat) : Nat := if j.1 = 1 then dieOf (coreOfKey j.2) else j.2

/-- Entries a journal holds: 448 of a core, 128-byte entries of a region (R323, R324). -/
def journalRoom (s : State) (j : Nat × Nat) : Nat :=
  match j.1 with
  | 1 => 448
  | 3 => bits (s.die j.2).jrnSram.toNat 0 17 * 2 ^ 13
  | _ => bits (s.die j.2).jrnHbm.toNat 0 17 * 2 ^ 13

/-- Entries in use in a journal, over every open epoch. -/
def journalUsed (s : State) (j : Nat × Nat) : Nat :=
  (s.doms.map fun d => d.2.journal.countP fun e => journalOf e.owner (e.line * 64) == j).sum

/-- Where the entries of a journal begin: the journal of an L0 core in its cluster's scratchpad, the regions of SRAM and HBM; none of a core
of another layer (R323, R324). -/
def journalBase (s : State) (j : Nat × Nat) : Option Nat :=
  match j.1 with
  | 1 => let c := coreOfKey j.2
         if c.kind = .l0 then some (spLoc (c.idx / 16) (0x380000 + 0x8000 * (c.idx % 16))) else none
  | 3 => some (sramLoc j.2 (bits (s.die j.2).jrnSram.toNat 20 17 * 2 ^ 20))
  | _ => some (j.2 * (80 * 2 ^ 30) + bits (s.die j.2).jrnHbm.toNat 20 17 * 2 ^ 20)

/-- Bytes of an entry (R323). -/
def entrySize (j : Nat × Nat) : Nat := if j.1 = 1 then 72 else 128

/-- The place of a journal's next entry: the first that no open epoch uses (R323; which, is the model's choice, log 86). -/
def entryPlace (s : State) (j : Nat × Nat) : Option Nat :=
  (journalBase s j).bind fun base =>
    let used := s.doms.flatMap fun d => d.2.journal.filterMap (·.loc)
    ((List.range (journalUsed s j + 1)).find? fun i => !used.contains (base + entrySize j * i)).map fun i => base + entrySize j * i

/-- An entry's bytes: the tag of its line, which is its address with the line's poison in bit 0, and the pre-image (R323; the tag's form is the
model's choice, log 86). -/
def entryBytes (s : State) (l : Nat) : List Byte :=
  num8 ((if isTcm (l * 64) || isSp (l * 64) then windowOf (l * 64) else l * 64) + (if s.poison.contains l then 1 else 0))
    ++ Memory.getBytes s.mem (l * 64) 64

/-- Put an entry into its journal's memory; in HBM its bytes count, and those of the pre-image read (R323, R378). -/
def putEntry (s : State) (l : Nat) (loc : Option Nat) : State :=
  let s' := s.noteHbm 0x41 ((List.range 64).map (l * 64 + ·))
  match loc with
  | none => s'
  | some p => ({ s' with mem := Memory.putBytes s.mem p (entryBytes s l) } : State).noteHbm 0x42 ((List.range 72).map (p + ·))

/-- Whether a location is journal memory: the top 512 KiB of a scratchpad or a region of R324 (R196, R323). -/
def isJournal (s : State) (l : Nat) : Bool := (isSp l && 0x380000 ≤ l % 2 ^ 32) || (decide (l < 2 ^ 52) && s.inJournal l)

/-- Record the pre-images of lines a domain has not yet journaled; the journal's INFO and the line where one overflows
(R323, R327). Host-visible memory is never journaled. -/
def journalLines (s : State) (d : Nat) (jc : CoreId) : List Nat → Except (Nat × Nat) State
  | [] => .ok s
  | l :: t =>
    if isHost (l * 64) || (s.dom d).journal.any (fun e => e.line == l) then journalLines s d jc t
    else
      let j := journalOf jc (l * 64)
      if journalRoom s j ≤ journalUsed s j then .error (j.1, l)
      else
        let e : JEntry := ⟨l, Memory.getBytes s.mem (l * 64) 64, s.poison.contains l, journalCore jc (l * 64), s.jseq, entryPlace s j⟩
        let s : State := { putEntry s l e.loc with jseq := s.jseq + 1 }
        journalLines ((s.modDom d fun x => { x with journal := x.journal ++ [e] }).bumpDie (journalDie j) 0x44 1) d jc t

/-- Lines of which every byte is written. -/
def wholeLines (locs : List Nat) : List Nat :=
  (linesOf locs).filter fun l => (List.range 64).all fun i => locs.contains (l * 64 + i)

/-- Put bytes into memory, counting nothing; a whole line written loses its poison, a partial write keeps it (R318). -/
def State.putSilent (s : State) (l : List (Nat × Byte)) : State :=
  let whole := if s.poison = [] then [] else wholeLines (l.map (·.1))
  let mem := l.foldl (fun (m : Memory) e => Memory.setByte m e.1 e.2) s.mem
  let poison := s.poison.filter fun x => !whole.contains x
  let own := ((l.map (·.1)).filter fun x => isTcm x || isSp x).map (· / 256)
  { s with mem := mem, poison := poison, dirty := if own = [] then s.dirty else (s.dirty ++ own).dedup }

/-- Put bytes into memory; those of each HBM stack count (R378). -/
def State.putBytes (s : State) (l : List (Nat × Byte)) : State := (s.putSilent l).noteHbm 0x42 (l.map (·.1))

/-- Mark the lines of a write poisoned (R318). -/
def State.poisonLines (s : State) (locs : List Nat) : State := { s with poison := (s.poison ++ linesOf locs).dedup }

/-- A superstep-too-large event: the domain rolls back and its control contexts stop (R327). -/
def tooLargeEvent (s : State) (d info : Nat) (who : Option (CtxId × VAddr)) : State :=
  if (s.dom d).tooLarge.isSome then s
  else (s.modDom d fun x => { x with tooLarge := some (BitVec.ofNat 32 info, who) }).due (.rollback d)

/-- A write for a context that is not one of its chunk's: journaled in a phase-structured card, recorded at its homes, and
put into memory; nothing is written where a journal would overflow. `who` is the instruction that makes it, if one does; the lines of
the locations `bad` are marked poisoned. -/
def applyWriteBy (who : Option (CtxId × VAddr)) (s : State) (a : CtxId) (l : List (Nat × Byte)) (bad : List Nat) : State :=
  let locs := l.map (·.1)
  let d := (s.ctx a).dom
  match (if s.phased a then journalLines s d a.core (linesOf locs) else .ok s) with
  | .error e => tooLargeEvent s d e.1 who
  | .ok s =>
    let s := recordWrites s [] ((locs.map homeOf).dedup) ((linesOf locs).map sigBit).dedup
    let s := s.putBytes l
    if bad = [] then s else s.poisonLines bad

/-- A write by an engine, a channel or a router (R323, R327). -/
def applyWrite (s : State) (a : CtxId) (l : List (Nat × Byte)) (bad : List Nat) : State := applyWriteBy none s a l bad

/-! The merge router of a redundant pair (R321). -/

/-- One bit of CRC-64, most significant bit first. -/
def crcBit (c : Nat) (b : Bool) : Nat :=
  let c' := c * 2 % 2 ^ 64
  if xor (bitOf c 63) b then c' ^^^ 0x42F0E1EBA9EA3693 else c'
/-- CRC-64 of a list of bytes, from 0. -/
def crc64 (l : List Byte) : Dword :=
  BitVec.ofNat 64 (l.foldl (fun c b => (List.range 8).foldl (fun c i => crcBit c (bitOf b.toNat (7 - i))) c) 0)

/-- The bytes of a list of byte writes: each one's address and value. -/
def writeImage (l : List (Nat × Byte)) : List Byte := l.flatMap fun e => num8 e.1 ++ [e.2]

/-- The primary member's context of a pair. -/
def primaryOf (s : State) (a : CtxId) : CtxId :=
  match (s.ctx a).copy, (s.ctx a).mate with
  | .shadow, some m => ⟨m, a.ctx⟩
  | _, _ => a

/-- The address of a location that a shared write names (R313). -/
def addrOf (l : Nat) : Dword := BitVec.ofNat 64 (if isHost l then l - hostBase else l)

/-- An effect of one member of a pair at the merge router: it waits for its partner's, and goes on once where the CRCs
agree; where they differ nothing of it leaves (R321, R322). -/
def mergeEffect (s : State) (a : CtxId) (chan : Nat) (target crc : Dword) (go : State → State) : State :=
  match (s.ctx a).mate with
  | none => go s
  | some m =>
    match s.merge.findIdx? fun x => x.who == ⟨m, a.ctx⟩ && x.chan == chan with
    | none => { s with merge := s.merge ++ [⟨a, chan, target, crc, false, false⟩] }
    | some i =>
      if (s.merge[i]?.map (·.crc)) = some crc then go { s with merge := s.merge.eraseIdx i }
      else ({ s with merge := s.merge.modify i fun x => { x with bad := true } } : State).due (.pairMismatch i)

/-- Whether a location is one of the two memories a pair's member keeps: its TCM and its cluster's scratchpad (R321). -/
def ownMemory (c : CoreId) (l : Nat) : Bool := isTcm l || (isSp l && clusterOf c == some ((l - 2 ^ 54) / 2 ^ 32))

/-- A write by an engine or a channel for a context (R191, R321); false where it waits, the unit with it: for a home that is reserved for a
running chunk (R207), or at the merge router until the partner's comes, so that what follows the write follows it (R284). -/
def unitWrite (s : State) (a : CtxId) (unit : Nat) (l : List (Nat × Byte)) (bad : List Nat) : State × Bool :=
  if s.reserved (l.map (·.1)) then ((match unitDue a unit with | some d => s.holdDue d | none => s), false)
  else match (s.ctx a).mate with
  | none => (applyWrite s a l bad, true)
  | some m =>
    let own := l.filter fun e => ownMemory a.core e.1
    let out := l.filter fun e => !ownMemory a.core e.1
    let put (s : State) : State := if own = [] then s else applyWrite s a own (bad.filter (ownMemory a.core))
    if out = [] then (put s, true)
    else match s.merge.findIdx? fun x => x.who == a && x.chan == unit with
      | some i => if s.merge.any fun x => x.who == a && x.chan == unit && x.passed then (put { s with merge := s.merge.eraseIdx i }, true) else (s, false)
      | none =>
        let b : CtxId := ⟨m, a.ctx⟩
        let crc := crc64 (writeImage out)
        match s.merge.findIdx? fun x => x.who == b && x.chan == unit && !x.passed with
        | none => ({ s with merge := s.merge ++ [⟨a, unit, addrOf ((out.map (·.1)).headD 0), crc, false, false⟩] }, false)
        | some i =>
          if (s.merge[i]?.map (·.crc)) = some crc then
            let s : State := { s with merge := s.merge.modify i fun x => { x with passed := true } }
            let s := put (applyWrite s (primaryOf s a) out (bad.filter fun l => !ownMemory a.core l))
            (match unitDue b unit with | some d => s.due d | none => s, true)
          else (({ s with merge := s.merge.modify i fun x => { x with bad := true } } : State).due (.pairMismatch i), false)

/-- Whether the write of a unit fits the journals. -/
def unitFits (s : State) (a : CtxId) (locs : List Nat) : Bool :=
  if s.phased a then (match journalLines s (s.ctx a).dom a.core (linesOf locs) with | .ok _ => true | .error _ => false) else true

/-- An error bit of a counter shows in the FLAGS of the card that holds the core (R67). -/
def noteErr (s : State) (c : CoreId) : State :=
  match (s.core c).ctxs.findSome? fun x => x.2.card with
  | some n => if (s.card n).flags.toNat / 2 % 2 = 1 then s else s.modCard n fun k => { k with flags := k.flags ||| 2 }
  | none => s

/-- A stalled wait whose condition first holds at an arrival keeps the counter's word of that moment (R257). -/
def Core.latched (k : Core) (n : Nat) : Core :=
  let x := SMap.read ⟨false, 0⟩ k.counters n
  { k with ctxs := k.ctxs.map fun c =>
      match c.2.status with
      | .waiting (.counter m t) =>
        if m == n && decide (t ≤ x.count.toNat) && c.2.waitWord.isNone then (c.1, { c.2 with waitWord := some (counterWord x) }) else c
      | _ => c }

/-- Count one arrival, saturating; an error sets ERR (R255). -/
def State.arrive (s : State) (c : CoreId) (n : Nat) (err : Bool) : State :=
  (if err then noteErr s c else s).modCore c fun k =>
    let x := SMap.read ⟨false, 0⟩ k.counters n
    { k with counters := SMap.put k.counters n ⟨x.err || err, if x.count = 0x7FFFFFFF#31 then x.count else x.count + 1⟩ }.latched n

/-- Set ERR of a counter without counting (R269). -/
def State.setErr (s : State) (c : CoreId) (n : Nat) : State :=
  (noteErr s c).modCore c fun k =>
    let x := SMap.read ⟨false, 0⟩ k.counters n
    { k with counters := SMap.put k.counters n ⟨true, x.count⟩ }

/-- Whether a core holds a context of a card (R212, R218). -/
def holdsCard (s : State) (c : CoreId) (card : Option Nat) : Bool :=
  (s.core c).ctxs.any fun x => x.2.card == card && x.2.status != .free

end Sys2Proof.Machine
end

