-- ==== Sys2Proof/Machine/Commands.lean ====
section
/-! DEFINITION. Page 2: the command builders, push with its check tables, slotld and cbload (R169 to R190, R211, R215,
R271, R272). -/

namespace Sys2Proof.Machine

/-- A field of a command: doubleword, low bit, width. -/
def cmdField (d : List Dword) (i lo w : Nat) : Nat := bits (d.getD i 0).toNat lo w

/-- The number of the first failing check, 0 if none. -/
def firstFail : List Bool → Nat
  | [] => 0
  | b :: t => if b then 1 else match firstFail t with | 0 => 0 | n + 1 => n + 2

/-- Whether any of some fields, each a doubleword, low bit and width, is nonzero. -/
def anySet (d : List Dword) (l : List (Nat × Nat × Nat)) : Bool := l.any fun x => cmdField d x.1 x.2.1 x.2.2 != 0
/-- Whether any of some fields is not a multiple of n. -/
def anyOdd (d : List Dword) (n : Nat) (l : List (Nat × Nat × Nat)) : Bool := l.any fun x => cmdField d x.1 x.2.1 x.2.2 % n != 0

def cmdOp (d : List Dword) : Nat := cmdField d 0 56 4
def cmdPair (d : List Dword) : Nat := cmdField d 0 51 5
def cmdValid (d : List Dword) : Nat := cmdField d 0 0 16
def cmdTag (d : List Dword) : Nat := cmdField d 0 16 16

/-- RND and OUTF of a pair (R178 check 4, R190 check 4). -/
def badRnd (d : List Dword) : Bool :=
  let rnd := cmdField d 0 48 3
  6 ≤ rnd || (Forms.pairInt (cmdPair d) && (rnd != 0 || cmdField d 0 45 1 != 0))

/-- R178. -/
def checkMatrix (d : List Dword) : Nat :=
  let op := cmdOp d
  let pair := cmdPair d
  let scl := cmdField d 0 43 2
  let kc := cmdField d 5 32 16
  let act := op < 2
  firstFail [
    cmdField d 0 60 4 != 0,
    3 ≤ op,
    anySet d [(0, 40, 3), (0, 32, 2), (1, 56, 8), (2, 56, 8), (3, 56, 8), (6, 56, 8), (7, 56, 8), (4, 0, 16), (5, 0, 16)]
      || (16 ≤ pair && pair < 20 && cmdField d 7 0 56 != 0),
    act && badRnd d,
    act && 20 ≤ pair,
    act && (scl == 3 || (scl != 0 && 11 ≤ pair && pair ≤ 15)),
    act && (kc == 0 || 256 < kc || 7 < cmdField d 5 48 8 || cmdField d 5 56 8 + 1 < cmdValid d || kc < cmdField d 5 16 16),
    act && (anyOdd d 8 [(1, 0, 56), (2, 0, 56), (3, 0, 56), (4, 48, 16), (4, 32, 16), (4, 16, 16)]
      || (scl == 2 && anyOdd d 4 [(6, 0, 56), (7, 0, 56)]))]

/-- R190. -/
def checkGather (d : List Dword) : Nat :=
  let op := cmdOp d
  let rowb := cmdField d 5 48 16
  let q := cmdField d 5 32 16
  firstFail [
    cmdField d 0 60 4 != 1,
    2 ≤ op,
    if op = 0 then anySet d [(0, 40, 16), (0, 32, 2), (1, 56, 8), (2, 56, 8), (3, 56, 8), (5, 32, 16), (6, 0, 64), (7, 0, 64)]
      else anySet d [(0, 43, 2), (0, 40, 3), (0, 32, 2), (1, 56, 8), (2, 56, 8), (3, 56, 8), (6, 56, 8), (4, 0, 16), (5, 48, 8), (7, 0, 32)],
    op == 1 && badRnd d,
    op == 1 && 20 ≤ cmdPair d,
    if op = 0 then rowb % 8 != 0 || rowb < 8 || 4096 < rowb else q == 0 || 16 < q || q < cmdValid d,
    anyOdd d 4 [(1, 0, 56)] ||
      (if op = 0 then anyOdd d 8 [(2, 0, 56), (3, 0, 56), (4, 32, 32), (4, 0, 32)]
       else anyOdd d 8 [(2, 0, 56), (3, 0, 56), (4, 48, 16), (4, 32, 16), (4, 16, 16), (6, 0, 56), (7, 32, 32)])]

/-- R272. -/
def checkCollective (d : List Dword) : Nat :=
  firstFail [
    cmdField d 0 60 4 != 2,
    cmdOp d != 0,
    anySet d [(0, 40, 11), (0, 32, 2), (1, 56, 8), (2, 56, 8), (3, 0, 32), (4, 0, 64), (5, 0, 64), (6, 0, 64), (7, 0, 64)],
    cmdField d 0 54 2 == 3,
    anyOdd d 4 [(1, 0, 56), (2, 0, 56), (3, 32, 32)]]

/-- R271. -/
def checkSparsifier (d : List Dword) : Nat :=
  firstFail [
    cmdField d 0 60 4 != 3,
    cmdOp d != 0,
    anySet d [(0, 40, 12), (0, 32, 2), (1, 56, 8), (2, 56, 8), (3, 0, 64), (4, 0, 64), (5, 0, 64), (6, 0, 64), (7, 0, 64)],
    6 ≤ cmdField d 0 53 3,
    anyOdd d 4 [(1, 0, 56), (2, 0, 56)]]

/-- R215, with the Reserved fields of R211. -/
def checkCopy (d : List Dword) : Nat :=
  let op := cmdOp d
  let rowb := cmdField d 4 32 32
  firstFail [
    cmdField d 0 60 4 != 4,
    3 ≤ op,
    anySet d [(0, 40, 7), (0, 32, 2), (1, 56, 8), (2, 56, 8), (6, 16, 48), (7, 0, 64)]
      || (op != 1 && anySet d [(0, 48, 8), (4, 0, 32)]) || (op == 2 && anySet d [(1, 0, 56), (3, 32, 32)])
      || (op != 2 && anySet d [(5, 0, 64)]),
    op == 1 && cmdField d 0 48 8 == 0,
    rowb % 4 != 0 || rowb == 0 || 1048576 < rowb,
    anyOdd d 4 [(1, 0, 56), (2, 0, 56), (3, 32, 32), (3, 0, 32), (4, 0, 32)]]

/-- The check table of a port's engine (R168). -/
def checkPort (p : Nat) (d : List Dword) : Nat :=
  match p with
  | 0 => checkMatrix d | 1 => checkGather d | 2 => checkCollective d | 3 => checkSparsifier d | _ => checkCopy d

/-- The depth of a context's input FIFO (R168, R271, R272). -/
def portDepth (p : Nat) : Nat := match p with | 0 => 8 | 1 => 4 | 2 => 4 | 3 => 4 | _ => 1

/-- Whether a context's input FIFO at a port has room (R171, R210). -/
def hasRoom (s : State) (a : CtxId) (p : Nat) : Bool :=
  if p < 8 then ((s.ctx a).port p).input.length < portDepth p
  else match clusterOf a.core with
    | none => true
    | some cl => !((s.cluster cl).chans.any fun x => x.2.waiting.any fun o => o.owner == a && o.port == p)

/-- The four doublewords of a 256-bit register. -/
def dwordsOf (v : Vec) : List Dword := (List.range 4).map fun i => BitVec.ofNat 64 (elem 64 v i)
def ofDwords (l : List Dword) : Vec := packV 64 (l.map (·.toNat))

/-- R171: Enter a 64-byte command from a vector pair into an engine port, checked, waiting for room. -/
def pushBody (e : Env) (s : State) : Act :=
  let p := e.f.dstN
  let d := dwordsOf e.pairA ++ dwordsOf e.pairB
  if !hasRoom s e.at' p then .wait (.room p) s
  else
    let n := checkPort p d
    if n ≠ 0 then .trap ⟨0x0C, BitVec.ofNat 32 n, e.addr, false⟩ else .done (s.stage e.at' (.push p d))
def execPush (f : Fields) (s : State) : Host.Outcome State Fault Refusal := issue Forms.pushF f pushBody s

/-- R184: Stage new matrix slot owners and slot length for the next rotation. -/
def slotldBody (e : Env) (s : State) : Act := .done (s.stage e.at' (.slotld e.srcS e.immU))
def execSlotld (f : Fields) (s : State) : Host.Outcome State Fault Refusal := issue Forms.slotldF f slotldBody s

/-- R186: Enqueue a matrix codebook replacement to the matrix queue. -/
def cbloadBody (e : Env) (s : State) : Act :=
  if !hasRoom s e.at' 0 then .wait (.room 0) s
  else .done (s.stage e.at' (.codebook (BitVec.ofNat 256 e.srcV.toNat)))
def execCbload (f : Fields) (s : State) : Host.Outcome State Fault Refusal := issue Forms.cbloadF f cbloadBody s

/-- The pair a builder works on, as eight doublewords (R174). -/
def Env.pairDwords (e : Env) : List Dword := dwordsOf (e.r.rdV e.f.dstN) ++ dwordsOf (e.r.rdV (e.f.dstN + 1))
/-- Write a pair of eight doublewords. -/
def Env.putPair (e : Env) (d : List Dword) : RegState :=
  (e.r.wrV e.f.dstN (ofDwords (d.take 4))).wrV (e.f.dstN + 1) (ofDwords (d.drop 4))
/-- DW0 of a new command: the source with bits 63:56 replaced by ENG and op. -/
def Env.header (e : Env) (eng op : Nat) : Dword := BitVec.ofNat 64 (e.srcS.toNat % 2 ^ 56 + op * 2 ^ 56 + eng * 2 ^ 60)
/-- The other seven doublewords of a new command. -/
def noDwords : List Dword := List.replicate 7 0

/-- R174: Start a matrix command in a vector pair. -/
def mcmdRegs (e : Env) : RegState := e.putPair (e.header 0 e.immU :: noDwords)
def execMcmd (f : Fields) (s : State) : Host.Outcome State Fault Refusal := issueRegs Forms.build f mcmdRegs s

/-- R174: Start a gather command in a vector pair. -/
def gcmdRegs (e : Env) : RegState := e.putPair (e.header 1 e.immU :: noDwords)
def execGcmd (f : Fields) (s : State) : Host.Outcome State Fault Refusal := issueRegs Forms.build f gcmdRegs s

/-- R174: Start a copy-channel command in a vector pair. -/
def xcmdRegs (e : Env) : RegState := e.putPair (e.header 4 e.immU :: noDwords)
def execXcmd (f : Fields) (s : State) : Host.Outcome State Fault Refusal := issueRegs Forms.build f xcmdRegs s

/-- R174: Start a collective-engine command in a vector pair. -/
def scmdRegs (e : Env) : RegState := e.putPair (e.header 2 e.immU :: noDwords)
def execScmd (f : Fields) (s : State) : Host.Outcome State Fault Refusal := issueRegs Forms.build f scmdRegs s

/-- R174: Start a sparsifier command in a vector pair. -/
def ccmdRegs (e : Env) : RegState := e.putPair (e.header 3 e.immU :: noDwords)
def execCcmd (f : Fields) (s : State) : Host.Outcome State Fault Refusal := issueRegs Forms.build f ccmdRegs s

/-- R174: Write one doubleword of a command pair. -/
def cmdsetRegs (e : Env) : RegState := e.putPair (e.pairDwords.set e.f.aux.toNat e.srcS)
def execCmdset (f : Fields) (s : State) : Host.Outcome State Fault Refusal := issueRegs Forms.cmdsetF f cmdsetRegs s

/-- R174: Write the VALID field of a command. -/
def cmdvcRegs (e : Env) : RegState :=
  let x := (e.pairDwords.getD 0 0).toNat
  e.putPair (e.pairDwords.set 0 (BitVec.ofNat 64 (x / 2 ^ 16 * 2 ^ 16 + e.srcS.toNat % 2 ^ 16)))
def execCmdvc (f : Fields) (s : State) : Host.Outcome State Fault Refusal := issueRegs Forms.cmdvcF f cmdvcRegs s

/-- R174: Write the address bits of a command doubleword. -/
def cmdadrRegs (e : Env) : RegState :=
  let x := (e.pairDwords.getD e.f.aux.toNat 0).toNat
  e.putPair (e.pairDwords.set e.f.aux.toNat (BitVec.ofNat 64 (x / 2 ^ 56 * 2 ^ 56 + e.srcS.toNat % 2 ^ 56)))
def execCmdadr (f : Fields) (s : State) : Host.Outcome State Fault Refusal := issueRegs Forms.cmdadrF f cmdadrRegs s

/-- R174: Start a matrix multiply with pair code, RND and SAT in DW0. -/
def mmaRegs (pair : Nat) (e : Env) : RegState :=
  let e := { e with r := e.r.drew e.f }
  let x := (e.header 0 0).toNat
  let v := pair * 2 ^ 4 + e.f.rnd * 2 + (if e.f.sat then 1 else 0)
  e.putPair (BitVec.ofNat 64 (x / 2 ^ 56 * 2 ^ 56 + v * 2 ^ 47 + x % 2 ^ 47) :: noDwords)
def execMma (pair : BitVec 5) (f : Fields) (s : State) : Host.Outcome State Fault Refusal :=
  issueRegs (Forms.mmaF pair.toNat) f (mmaRegs pair.toNat) s

end Sys2Proof.Machine
end

