-- ==== Sys2Proof/Machine/Engines.lean ====
section
/-! DEFINITION. The matrix unit, the gather engine, the collective engine and the sparsifier at work, and completions
(R170, R177, R179 to R191, R271, R272, R318). A step does one unit of restart of the head command: a row, a chunk's worth,
a block or a run; the completion is a step of its own. -/

namespace Sys2Proof.Machine

/-- A command as it enters a queue, with what is snapshot at its push (R171). -/
def newCommand (s : State) (a : CtxId) (d : List Dword) : Command :=
  { dw := d, seed := (s.ctx a).r.mxSeed, superstep := (s.dom (s.ctx a).dom).superstep, codebook := (s.ctx a).r.mxCb,
    isCodebook := false, begun := false, prog := 0, outcome := none, done := 0, flg := 0, err := 0, errVa := 0 }

/-- A cbload item (R186). -/
def codebookCommand (x : BitVec 256) : Command :=
  { dw := [], seed := 0, superstep := 0, codebook := Vector.ofFn fun i => BitVec.ofNat 64 (bits x.toNat (64 * i.val) 64),
    isCodebook := true, begun := false, prog := 0, outcome := none, done := 0, flg := 0, err := 0, errVa := 0 }

/-- The unit number of a port's engine in a miss message (R225). -/
def portUnit (p : Nat) : Nat := match p with | 0 => 1 | 1 => 2 | 2 => 5 | 3 => 4 | c => 3 + 16 * (c - 8)

/-- The head command of a context's queue, where it can go on: its end is not reached, it waits for no translation, and no message that its
engine posted is held (R314). -/
def headOf (s : State) (a : CtxId) (p : Nat) : Option Command :=
  match ((s.ctx a).port p).input with
  | [] => none
  | h :: _ => if h.outcome.isNone && !((s.ctx a).misses.any fun m => m.unit == portUnit p) && !unitHeld s a.core (portUnit p) then some h else none

def State.setHead (s : State) (a : CtxId) (p : Nat) (h : Command) : State :=
  s.modPort a p fun q => { q with input := h :: q.input.drop 1 }

/-- The end of a command: its first error, or done (R170). -/
def Command.finish (h : Command) : Command := { h with begun := true, outcome := some (h.err, h.errVa) }
/-- The end with a STATUS that stops it; one that has consumed an uncorrectable error ends with STATUS 0x05 (R318). -/
def Command.stop (h : Command) (st : Byte) (va : Dword) : Command :=
  { h with begun := true, outcome := some (if h.err = 5 then (5, h.errVa) else (st, va)) }
/-- An error that does not stop the command; the first one stays. -/
def Command.note (h : Command) (st : Byte) (va : Dword) : Command := if h.err = 0 then { h with err := st, errVa := va } else h

/-- FLG of a completion element: SAT, NX, UF, OF, NV (R170). -/
def flgOf (fl : Nat) : Byte :=
  BitVec.ofNat 8 ((if bitOf fl 5 then 16 else 0) + (if bitOf fl 0 then 8 else 0) + (if bitOf fl 1 then 4 else 0)
    + (if bitOf fl 2 then 2 else 0) + (if bitOf fl 4 then 1 else 0))

/-- Why a unit's access fails: a miss, or a STATUS with its address (R170, R180, R216). -/
inductive Blocked where
  | miss (va : VAddr) (acc : Nat)
  | status (st : Byte) (va : Dword)
  deriving DecidableEq, Repr

/-- The locations of a list of accesses, each an access kind and its addresses, in order. -/
def reachRuns (s : State) (a : CtxId) (unit : Nat) : List (Nat × List Dword) → Except Blocked (List (List Nat))
  | [] => .ok []
  | (acc, vas) :: t =>
    match reachEach s a unit acc false vas with
    | .ok l => (reachRuns s a unit t).map (l :: ·)
    | .error (.miss va) => .error (.miss va acc)
    | .error (.trap _ _ va) => .error (.status 2 va)
    | .error (.loc _) => .error (.status 2 0)

/-- A little-endian number of committed bytes. -/
def State.number (s : State) : List Nat → Nat
  | [] => 0
  | l :: t => (Memory.byte s.mem l).toNat + 256 * s.number t

/-- Consume poisoned data in a unit: the command will complete with STATUS 0x05, and each line that it consumes is an error, counted and
reported (R191, R318). -/
def consumeUnit (s : State) (a : CtxId) (unit : Nat) (h : Command) (bad : List (Nat × Dword)) : State × Command :=
  match bad with
  | [] => (s, h)
  | (l, va) :: t =>
    if h.hurt.contains (l / 64) then consumeUnit s a unit h t
    else
      let n := if h.err = 5 then h else { h with err := 5, errVa := va }
      consumeUnit (unitFault s a unit l va) a unit { n with hurt := h.hurt ++ [l / 64], outcome := n.outcome.map fun _ => (n.err, n.errVa) } t

/-- The poisoned bytes among some accesses, with their addresses. -/
def poisonIn (s : State) (l : List (Nat × Dword)) : List (Nat × Dword) :=
  if s.poison = [] then [] else l.filter fun e => s.poison.contains (e.1 / 64)

/-- Locations of a result that derive from poisoned data (R318): all of `dst` where any of `src` is poisoned. -/
def tainted (s : State) (src dst : List Nat) : List Nat :=
  if s.poison = [] then [] else if src.any fun l => s.poison.contains (l / 64) then dst else []

/-- Run one unit of the head command: translate its accesses, pausing at a miss; then write and go on (R179, R180). `work` gives the
bytes to write, the locations that derive from poisoned data, and the command after it; `ev` is the event of a unit that begins. -/
def runUnit (s : State) (a : CtxId) (p : Nat) (h : Command) (ev : Option Nat) (runs : List (Nat × List Dword))
    (work : List (List Nat) → List (Nat × Byte) × List Nat × Command) : State :=
  match reachRuns s a (portUnit p) runs with
  | .error (.miss va acc) => sendMiss (s.setHead a p { h with begun := true }) a (portUnit p) acc va
  | .error (.status st va) => (s.setHead a p (h.stop st va)).due (.completion a.core a.ctx p)
  | .ok ls =>
    let w := work ls
    let reads := ((ls.zip runs).filter fun x => x.2.1 != 1).flatMap fun x => x.1.zip x.2.2
    let bad := poisonIn s reads
    if !unitFits s a (w.1.map (·.1)) then applyWrite s a w.1 []
    else
      let x := unitWrite s a (portUnit p) w.1 w.2.1
      if !x.2 then x.1.setHead a p { h with begun := true }
      else
        let s := match ev with | some e => x.1.bump a e | none => x.1
        let c := consumeUnit (s.noteHbm 0x41 (reads.map (·.1))) a (portUnit p) w.2.2 bad
        let s := (c.1.useOnce a (portUnit p)).setHead a p c.2
        if c.2.outcome.isSome then s.due (.completion a.core a.ctx p) else s.due (.engine a.core a.ctx p)

/-- A command that is over once its last unit is done. -/
def Command.upTo (h : Command) (n : Nat) : Command := if n ≤ h.prog then h.finish else { h with begun := true }

/-- The rows, elements or blocks of a command that has none to do. -/
def beginEmpty (s : State) (a : CtxId) (p : Nat) (h : Command) : State :=
  (s.setHead a p h.finish).due (.completion a.core a.ctx p)

/-! The matrix unit. -/

def dwAddr (d : List Dword) (i : Nat) : Dword := BitVec.ofNat 64 (cmdField d i 0 56)
def off (a : Dword) (n : Nat) : Dword := a + BitVec.ofNat 64 n

/-- A row of C: its element's format width in bytes. -/
def outBytes (d : List Dword) : Nat := if cmdField d 0 45 1 = 1 then 2 else 4

/-- The sum of an element's addend and partials, written back (R147 step 4, R148, R149, R177). -/
def writeBack (d : List Dword) (h : Command) (i j : Nat) (c : Option Nat) (parts : List (Option Coded)) (isum : Int) : Coded :=
  if Forms.pairInt (cmdPair d) then
    writebackInt32 (cmdField d 0 47 1 == 1) ((match c with | some x => sintOf 32 x | none => 0) + isum)
  else
    let F := if outBytes d = 2 then FloatFmt.bf16 else FloatFmt.fp32
    let rb := (rbits h.seed h.superstep (BitVec.ofNat 32 (cmdTag d * 2 ^ 16 + i % 2 ^ 16)) (BitVec.ofNat 32 j)).toNat
    let mode := modeOf (cmdField d 0 48 3) .nearest rb
    let sat := cmdField d 0 47 1 == 1
    match c, tsum (node32 .nearest) parts with
    | none, none => ⟨0, 0⟩
    | some x, none => F.convert mode sat (F.decode x)
    | none, some t => let r := F.convert mode sat (FloatFmt.fp32.decode t.code); ⟨r.code, r.flags ||| t.flags⟩
    | some x, some t =>
      let v := addExact mode (F.decode x) (FloatFmt.fp32.decode t.code)
      let r := F.convert mode sat v.val
      ⟨r.code, r.flags ||| v.flags ||| t.flags⟩

/-- One element's chunk: a partial of R177, unscaled or scaled, or its exact integer sum. -/
def chunkPart (cb : Vector Dword 4) (d : List Dword) (a b : List Nat) (sa sb : Val) : Coded :=
  scaledBlock (products cb (pairFmts (cmdPair d)).1 (pairFmts (cmdPair d)).2 a b) sa sb

/-- The accesses of row i of a matrix multiply: A, each k-row of B, the scales of A and of B for each chunk, and C (R176, R179). -/
def matrixRuns (d : List Dword) (i : Nat) : List (Nat × List Dword) :=
  let fm := pairFmts (cmdPair d)
  let vk := cmdField d 5 16 16
  let kc := cmdField d 5 32 16
  let n := 32 * (cmdField d 5 48 8 + 1)
  let scl := cmdField d 0 43 2
  let sz := if scl = 1 then 1 else 4
  let pair := cmdPair d
  let aS := scl ≠ 0 && (pair ≤ 10 || 16 ≤ pair)
  let bS := scl ≠ 0 && pair ≤ 10
  [(0, span (off (dwAddr d 1) (i * cmdField d 4 48 16)) (4 * vk * fm.1.width)),
   (0, (List.range (32 * vk)).flatMap fun k => span (off (dwAddr d 2) (k * cmdField d 4 32 16)) (n * fm.2.width / 8)),
   (0, if aS then span (off (dwAddr d 6) (i * kc * sz)) (vk * sz) else []),
   (0, if bS then span (dwAddr d 7) (vk * n * sz) else []),
   (if cmdField d 0 46 1 = 1 then 3 else 1, span (off (dwAddr d 3) (i * cmdField d 4 16 16)) (n * outBytes d))]

/-- The elements of row i of C (R177). -/
def matrixRow (s : State) (d : List Dword) (h : Command) (cb : Vector Dword 4) (i : Nat) (ls : List (List Nat)) : List Coded :=
  let fm := pairFmts (cmdPair d)
  let vk := cmdField d 5 16 16
  let n := 32 * (cmdField d 5 48 8 + 1)
  let scl := cmdField d 0 43 2
  let sz := if scl = 1 then 1 else 4
  let ra := s.number (ls.getD 0 [])
  let rb := s.number (ls.getD 1 [])
  let sa := s.number (ls.getD 2 [])
  let sb := s.number (ls.getD 3 [])
  let rc := s.number (ls.getD 4 [])
  let w := n * fm.2.width / 8 * 8
  let aK (k : Nat) := bits ra (fm.1.width * k) fm.1.width
  let bK (k j : Nat) := bits rb (w * k + fm.2.width * j) fm.2.width
  let scale (have' : Bool) (x at' : Nat) : Val := if have' then scaleVal scl (bits x (8 * sz * at') (8 * sz)) else .fin false 1 0
  (List.range n).map fun j =>
    let a (q : Nat) := (List.range 32).map fun t => aK (32 * q + t)
    let b (q : Nat) := (List.range 32).map fun t => bK (32 * q + t) j
    let c := if cmdField d 0 46 1 = 1 then some (bits rc (8 * outBytes d * j) (8 * outBytes d)) else none
    if Forms.pairInt (cmdPair d) then
      writeBack d h i j c [] (((List.range vk).map fun q => intDot fm.1 fm.2 (a q) (b q)).sum)
    else
      writeBack d h i j c ((List.range vk).map fun q => some (chunkPart cb d (a q) (b q)
        (scale (ls.getD 2 [] != []) sa q) (scale (ls.getD 3 [] != []) sb (q * n + j)))) 0

/-- The bytes of a list of codes at some locations. -/
def codedBytes (locs : List Nat) (w : Nat) (l : List Nat) : List (Nat × Byte) :=
  locs.zip ((l.flatMap fun x => (List.range w).map fun i => BitVec.ofNat 8 (x / 256 ^ i)))

/-- One row of a matrix command is done. -/
def rowDone (h : Command) (d : List Dword) (fl : Nat) : Command :=
  ({ h with prog := h.prog + 1, done := h.done + 1, flg := h.flg ||| flgOf fl }).upTo (cmdValid d)

/-- The bytes of a row of C that derive from poisoned data: the row of A and its scales reach every element; a column of B, its scales and an
addend reach their own (R318). -/
def matrixTaint (s : State) (d : List Dword) (ls : List (List Nat)) : List Nat :=
  if s.poison = [] then []
  else
    let w := (pairFmts (cmdPair d)).2.width
    let vk := cmdField d 5 16 16
    let n := 32 * (cmdField d 5 48 8 + 1)
    let sz := if cmdField d 0 43 2 = 1 then 1 else 4
    let c := ls.getD 4 []
    let ob := outBytes d
    (List.range n).flatMap fun j =>
      let own := (c.drop (ob * j)).take ob
      let col := (List.range (32 * vk)).flatMap fun k => ((ls.getD 1 []).drop (n * w / 8 * k + w * j / 8)).take (max 1 (w / 8))
      let sc := (List.range vk).flatMap fun q => ((ls.getD 3 []).drop (sz * (q * n + j))).take sz
      tainted s (ls.getD 0 [] ++ ls.getD 2 [] ++ col ++ sc ++ (if cmdField d 0 46 1 = 1 then own else [])) own

/-- R177: Matrix command OP 0 computes and writes C row by row. -/
def execMatrixMul (core : CoreId) (ctx : Nat) (s : State) : Host.Outcome State Fault Refusal :=
  let a : CtxId := ⟨core, ctx⟩
  match headOf s a 0 with
  | none => .next s
  | some h =>
    let d := h.dw
    if h.isCodebook ∨ cmdOp d ≠ 0 then .next s
    else if cmdValid d ≤ h.prog then .next (beginEmpty s a 0 h)
    else
      let cb := (s.ctx a).r.mxCb
      .next (runUnit s a 0 h (some 0x09) (matrixRuns d h.prog) fun ls =>
        let row := matrixRow s d h cb h.prog ls
        (codedBytes (ls.getD 4 []) (outBytes d) (row.map (·.code)), matrixTaint s d ls, rowDone h d (orFlags row)))

/-- R177: Matrix command OP 1 clears rows of C. -/
def execMatrixClear (core : CoreId) (ctx : Nat) (s : State) : Host.Outcome State Fault Refusal :=
  let a : CtxId := ⟨core, ctx⟩
  match headOf s a 0 with
  | none => .next s
  | some h =>
    let d := h.dw
    if h.isCodebook ∨ cmdOp d ≠ 1 then .next s
    else if cmdValid d ≤ h.prog then .next (beginEmpty s a 0 h)
    else
      let n := 32 * (cmdField d 5 48 8 + 1)
      .next (runUnit s a 0 h (some 0x09) [(1, span (off (dwAddr d 3) (h.prog * cmdField d 4 16 16)) (n * outBytes d))] fun ls =>
        ((ls.getD 0 []).map fun l => (l, (0 : Byte)), [], rowDone h d 0))

/-- R177: Matrix command OP 2 completes in queue order writing nothing. -/
def execMatrixMarker (core : CoreId) (ctx : Nat) (s : State) : Host.Outcome State Fault Refusal :=
  let a : CtxId := ⟨core, ctx⟩
  match headOf s a 0 with
  | none => .next s
  | some h => if h.isCodebook ∨ cmdOp h.dw ≠ 2 then .next s else .next (beginEmpty s a 0 h)

/-- R186: A cbload item reaching the queue head replaces the matrix codebook. -/
def execCodebookItem (core : CoreId) (ctx : Nat) (s : State) : Host.Outcome State Fault Refusal :=
  let a : CtxId := ⟨core, ctx⟩
  match headOf s a 0 with
  | none => .next s
  | some h =>
    if h.isCodebook then
      let s := s.modCtx a fun c => { c with r := { c.r with mxCb := h.codebook } }
      let s := s.modPort a 0 fun q => { q with input := q.input.drop 1 }
      .next (if ((s.ctx a).port 0).input = [] then s else s.due (.engine core ctx 0))
    else .next s

/-! The gather engine. -/

/-- R187: Gather command OP 0 copies rows named by an index array. -/
def execGather (core : CoreId) (ctx : Nat) (s : State) : Host.Outcome State Fault Refusal :=
  let a : CtxId := ⟨core, ctx⟩
  match headOf s a 1 with
  | none => .next s
  | some h =>
    let d := h.dw
    if cmdOp d ≠ 0 then .next s
    else if cmdValid d ≤ h.prog then .next (beginEmpty s a 1 h)
    else
      let ix := span (off (dwAddr d 1) (4 * h.prog)) 4
      match reachEach s a 2 0 false ix with
      | .error _ => .next (runUnit s a 1 h none [(0, ix)] fun _ => ([], [], h))
      | .ok il =>
        let idx := s.number il
        let h' := { h with prog := h.prog + 1 }
        if cmdField d 5 0 32 ≤ idx then
          .next (runUnit s a 1 h none [(0, ix)] fun _ => ([], [], (h'.note 3 (BitVec.ofNat 64 idx)).upTo (cmdValid d)))
        else
          let n := cmdField d 5 48 16
          .next (runUnit s a 1 h none [(0, ix), (0, span (off (dwAddr d 2) (idx * cmdField d 4 32 32)) n),
              (1, span (off (dwAddr d 3) (h.prog * cmdField d 4 0 32)) n)] fun ls =>
            ((ls.getD 2 []).zip ((ls.getD 1 []).map fun l => Memory.byte s.mem l),
             tainted s il (ls.getD 2 []) ++ ((ls.getD 1 []).zip (ls.getD 2 [])).flatMap fun x => tainted s [x.1] [x.2],
             ({ h' with done := h.done + 1 }).upTo (cmdValid d)))

/-- The rows of C of a fused gather: MM1 is 0 to 15, and one of 16 to 255, which no check refuses, is taken as it stands (DESIGN CHOICE,
log 9). -/
def gmulRows (d : List Dword) : Nat := cmdField d 5 56 8 + 1

/-- The partial of chunk q for element (i, j) from the bits of its parts of A and B, or its integer sum (R177, R188). -/
def gmulPart (h : Command) (i j : Nat) (x : Nat × Nat × Nat) : Coded × Int :=
  let d := h.dw
  let fm := pairFmts (cmdPair d)
  let a := (List.range 32).map fun t => bits x.2.1 (32 * fm.1.width * i + fm.1.width * t) fm.1.width
  let b := (List.range 32).map fun t => bits x.2.2 (32 * fm.2.width * t + fm.2.width * j) fm.2.width
  if Forms.pairInt (cmdPair d) then (⟨0, 0⟩, intDot fm.1 fm.2 a b)
  else (chunkPart h.codebook d a b (.fin false 1 0) (.fin false 1 0), 0)

/-- An element of a fused gather from the partials of its chunks, those beyond LIMIT absent (R188). -/
def gmulElem (h : Command) (c : Option Nat) (i j : Nat) : Coded :=
  let ps := h.chunks.map fun x => (x.1, gmulPart h i j x)
  writeBack h.dw h i j c ((List.range (cmdValid h.dw)).map fun q => (ps.find? fun p => p.1 == q).map (·.2.1)) ((ps.map (·.2.2)).sum)

/-- Whether a context's fused gather waits for the matrix unit with a chunk (R188). -/
def gmulWaits (s : State) (a : CtxId) : Bool := (headOf s a 1).any fun h => h.slot

/-- The next chunk of a fused gather is gathered, translated first; one whose index is at or above LIMIT is absent (R188). -/
def gmulGather (s : State) (a : CtxId) (h : Command) : State :=
  let d := h.dw
  let fm := pairFmts (cmdPair d)
  let m := gmulRows d
  let ix := span (off (dwAddr d 1) (4 * h.prog)) 4
  match reachEach s a 2 0 false ix with
  | .error _ => runUnit s a 1 h none [(0, ix)] fun _ => ([], [], h)
  | .ok il =>
    let idx := s.number il
    if cmdField d 5 0 32 ≤ idx then
      runUnit s a 1 h none [(0, ix)] fun _ => ([], [], { h with begun := true, prog := h.prog + 1 }.note 3 (BitVec.ofNat 64 idx))
    else
      let wa := 4 * fm.1.width
      let wb := 4 * fm.2.width
      let runs : List (Nat × List Dword) :=
        [(0, ix), (0, (List.range m).flatMap fun i => span (off (dwAddr d 6) (i * cmdField d 4 48 16 + wa * h.prog)) wa),
         (0, (List.range 32).flatMap fun t => span (off (dwAddr d 2) (idx * cmdField d 7 32 32 + t * cmdField d 4 32 16)) wb)]
      let t := runUnit s a 1 h none runs fun ls =>
        let bad := if s.poison = [] then [] else (List.range m).flatMap fun i => (List.range 32).filterMap fun j =>
          let row := ((ls.getD 1 []).drop (wa * i)).take wa
          let col := (List.range 32).flatMap fun t => ((ls.getD 2 []).drop (wb * t + fm.2.width * j / 8)).take (max 1 (fm.2.width / 8))
          if (il ++ row ++ col).any fun l => s.poison.contains (l / 64) then some (32 * i + j) else none
        ([], [], { h with begun := true, slot := true, taint := h.taint ++ bad
                          chunks := h.chunks ++ [(h.prog, s.number (ls.getD 1 []), s.number (ls.getD 2 []))] })
      if gmulWaits t a then t.due (.engine a.core a.ctx 0) else t

/-- C of a fused gather is written once, after its last node (R188). -/
def gmulWrite (s : State) (a : CtxId) (h : Command) : State :=
  let d := h.dw
  let m := gmulRows d
  let acc := cmdField d 0 46 1 = 1
  let ob := outBytes d
  runUnit s a 1 h none [(if acc then 3 else 1, (List.range m).flatMap fun i => span (off (dwAddr d 3) (i * cmdField d 4 16 16)) (32 * ob))] fun ls =>
    let c := ls.getD 0 []
    let rc := s.number c
    let out := (List.range m).flatMap fun i => (List.range 32).map fun j =>
      gmulElem h (if acc then some (bits rc (8 * ob * (32 * i + j)) (8 * ob)) else none) i j
    let bad := if s.poison = [] && h.taint = [] then [] else (List.range (32 * m)).flatMap fun n =>
      let own := (c.drop (ob * n)).take ob
      if h.taint.contains n then own else if acc then tainted s own own else []
    (codedBytes c ob (out.map (·.code)), bad, { h with flg := h.flg ||| flgOf (orFlags out) }.finish)

/-- R188: Fused gather OP 1 multiplies gathered chunks into C: the gather engine gathers them one by one, the matrix unit computes each one's
products in a slot of the pushing context, and C is written once all are consumed. -/
def execGmul (core : CoreId) (ctx : Nat) (s : State) : Host.Outcome State Fault Refusal :=
  let a : CtxId := ⟨core, ctx⟩
  match headOf s a 1 with
  | none => .next s
  | some h =>
    if cmdOp h.dw ≠ 1 then .next s
    else if h.slot then
      .next (((s.setHead a 1 { h with slot := false, prog := h.prog + 1, done := h.done + 1 }).due (.engine core ctx 1)).due (.engine core ctx 0))
    else .next (if cmdValid h.dw ≤ h.prog then gmulWrite s a h else gmulGather s a h)

/-! The sparsifier and the collective engine. -/

/-- The magnitude rank of an FP32 code: ±0 lowest, every NaN alike above infinity (R271). -/
def magRank (x : Nat) : Nat := if 0x7F800000 < x % 2 ^ 31 then 0x7F800001 else x % 2 ^ 31

/-- The indices of the k largest magnitudes of 64 elements, ties to the lower index, in ascending order (R271). -/
def topIndices (k : Nat) (l : List Nat) : List Nat :=
  (List.range 64).filter fun i =>
    ((List.range 64).countP fun j => let x := magRank (l.getD i 0); let y := magRank (l.getD j 0)
      decide (x < y) || (x == y && decide (j < i))) < k

/-- R271: Sparsifier command compresses blocks of 64 FP32 elements. -/
def execTopk (core : CoreId) (ctx : Nat) (s : State) : Host.Outcome State Fault Refusal :=
  let a : CtxId := ⟨core, ctx⟩
  match headOf s a 3 with
  | none => .next s
  | some h =>
    let d := h.dw
    if cmdOp d ≠ 0 then .next s
    else if cmdValid d ≤ h.prog then .next (beginEmpty s a 3 h)
    else
      let k := 2 ^ cmdField d 0 53 3
      let resid := cmdField d 0 52 1 = 1
      let n := 8 + 4 * k
      .next (runUnit s a 3 h none [(if resid then 3 else 0, span (off (dwAddr d 1) (256 * h.prog)) 256),
          (1, span (off (dwAddr d 2) (h.prog * n)) n)] fun ls =>
        let src := ls.getD 0 []
        let x := s.number src
        let el := (List.range 64).map fun i => bits x (32 * i) 32
        let keep := topIndices k el
        let mask := (keep.map fun i => 2 ^ i).sum
        let out := (ls.getD 1 []).zip ((List.range n).map fun i =>
          if i < 8 then BitVec.ofNat 8 (mask / 256 ^ i)
          else BitVec.ofNat 8 (el.getD (keep.getD ((i - 8) / 4) 0) 0 / 256 ^ ((i - 8) % 4)))
        let zeros := if resid then keep.flatMap fun i => (List.range 4).map fun b => (src.getD (4 * i + b) 0, (0 : Byte)) else []
        let w := out ++ zeros
        (w, tainted s src (w.map (·.1)), ({ h with prog := h.prog + 1, done := h.done + 1 }).upTo (cmdValid d)))

/-- R272: Collective-engine command combines buffers element by element. -/
def execCsum (core : CoreId) (ctx : Nat) (s : State) : Host.Outcome State Fault Refusal :=
  let a : CtxId := ⟨core, ctx⟩
  match headOf s a 2 with
  | none => .next s
  | some h =>
    let d := h.dw
    let v := cmdValid d
    if cmdOp d ≠ 0 then .next s
    else if v ≤ h.prog then .next (beginEmpty s a 2 h)
    else
      let nb := cmdField d 0 51 3 + 1
      let n := min 16 (v - h.prog)
      .next (runUnit s a 2 h none [(0, (List.range nb).flatMap fun j => span (off (dwAddr d 1) (j * cmdField d 3 32 32 + 4 * h.prog)) (4 * n)),
          (1, span (off (dwAddr d 2) (4 * h.prog)) (4 * n))] fun ls =>
        let x := s.number (ls.getD 0 [])
        let node := match cmdField d 0 54 2 with
          | 0 => node32 .nearest
          | 1 => mergeNode (FloatFmt.fp32.minmax true)
          | _ => mergeNode (FloatFmt.fp32.minmax false)
        let out := (List.range n).map fun i =>
          (tsum node ((List.range nb).map fun j => some ⟨bits x (32 * (n * j + i)) 32, 0⟩)).getD ⟨0, 0⟩
        let part (l : List Nat) (i : Nat) := (l.drop (4 * i)).take 4
        (codedBytes (ls.getD 1 []) 4 (out.map (·.code)),
          (List.range n).flatMap fun i => tainted s ((List.range nb).flatMap fun j => part (ls.getD 0 []) (n * j + i)) (part (ls.getD 1 []) i),
          ({ h with prog := h.prog + n, done := h.done + n, flg := h.flg ||| flgOf (orFlags out) }).upTo v))

/-! Completions and rotations. -/

/-- The completion element (R170). -/
def completionWord (h : Command) (st : Byte) : Dword :=
  BitVec.ofNat 64 (cmdTag h.dw * 2 ^ 32 + st.toNat * 2 ^ 24 + h.flg.toNat % 32 * 2 ^ 16 + h.done % 2 ^ 16)

/-- Whether a full output FIFO holds a command's completion (R170). -/
def fifoHolds (s : State) (a : CtxId) (p : Nat) (h : Command) : Bool :=
  cmdField h.dw 0 39 1 == 1 && decide (16 ≤ ((s.ctx a).port p).output.length)

/-- Deliver a command's completion: the element, LASTERR and ERRADDR, and the counter increments (R170, R172, R212);
none where a full output FIFO holds it. -/
def deliver (s : State) (a : CtxId) (p : Nat) (h : Command) (st : Byte) (va : Dword) : Option State :=
  let ret := cmdField h.dw 0 39 1 = 1
  if fifoHolds s a p h then none
  else
    let s := s.modPort a p fun q => { q with
      output := if ret then q.output ++ [completionWord h st] else q.output
      lastErr := if st = 0 then q.lastErr else st
      errAddr := if st = 0 then q.errAddr else va }
    let n := cmdField h.dw 0 34 4
    if cmdField h.dw 0 38 1 = 1 then
      let s := s.arrive a.core n (st != 0)
      some (if p < 8 then s else match clusterOf a.core with
        | none => s
        | some cl => (List.range 16).foldl (fun s q =>
            let c : CoreId := ⟨.l0, cl * 16 + q⟩
            if bitOf (cmdField h.dw 6 0 16) q && c != a.core && holdsCard s c (s.ctx a).card then s.arrive c n (st != 0) else s) s)
    else some s

/-- The channels on which operations of a context at a port are active, and those operations (R210). -/
def activeOps (s : State) (a : CtxId) (p : Nat) : List (Nat × Nat × ChanOp) :=
  match clusterOf a.core with
  | none => []
  | some cl => (s.cluster cl).chans.filterMap fun x => match x.2.active with
      | some o => if o.owner == a && o.port == p then some (cl, x.1, o) else none
      | none => none

/-- The first of them that has reached its end and whose completion nothing holds. -/
def finishedOp (s : State) (a : CtxId) (p : Nat) : Option (Nat × Nat × ChanOp) :=
  (activeOps s a p).find? fun x => x.2.2.cmd.outcome.isSome && !fifoHolds s a p x.2.2.cmd && !unitHeld s a.core (3 + 16 * x.2.1)

/-- An operation of a domain begins on a channel: its TAG and a DONE of 0 replace the old value; the value before the domain's first
operation since its barrier is kept, with the other domains that begin one after it (R213, R217). -/
def Channel.begin (c : Channel) (d : Nat) (o : ChanOp) : Channel :=
  let others := c.prior.map fun p => if p.1 = d || p.2.2.2.contains d then p else (p.1, p.2.1, p.2.2.1, p.2.2.2 ++ [d])
  { c with
    tag := BitVec.ofNat 16 (cmdTag o.cmd.dw)
    done := 0
    prior := if c.prior.any fun p => p.1 == d then others else others ++ [(d, c.tag, c.done, [])] }

/-- The next operation of a channel: the shadow swaps in, and the first waiting one takes the shadow set (R210). -/
def swapIn (dom : CtxId → Nat) (c : Channel) : Channel :=
  let c' := { c with active := c.shadow, shadow := c.waiting.head?, waiting := c.waiting.drop 1 }
  match c.shadow with
  | some o => if o.cmd.outcome.isSome then c' else c'.begin (dom o.owner) o
  | none => c'

/-! Which context an engine serves next. -/

/-- Whether a context's queue at a port has something to do now; a chunk of a fused gather is the matrix unit's, ahead of the context's own
queue (R188). -/
def unitReady (s : State) (c : CoreId) (p k : Nat) : Bool :=
  ((headOf s ⟨c, k⟩ p).any fun h => !(p == 1 && h.slot)) || (p == 0 && gmulWaits s ⟨c, k⟩)

/-- The next context in ascending number after one, wrapping from 10 to 0, whose queue has something to do. -/
def nextUnit (s : State) (c : CoreId) (p last : Nat) : Option Nat :=
  ((List.range 11).map fun i => (last + 1 + i) % 11).find? (unitReady s c p)

/-- The slot of the matrix unit's rotation that runs now, and its owner (R183). -/
def slotNow (s : State) (c : CoreId) : Nat × Nat :=
  let k := s.core c
  let n := (s.ticks - k.mxStart) / k.mxSlotLen.toNat
  (k.mxStart + n * k.mxSlotLen.toNat, bits k.mxSlots.toNat (4 * (n % 16)) 4)

/-- The context whose row the matrix unit begins next: the slot's owner, or, row by row, the next after it that has one (R183). -/
def matrixTurn (s : State) (c : CoreId) : Option Nat :=
  let t := slotNow s c
  if t.2 < 11 && unitReady s c 0 t.2 then some t.2
  else nextUnit s c 0 (match (s.core c).mxLent with
    | some x => if x.1 = t.1 || 10 < t.2 then x.2 else t.2
    | none => if 10 < t.2 then 10 else t.2)

/-- The context that an engine serves next: the matrix unit by its slots; the others finish a command that has begun, then take the next
context's, round-robin in ascending number (R183, R189, R271). -/
def engineTurn (s : State) (c : CoreId) (p : Nat) : Option Nat :=
  if p = 0 then matrixTurn s c
  else
    let cur := SMap.read 10 (s.core c).engTurn p
    match ((s.ctx ⟨c, cur⟩).port p).input with
    | h :: _ => if h.begun && h.outcome.isNone then (if unitReady s c p cur then some cur else none) else nextUnit s c p cur
    | [] => nextUnit s c p cur

/-- An engine turns to a context. -/
def takeTurn (s : State) (c : CoreId) (p k : Nat) : State :=
  if p ≠ 0 then s.modCore c fun x => { x with engTurn := SMap.put x.engTurn p k }
  else
    let t := slotNow s c
    if t.2 = k then s else s.modCore c fun x => { x with mxLent := some (t.1, k) }

/-- An engine that has something to do goes on. -/
def engineDue (s : State) (c : CoreId) (p : Nat) : State := match engineTurn s c p with | some k => s.due (.engine c k p) | none => s

/-- R170: A finished engine or channel command delivers its element and counter increment; the next command may begin. A copy operation
that finished before its context was saved is delivered without its channel (R217). -/
def execEngineCompletion (core : CoreId) (ctx port : Nat) (s : State) : Host.Outcome State Fault Refusal :=
  let a : CtxId := ⟨core, ctx⟩
  let ended (s : State) : State := if (s.ctx a).status = .parking then s.due (.contextEnd core ctx) else s
  match ((s.ctx a).port port).input with
  | h :: t =>
    (match (if port < 8 ∧ unitHeld s core (portUnit port) then none else h.outcome) with
    | none => .next s
    | some o =>
      match deliver s a port h o.1 o.2 with
      | none => .next (if port < 8 then engineDue s core port else s)
      | some s =>
        let s := s.modPort a port fun q => { q with input := t }
        .next (match t with
          | [] => ended (if port < 8 then engineDue s core port else s)
          | n :: _ => if n.outcome.isSome then s.due (.completion core ctx port) else engineDue s core port))
  | [] =>
    if port < 8 then .next s
    else match finishedOp s a port with
      | none => .next s
      | some (cl, ch, o) =>
        match o.cmd.outcome with
        | none => .next s
        | some r =>
          match deliver s a port o.cmd r.1 r.2 with
          | none => .next s
          | some s =>
            let s := s.modChan cl ch (swapIn fun b => (s.ctx b).dom)
            let s := match (s.chan cl ch).active with
              | some n => s.due (if n.cmd.outcome.isSome then .completion n.owner.core n.owner.ctx n.port else .channel cl ch)
              | none => s
            .next (ended s)

/-- R183: A matrix unit slot rotation begins, applying staged slotld values. -/
def execRotationBegin (core : CoreId) (s : State) : Host.Outcome State Fault Refusal :=
  .next (s.modCore core fun c => match c.mxStaged with
    | some x => { c with mxSlots := x.1, mxSlotLen := x.2, mxStaged := none, mxStart := s.ticks }
    | none => { c with mxStart := s.ticks })

/-- Stage slot owners and a slot length until the next rotation begins (R184). -/
def stageSlots (s : State) (c : CoreId) (x : Dword × BitVec 12) : State :=
  s.modCore c fun k =>
    let r := 16 * k.mxSlotLen.toNat
    { k with mxStaged := some x, mxStart := k.mxStart + (s.ticks - k.mxStart) / r * r }

/-- Whether a rotation with staged values is to begin. -/
def rotationOver (s : State) (k : Core) : Bool := k.mxStaged.isSome && decide (k.mxStart + 16 * k.mxSlotLen.toNat ≤ s.ticks)

/-- The slot owners that slotld stages: a nibble from 11 to 14 is staged as 15 (R184). -/
def slotOwners (x : Dword) : Dword :=
  BitVec.ofNat 64 (packN 4 ((List.range 16).map fun i => let n := bits x.toNat (4 * i) 4; if 11 ≤ n then 15 else n))

/-- Enter a command into a port's queue at its commit (R171, R210). -/
def enterCommand (s : State) (a : CtxId) (p : Nat) (h : Command) : State :=
  if p < 8 then
    let s := s.modPort a p fun q => { q with input := q.input ++ [h] }
    if ((s.ctx a).port p).input.length = 1 then s.due (.engine a.core a.ctx p) else s
  else match clusterOf a.core with
    | none => s
    | some cl =>
      let ch := (p - 8 + (if cmdField h.dw 0 47 1 = 1 then (s.ctx a).gpos else 0)) % 8
      let o : ChanOp := ⟨a, p, h⟩
      let c := s.chan cl ch
      match c.active, c.shadow with
      | none, _ => (s.modChan cl ch fun c => { c with active := some o }.begin (s.ctx a).dom o).due (.channel cl ch)
      | some _, none => s.modChan cl ch fun c => { c with shadow := some o }
      | some _, some _ => s.modChan cl ch fun c => { c with waiting := c.waiting ++ [o] }

/-- engabort at its commit: commands not started are stopped where they stand and complete in order with STATUS 0x04, as
the running one does at its next row boundary; a cbload item is removed (R171). -/
def abortPort (s : State) (a : CtxId) (p : Nat) : State :=
  let stop (h : Command) : Command := if h.outcome.isSome then h else { h with outcome := some (4, 0) }
  if p < 8 then
    let s := s.modPort a p fun q => { q with input := (q.input.filter fun h => !h.isCodebook).map stop }
    let s := s.modCtx a fun c => { c with misses := c.misses.filter fun m => m.unit != portUnit p }
    if ((s.ctx a).port p).input = [] then s else s.due (.completion a.core a.ctx p)
  else match clusterOf a.core with
    | none => s
    | some cl =>
      let mark (o : ChanOp) : ChanOp := if o.owner == a && o.port == p then { o with cmd := stop o.cmd } else o
      let on := (activeOps s a p).map fun x => 3 + 16 * x.2.1
      let s := s.modCluster cl fun k => { k with chans := k.chans.map fun x =>
        (x.1, { x.2 with active := x.2.active.map mark, shadow := x.2.shadow.map mark, waiting := x.2.waiting.map mark }) }
      let s := s.modCtx a fun c => { c with misses := c.misses.filter fun m => !on.contains m.unit }
      (activeOps s a p).foldl (fun s _ => s.due (.completion a.core a.ctx p)) s

end Sys2Proof.Machine
end

