-- ==== Sys2Proof/Machine/Channels.lean ====
section
/-! DEFINITION. The copy channels at work (R210 to R217): a step moves at most 64 bytes of the active operation, in the
order of R212. -/

namespace Sys2Proof.Machine

/-- The rows of a copy command: its length in bytes per row and the destinations of a row (R211, R212). -/
def copyRowB (d : List Dword) : Nat := cmdField d 4 32 32
def copyDsts (d : List Dword) (r : Nat) : List Dword :=
  let base := off (dwAddr d 2) (r * cmdField d 3 0 32)
  if cmdOp d = 1 then ((List.range 8).filter fun m => bitOf (cmdField d 0 48 8) m).map fun m => off base (m * cmdField d 4 0 32)
  else [base]
def copySrc (d : List Dword) (r : Nat) : Dword := off (dwAddr d 1) (r * cmdField d 3 32 32)

/-- The accesses of `n` bytes of row r from byte b (R216). -/
def copyRuns (d : List Dword) (r b n : Nat) : List (Nat × List Dword) :=
  (0, if cmdOp d = 2 then [] else span (off (copySrc d r) b) n) :: (copyDsts d r).map fun x => (1, span (off x b) n)

/-- End the active operation of a channel. -/
def endChannel (s : State) (cl ch : Nat) (o : ChanOp) (cmd : Command) : State :=
  (s.modChan cl ch fun c => { c with active := some { o with cmd := cmd } }).due (.completion o.owner.core o.owner.ctx o.port)

/-- At most 64 bytes of the active operation; before each row every page it touches is translated, and a miss pauses the
channel there; a host-visible destination ends a phase-structured card's operation (R212, R216, R318). -/
def channelStep (s : State) (cl ch op : Nat) : State :=
  match (s.chan cl ch).active with
  | none => s
  | some o =>
    let a := o.owner
    let h := o.cmd
    let d := h.dw
    let unit := 3 + 16 * ch
    let rowb := copyRowB d
    if cmdOp d ≠ op ∨ h.outcome.isSome ∨ ((s.ctx a).misses.any fun m => m.unit == unit) ∨ unitHeld s a.core unit then s
    else if cmdValid d * rowb ≤ h.prog then endChannel s cl ch o h.finish
    else
      let r := h.prog / rowb
      let b := h.prog % rowb
      let n := min 64 (rowb - b)
      let put (s : State) (h : Command) : State := s.modChan cl ch fun c => { c with active := some { o with cmd := h } }
      match (if b = 0 then reachRuns s a unit (copyRuns d r 0 rowb) else .ok []) with
      | .error (.miss va acc) => sendMiss (put s { h with begun := true }) a unit acc va
      | .error (.status st va) => endChannel s cl ch o (h.stop st va)
      | .ok row =>
        match (if s.phased a then (((row.drop 1).zip (copyDsts d r)).find? fun x => x.1.any isHost) else none) with
        | some x => endChannel s cl ch o (h.stop 2 x.2)
        | none =>
          match reachRuns s a unit (copyRuns d r b n) with
          | .error (.miss va acc) => sendMiss (put s { h with begun := true }) a unit acc va
          | .error (.status st va) => endChannel s cl ch o (h.stop st va)
          | .ok ls =>
            let src := ls.headD []
            let dst := (ls.drop 1)
            let data : List Byte := if op = 2 then (List.range n).map fun i => BitVec.ofNat 8 (cmdField d 5 0 64 / 256 ^ ((b + i) % 8))
              else src.map fun l => Memory.byte s.mem l
            let bad := poisonIn s (src.zip (span (off (copySrc d r) b) n))
            let w := (List.range n).flatMap fun i => dst.filterMap fun x => match x[i]?, data[i]? with | some l, some v => some (l, v) | _, _ => none
            let t := dst.flatMap fun x => (src.zip x).flatMap fun y => tainted s [y.1] [y.2]
            if !unitFits s a (w.map (·.1)) then applyWrite s a w []
            else
              let x := unitWrite s a unit w t
              if !x.2 then put x.1 { h with begun := true } else
              let s := (x.1.noteHbm 0x41 src).bumpCluster cl 0x21 w.length
              let p := h.prog + n
              let h' : Command := { h with begun := true, prog := p, done := p / rowb }
              let c := consumeUnit (s.useOnce a unit) a unit (if cmdValid d * rowb ≤ p then h'.finish else h') bad
              let s := (put c.1 c.2).modChan cl ch fun c => { c with done := p }
              if c.2.outcome.isSome then s.due (.completion a.core a.ctx o.port) else s.due (.channel cl ch)

/-- R212: Copy channel operation copying rows in order. -/
def execCopy (clus ch : Nat) (s : State) : Host.Outcome State Fault Refusal := .next (channelStep s clus ch 0)

/-- R212: Copy channel operation copying rows to several destinations. -/
def execMcast (clus ch : Nat) (s : State) : Host.Outcome State Fault Refusal := .next (channelStep s clus ch 1)

/-- R212: Copy channel operation filling destinations with a pattern. -/
def execFill (clus ch : Nat) (s : State) : Host.Outcome State Fault Refusal := .next (channelStep s clus ch 2)

/-- Whether every operation that some contexts pushed has left the channels (R217, R259). -/
def channelsDone (s : State) (p : CtxId → Bool) : Bool :=
  s.clus.all fun c => c.2.chans.all fun x => !((x.2.active.toList ++ x.2.shadow.toList ++ x.2.waiting).any fun o => p o.owner)

end Sys2Proof.Machine
end

