-- ==== Sys2Proof/Machine/Collect.lean ====
section
/-! DEFINITION. Page 5: arrival counters, barriers, votes, triggers and timetable instructions (R75, R218, R257 to R267). -/

namespace Sys2Proof.Machine

/-! Counters. -/

/-- R257: Stall until an arrival counter reaches a threshold and return its word as it stood when the condition first held. -/
def waitBody (e : Env) (s : State) : Act :=
  let n := e.f.tsrcN
  let t := min (e.srcS.toNat % 2 ^ 31 + e.immU) 0x7FFFFFFF
  let c := s.counter e.at'.core n
  match (s.ctx e.at').waitWord with
  | some x => .done ((s.setRegs e.at' (e.putS e.r x)).modCtx e.at' fun k => { k with waitWord := none })
  | none =>
    if t ≤ c.count.toNat then .done (s.setRegs e.at' (e.putS e.r (counterWord c))) else .wait (.counter n t) s
def execWait (f : Fields) (s : State) : Host.Outcome State Fault Refusal := issue Forms.waitF f waitBody s

/-- R218: Count one arrival on a counter of named cluster cores. -/
def arriveBody (e : Env) (s : State) : Act :=
  .done (s.stage e.at' (.arrive e.f.dstN (e.srcS.setWidth 16)))
def execArrive (f : Fields) (s : State) : Host.Outcome State Fault Refusal := issue Forms.arriveF f arriveBody s

/-- Whether an arrive names the issuing core: mask 0, its own bit, or any mask above L0 (R218). -/
def arriveOwn (a : CtxId) (m : BitVec 16) : Bool := a.core.kind != .l0 || m == 0 || bitOf m.toNat (a.core.idx % 16)

/-- arrive at its commit: each named core of the cluster that holds a context of the card; with mask 0, and above L0, the own core
(R218). -/
def arriveCommit (s : State) (a : CtxId) (n : Nat) (m : BitVec 16) : State :=
  if a.core.kind = .l0 ∧ m ≠ 0 then
    (List.range 16).foldl (fun s q =>
      let c : CoreId := ⟨.l0, a.core.idx / 16 * 16 + q⟩
      if bitOf m.toNat q && (c == a.core || holdsCard s c (s.ctx a).card) then s.arrive c n false else s) s
  else s.arrive a.core n false

/-- R257: Clear an arrival counter at commit. -/
def cclrBody (e : Env) (s : State) : Act := .done (s.stage e.at' (.cclr e.f.dstN))
def execCclr (f : Fields) (s : State) : Host.Outcome State Fault Refusal := issue Forms.cclrF f cclrBody s

/-- R75: Increment a trigger counter at commit. -/
def trigBody (e : Env) (s : State) : Act := .done (s.stage e.at' (.trig (e.srcS.toNat % 2 ^ 12)))
def execTrig (f : Fields) (s : State) : Host.Outcome State Fault Refusal := issue Forms.trigF f trigBody s

/-! Rendezvous. -/

/-- Whether every helper of an L0 core has ended (R81, R258). -/
def helpersEnded (s : State) (c : CoreId) : Bool :=
  c.kind != .l0 || helpers.all fun h => let st := s.status ⟨c, h⟩; st == .free || st == .ended

/-- A participant has arrived at its rendezvous: its form is offered and its core's helpers have ended (R258). -/
def hasArrived (s : State) (m : CtxId) : Bool := (s.ctx m).arrival.isSome && helpersEnded s m.core

/-- Whether a participant of a domain is in a save area (R331). -/
def awayFrom (s : State) (d : Nat) : Bool :=
  s.areas.any fun x => x.cores.any fun k => (SMap.read Ctx.reset k.data.ctxs 0).dom == d

/-- Whether every participant of a domain has arrived and no release is due. -/
def allArrived (s : State) (d : Nat) : Bool :=
  let x := s.dom d
  x.release.isNone && !x.members.isEmpty && x.members.all (hasArrived s) && !awayFrom s d

/-- The forms the participants offer. -/
def formsOf (s : State) (d : Nat) : List Nat := (s.dom d).members.filterMap fun m => ((s.ctx m).arrival.map (·.form))

/-- Make the rendezvous step of a domain due where its participants have all arrived. -/
def nudge (s : State) (d : Nat) : State :=
  if allArrived s d then s.due (if (formsOf s d).contains 0 then .barrierCommit d else .voteCommit d) else s

/-- The result of a vote over its participants' values: what is written, and VOTE.RES (R262). -/
def voteResult (form : Nat) (vals : List Dword) (parked : Bool) (ones : Dword) : Dword × W32 :=
  match form with
  | 1 => if (vals.all fun v => bitOf v.toNat 0) && !parked then (ones, 1) else (0, 0)
  | 2 => if vals.any fun v => bitOf v.toNat 0 then (ones, 1) else (0, 0)
  | _ =>
    let x : Dword := vals.foldl (· + ·) 0
    (x, BitVec.ofInt 32 (min (max (sintOf 64 x.toNat) 0) 0xFFFFFFFF))

/-- Write a vote's result (R262, R263). -/
def putVote (r : RegState) (k : CoreKind) (x : Arrival) (v : Dword × W32) : RegState :=
  let r := match x.form with
    | 0 => r
    | 3 => if x.toStq then { r with stq := r.stq ++ [v.1.setWidth 256] } else r.wrS x.dst v.1
    | _ => r.wrP k x.dst v.1
  if x.form = 0 then r else { r with voteRes := v.2 }

/-- Offer a bar or a vote: a helper traps; a context of no card meets itself alone; any other waits for its domain (R258, R262). That the bar
of a context without a card is no commit of a domain, so that its RNG.CTR stays and no SUPERSTEP advances, is the model's choice (R145, R259;
DESIGN CHOICE, log 98). -/
def offer (form : Nat) (value : Env → Dword) (e : Env) (s : State) : Act :=
  let a := e.at'
  let x : Arrival := ⟨form, e.f.dstN, e.dstQ, e.fm.ldqNeed e.f, value e, e.next⟩
  if e.kind = .l0 ∧ a.ctx ≠ 0 then .trap ⟨0x08, BitVec.ofNat 32 a.ctx, e.addr, false⟩
  else if (s.ctx a).dom = 0 then
    .done (s.setRegs a (putVote e.r e.kind x (voteResult form [x.value] false (pOnes e.kind))))
  else .wait .rendezvous (nudge (s.modCtx a fun c => { c with arrival := some x }) (s.ctx a).dom)

/-- R259: Arrive at the domain's barrier and wait for its commit and release. -/
def barBody (e : Env) (s : State) : Act := offer 0 (fun _ => 0) e s
def execBar (f : Fields) (s : State) : Host.Outcome State Fault Refusal := issue Forms.barF f barBody s

/-- R262: Vote whether bit 0 is 1 in every participant. -/
def voteAllBody (e : Env) (s : State) : Act := offer 1 Env.srcP e s
def execVoteAll (f : Fields) (s : State) : Host.Outcome State Fault Refusal := issue Forms.voteF f voteAllBody s

/-- R262: Vote whether bit 0 is 1 in any participant. -/
def voteAnyBody (e : Env) (s : State) : Act := offer 2 Env.srcP e s
def execVoteAny (f : Fields) (s : State) : Host.Outcome State Fault Refusal := issue Forms.voteF f voteAnyBody s

/-- R262: Sum a register over participants. -/
def voteSumBody (e : Env) (s : State) : Act := offer 3 Env.srcS e s
def execVoteSum (f : Fields) (s : State) : Host.Outcome State Fault Refusal := issue Forms.voteSumF f voteSumBody s

/-- The participants executed different forms: every one of them traps at its own instruction and the rendezvous has no
effect (R263). -/
def mismatch (s : State) (d : Nat) : State :=
  ((s.dom d).members.filter fun m => (s.ctx m).arrival.isSome).foldl (fun s m =>
    let pc := (s.ctx m).r.pc
    takeTrap (s.modCtx m fun c => { c with arrival := none }) m ⟨0x14, 0, pc.setWidth 64, false⟩ pc pc) s

/-- Write the results of a rendezvous that has committed: each participant stands at the instruction after it (R259, R262). -/
def commitArrivals (s : State) (d : Nat) (v : Arrival → CoreKind → Dword × W32) : State :=
  (s.dom d).members.foldl (fun s m =>
    match (s.ctx m).arrival with
    | none => s
    | some x => s.modCtx m fun c => { c with r := { putVote c.r m.core.kind x (v x m.core.kind) with pc := x.next, ldq := c.r.ldq.drop x.need } }) s

/-- R262: Combine the participants' values, a redundant pair's once; results and VOTE.RES are written; different forms trap (R263). -/
def execVoteCommit (dom : Nat) (s : State) : Host.Outcome State Fault Refusal :=
  if !allArrived s dom then .next s
  else
    let fs := formsOf s dom
    if fs.any fun f => f != fs.headD 0 then .next (mismatch s dom)
    else if fs.headD 0 = 0 then .next s
    else
      let vals := ((s.dom dom).members.filter fun m => (s.ctx m).copy != .shadow).filterMap fun m => (s.ctx m).arrival.map (·.value)
      let p := (s.dom dom).anyParked
      let s := commitArrivals s dom fun x k => voteResult x.form vals p (pOnes k)
      .next ((s.modDom dom fun x => { x with release := some false }).due (.barrierRelease dom))

/-! Timetables. -/

/-- The mesh coordinates of an L0 core (R19). -/
def meshX (c : CoreId) : Nat := 24 * (dieOf c % 2) + 4 * (localOf c / 16 % 6) + localOf c % 4
def meshY (c : CoreId) : Nat := 24 * (dieOf c / 2) + 4 * (localOf c / 16 / 6) + localOf c % 16 / 4
/-- The L0 core at mesh coordinates. -/
def coreAtMesh (x y : Nat) : CoreId :=
  let d := x / 24 + 2 * (y / 24)
  let c := x % 24 / 4 + 6 * (y % 24 / 4)
  ⟨.l0, d * 576 + c * 16 + x % 4 + 4 * (y % 4)⟩
/-- The neighbour in a direction: N, E, S, W, or itself by loopback (R265). -/
def neighbour (c : CoreId) (dir : Nat) : Option CoreId :=
  let x := meshX c
  let y := meshY c
  match dir with
  | 0 => if y = 0 then none else some (coreAtMesh x (y - 1))
  | 1 => if x = 47 then none else some (coreAtMesh (x + 1) y)
  | 2 => if y = 95 then none else some (coreAtMesh x (y + 1))
  | 3 => if x = 0 then none else some (coreAtMesh (x - 1) y)
  | 4 => some c
  | _ => none
/-- The direction at which a word sent in a direction arrives. -/
def opposite (dir : Nat) : Nat := match dir with | 0 => 2 | 1 => 3 | 2 => 0 | 3 => 1 | d => d

/-- The die that hosts a Quekin port (R273). -/
def portDie (p : Nat) : Nat := if p < 32 then p / 4 else 2 * (p - 32) + 1

/-- An entry of a timetable (R264). -/
structure TtEntry where
  offset : Nat
  kind : Nat
  din : Nat
  dout : Nat
  comb : Nat
  ctr : Nat
  cen : Bool
  win : Nat
  addr : Nat
  len : Nat
  qport : Nat
  stream : Nat
  peer : Nat
  deriving DecidableEq, Repr

def ttEntry (w : Dword × Dword) : TtEntry :=
  let a := w.1.toNat
  let b := w.2.toNat
  { offset := bits a 44 20, kind := bits a 41 3, din := bits a 38 3, dout := bits a 35 3, comb := bits a 31 4, ctr := bits a 27 4,
    cen := bitOf a 26, win := bits a 22 1, addr := bits a 0 22, len := bits b 48 16, qport := bits b 42 6,
    stream := bits b 34 8, peer := bits b 22 12 }

/-- Cycles an entry holds its link (R268). -/
def TtEntry.cycles (t : TtEntry) : Nat := (t.len + 7) / 8
/-- Whether the entry's kind and COMB use ADDR (R265, R266). -/
def TtEntry.usesAddr (t : TtEntry) : Bool := t.kind != 2 || t.comb != 0
/-- The directions the entry's kind uses. -/
def TtEntry.dirs (t : TtEntry) : List Nat := match t.kind with | 0 => [t.dout] | 1 => [t.din] | _ => [t.din, t.dout]
/-- The cycles on which it drives an output link: a forward sends one cycle later (R268). -/
def TtEntry.drives (t : TtEntry) : Nat × Nat := let o := t.offset + (if t.kind = 2 then 1 else 0); (o, o + t.cycles)
/-- The size of its window (R196). -/
def TtEntry.window (t : TtEntry) : Nat := if t.win = 1 then 0x400000 else 0x40000

/-- The checks of R266 on entry i after the entries before it: the number of the first that fails, 0 if none. -/
def ttCheck (c : CoreId) (before : List TtEntry) (w : Dword × Dword) : Nat :=
  let t := ttEntry w
  firstFail [
    bits w.1.toNat 23 3 != 0 || bits w.2.toNat 0 22 != 0 || t.len == 0 || (t.usesAddr && t.addr % 4 != 0),
    (match before.getLast? with | some p => t.offset < p.offset | none => false),
    2 < t.kind || (t.dirs.any fun d => 5 < d) || (t.kind == 0 && t.comb != 0) || 6 < t.comb
      || (t.kind == 2 && (4 < t.comb || t.dirs.contains 5)),
    t.dirs.any fun d => d < 5 && (neighbour c d).isNone,
    t.dirs.contains 5 && (35 < t.qport || portDie t.qport != dieOf c),
    t.usesAddr && t.window < t.addr + 4 * t.len,
    t.kind != 1 && before.any fun p => p.kind != 1 && p.dout == t.dout && (t.dout != 5 || p.qport == t.qport)
      && p.drives.1 < t.drives.2 && t.drives.1 < p.drives.2]

/-- The first failing entry of an image: INFO, none where all pass. -/
def ttChecks (c : CoreId) : Nat → List TtEntry → List (Dword × Dword) → Option Nat
  | _, _, [] => none
  | i, before, w :: t =>
    match ttCheck c before w with
    | 0 => ttChecks c (i + 1) (before ++ [ttEntry w]) t
    | n + 1 => some (i * 256 + n + 1)

/-- ttld's reads, made by the router through the context's translation, in both phases (R266). -/
def routerLoad (s : State) (a : CtxId) (va : Dword) (n : Nat) (k : State → Nat → Act) : Act :=
  let vas := span va n
  match reachEach s a 0 0 false vas with
  | .error r => reachFail 0 r
  | .ok locs =>
    match s.poisonAt a (locs.zip vas) with
    | some p => .trap ⟨0x17, BitVec.ofNat 32 (memKind p.1), p.2, false⟩
    | none => k (s.noteRead a locs) (s.see a locs)

/-- R266: Load a timetable slot from an image, checked. -/
def ttldBody (e : Env) (s : State) : Act :=
  let a := e.at'
  let k := e.f.aux.toNat
  let va := e.srcS
  if va.toNat % 16 ≠ 0 then misaligned va
  else if (s.core a.core).tt.running = some k then .wait (.ttSlot k) s
  else routerLoad s a va 16 fun s h =>
    let refused (info : Nat) : Act := .trap ⟨0x0F, BitVec.ofNat 32 info, e.addr, false⟩
    if h = 0 ∨ 256 ≤ h then refused (255 * 256 + 1)
    else routerLoad s a (va + 16) (16 * h) fun s x =>
      let ws : List (Dword × Dword) := (List.range h).map fun i => (BitVec.ofNat 64 (bits x (128 * i) 64), BitVec.ofNat 64 (bits x (128 * i + 64) 64))
      match ttChecks a.core 0 [] ws with
      | some info => refused info
      | none => .done ((s.useOnce a 0).stage a (.ttld k ws))
def execTtld (f : Fields) (s : State) : Host.Outcome State Fault Refusal := issue Forms.ttldF f ttldBody s

/-- R266: Select a timetable slot from the last vote. -/
def ttselBody (e : Env) (s : State) : Act := .done (s.stage e.at' (.ttsel (min e.r.voteRes.toNat (e.immU - 1))))
def execTtsel (f : Fields) (s : State) : Host.Outcome State Fault Refusal := issue Forms.ttselF f ttselBody s

/-- R266: Arm the selected timetable slot for the next barrier release. -/
def ttgoBody (e : Env) (s : State) : Act := .done (s.stage e.at' .ttgo)
def execTtgo (f : Fields) (s : State) : Host.Outcome State Fault Refusal := issue Forms.ttgoF f ttgoBody s

/-- TT.STAT (R267). -/
def ttStat (t : Timetable) : Dword :=
  let b (x : Bool) := if x then 1 else 0
  BitVec.ofNat 64 (t.done % 256 * 2 ^ 12 + t.last.toNat * 2 ^ 10 + b t.armed.isSome * 2 ^ 9 + b t.running.isSome * 2 ^ 8
    + t.sel.toNat * 2 ^ 6 + b t.lost * 2 ^ 5 + b t.under * 2 ^ 4 + t.flg.toNat)

/-- TT.STAT as a context reads it: its own ttsel and ttgo of the open chunk count for it (R266, R267). -/
def ttView (s : State) (a : CtxId) : Timetable :=
  (s.ctx a).chunk.effects.foldl (fun t x => match x with
    | .ttsel n => { t with sel := BitVec.ofNat 2 n }
    | .ttgo => { t with armed := some t.sel.toNat }
    | _ => t) (s.core a.core).tt

/-- R266: Wait until the router is idle and read TT.STAT. -/
def ttstBody (e : Env) (s : State) : Act :=
  let t := (s.core e.at'.core).tt
  if t.running.isSome then .wait .ttIdle s else .done (s.setRegs e.at' (e.putS e.r (ttStat t)))
def execTtst (f : Fields) (s : State) : Host.Outcome State Fault Refusal := issue Forms.ttstF f ttstBody s

end Sys2Proof.Machine
end

