-- ==== Sys2Proof/Machine/Sha3.lean ====
section
/-! DEFINITION. SHA3-256 (FIPS 202), which the spec names for slices, the defect signature, the duplicate compare and
sealed checkpoints (R35, R77, R301, R337). Lanes are numbers below 2^64, lane x + 5y. -/

namespace Sys2Proof.Machine

def lane (a : List Nat) (i : Nat) : Nat := a.getD i 0
def rotLane (x n : Nat) : Nat := x * 2 ^ n % 2 ^ 64 + x / 2 ^ (64 - n)
/-- The rotation offsets of rho. -/
def rhoOffsets : List Nat :=
  [0, 1, 62, 28, 27, 36, 44, 6, 55, 20, 3, 10, 43, 25, 39, 41, 45, 15, 21, 8, 18, 2, 61, 56, 14]
/-- The round constants of iota. -/
def iotaConstants : List Nat :=
  [0x0000000000000001, 0x0000000000008082, 0x800000000000808A, 0x8000000080008000, 0x000000000000808B,
   0x0000000080000001, 0x8000000080008081, 0x8000000000008009, 0x000000000000008A, 0x0000000000000088,
   0x0000000080008009, 0x000000008000000A] ++
  [0x000000008000808B, 0x800000000000008B, 0x8000000000008089, 0x8000000000008003, 0x8000000000008002,
   0x8000000000000080, 0x000000000000800A, 0x800000008000000A, 0x8000000080008081, 0x8000000000008080,
   0x0000000080000001, 0x8000000080008008]

def thetaStep (a : List Nat) : List Nat :=
  let c := (List.range 5).map fun x => (List.range 5).foldl (fun v y => v ^^^ lane a (x + 5 * y)) 0
  let d := (List.range 5).map fun x => lane c ((x + 4) % 5) ^^^ rotLane (lane c ((x + 1) % 5)) 1
  (List.range 25).map fun i => lane a i ^^^ lane d (i % 5)
def rhoPiStep (a : List Nat) : List Nat :=
  (List.range 25).map fun i =>
    let j := (i % 5 + 3 * (i / 5)) % 5 + 5 * (i % 5)
    rotLane (lane a j) (rhoOffsets.getD j 0)
def chiStep (b : List Nat) : List Nat :=
  (List.range 25).map fun i =>
    let y := 5 * (i / 5)
    lane b i ^^^ ((2 ^ 64 - 1 - lane b (y + (i + 1) % 5)) &&& lane b (y + (i % 5 + 2) % 5))
def keccakRound (a : List Nat) (rc : Nat) : List Nat :=
  match chiStep (rhoPiStep (thetaStep a)) with
  | [] => []
  | x :: t => (x ^^^ rc) :: t
def keccak (a : List Nat) : List Nat := iotaConstants.foldl keccakRound a

/-- A little-endian number of bytes. -/
def leNat : List Byte → Nat
  | [] => 0
  | b :: t => b.toNat + 256 * leNat t
/-- The little-endian bytes of a number. -/
def leBytes (n x : Nat) : List Byte := (List.range n).map fun i => BitVec.ofNat 8 (x / 256 ^ i)

/-- Absorb one 136-byte block. -/
def absorbBlock (a : List Nat) (b : List Byte) : List Nat :=
  keccak ((List.range 25).map fun i => if i < 17 then lane a i ^^^ leNat ((b.drop (8 * i)).take 8) else lane a i)
def absorbAll (a : List Nat) : Nat → List Byte → List Nat
  | 0, _ => a
  | n + 1, m => absorbAll (absorbBlock a (m.take 136)) n (m.drop 136)
/-- The message padded to a multiple of 136 bytes. -/
def padSha3 (m : List Byte) : List Byte :=
  let k := 136 - m.length % 136
  m ++ (if k = 1 then [0x86#8] else 0x06#8 :: (List.replicate (k - 2) 0 ++ [0x80#8]))
/-- The 32-byte digest. -/
def sha3 (m : List Byte) : List Byte :=
  (absorbAll (List.replicate 25 0) (m.length / 136 + 1) (padSha3 m)).take 4 |>.flatMap (leBytes 8)

end Sys2Proof.Machine
end

