-- ==== Sys2Proof/Machine/Cipher.lean ====
section
/-! DEFINITION. The two symmetric primitives that sealed checkpoints name (R335, R341): KMAC256 over the Keccak of Sha3, and
AES-256-GCM. The spec names them and does not write them out: they are those of SP 800-185, FIPS 197 and SP 800-38D (log 85). -/

namespace Sys2Proof.Machine

/-! KMAC256. -/

/-- The bytes of a number, the high one first, with no zero byte before it; 0 is one byte. -/
def beBytes (x : Nat) : List Byte := (leBytes (max 1 ((List.range 9).countP fun i => decide (256 ^ i ≤ x))) x).reverse
def leftEncode (x : Nat) : List Byte := BitVec.ofNat 8 (beBytes x).length :: beBytes x
def rightEncode (x : Nat) : List Byte := beBytes x ++ [BitVec.ofNat 8 (beBytes x).length]
def encodeString (l : List Byte) : List Byte := leftEncode (8 * l.length) ++ l
/-- Zero bytes up to a multiple of the rate, 136 bytes. -/
def padRate (l : List Byte) : List Byte := l ++ List.replicate ((136 - l.length % 136) % 136) 0
def bytePad (l : List Byte) : List Byte := padRate (leftEncode 136 ++ l)

/-- The message of cSHAKE256 padded to a multiple of the rate. -/
def padShake (m : List Byte) : List Byte :=
  let k := 136 - m.length % 136
  m ++ (if k = 1 then [0x84#8] else 0x04#8 :: (List.replicate (k - 2) 0 ++ [0x80#8]))
/-- KMAC256 of a key, data, an output length of at most 1,088 bits and a customisation string. -/
def kmac256 (key data : List Byte) (bitLen : Nat) (custom : List Byte) : List Byte :=
  let name : List Byte := [0x4B#8, 0x4D#8, 0x41#8, 0x43#8]
  let m := bytePad (encodeString name ++ encodeString custom) ++ bytePad (encodeString key) ++ data ++ rightEncode bitLen
  ((absorbAll (List.replicate 25 0) (m.length / 136 + 1) (padShake m)).flatMap (leBytes 8)).take (bitLen / 8)

/-! AES-256. A block is 16 bytes in order. -/

def xorBytes (a b : List Byte) : List Byte := List.zipWith (· ^^^ ·) a b
/-- Times x in GF(2^8). -/
def xtime (b : Byte) : Byte := (b <<< 1) ^^^ (if b.msb then 0x1B else 0)
def gfMul (a b : Byte) : Byte :=
  ((List.range 8).foldl (fun (p : Byte × Byte) i => (if b.getLsbD i then p.1 ^^^ p.2 else p.1, xtime p.2)) (0, a)).1
/-- The inverse in GF(2^8), 0 of 0: the power 254. -/
def gfInv (a : Byte) : Byte := (List.range 6).foldl (fun r _ => gfMul (gfMul r r) a) a |> fun r => gfMul r r
def subByte (a : Byte) : Byte :=
  let i := gfInv a
  i ^^^ i.rotateLeft 1 ^^^ i.rotateLeft 2 ^^^ i.rotateLeft 3 ^^^ i.rotateLeft 4 ^^^ 0x63
/-- The 60 words of the key schedule, newest first. -/
def aesKeyStep (ws : List (List Byte)) (i : Nat) : List (List Byte) :=
  let t := ws.headD []
  let t := if i % 8 = 0 then
      xorBytes ((t.drop 1 ++ t.take 1).map subByte) [(List.range (i / 8 - 1)).foldl (fun b _ => xtime b) 1, 0, 0, 0]
    else if i % 8 = 4 then t.map subByte else t
  xorBytes (ws.getD 7 []) t :: ws
def aesKeys (key : List Byte) : List (List Byte) :=
  let ws := ((List.range 52).foldl (fun ws i => aesKeyStep ws (i + 8))
    ((List.range 8).map fun i => (key.drop (4 * i)).take 4).reverse).reverse
  (List.range 15).map fun r => ((ws.drop (4 * r)).take 4).flatten
def shiftRows (b : List Byte) : List Byte := (List.range 16).map fun i => b.getD ((i + 4 * (i % 4)) % 16) 0
def mixColumn (c : List Byte) : List Byte :=
  (List.range 4).map fun i =>
    let x (j : Nat) : Byte := c.getD ((i + j) % 4) 0
    xtime (x 0) ^^^ (xtime (x 1) ^^^ x 1) ^^^ x 2 ^^^ x 3
def aesRound (mix : Bool) (b k : List Byte) : List Byte :=
  let b := shiftRows (b.map subByte)
  xorBytes (if mix then (List.range 4).flatMap fun i => mixColumn ((b.drop (4 * i)).take 4) else b) k
def aesBlock (ks : List (List Byte)) (b : List Byte) : List Byte :=
  let b := ((ks.drop 1).take 13).foldl (aesRound true) (xorBytes b (ks.headD []))
  aesRound false b (ks.getD 14 [])

/-! GCM with a 12-byte IV. -/

/-- A block as GHASH's polynomial: a number whose bit 127 is the block's first bit. -/
def ghashNum (b : List Byte) : Nat := leNat b.reverse
def ghashMul (x y : Nat) : Nat :=
  ((List.range 128).foldl (fun (p : Nat × Nat) i =>
    (if x.testBit (127 - i) then p.1 ^^^ p.2 else p.1, if p.2 % 2 = 1 then p.2 / 2 ^^^ 0xE1 * 2 ^ 120 else p.2 / 2)) (0, y)).1
def padBlock (l : List Byte) : List Byte := l ++ List.replicate ((16 - l.length % 16) % 16) 0
def ghash (h : Nat) (l : List Byte) : Nat :=
  (List.range (l.length / 16)).foldl (fun y i => ghashMul (y ^^^ ghashNum ((l.drop (16 * i)).take 16)) h) 0
/-- Counter block i of an IV, encrypted. -/
def gcmPad (ks : List (List Byte)) (iv : List Byte) (i : Nat) : List Byte := aesBlock ks (iv ++ (leBytes 4 i).reverse)
/-- The keystream over some data, which both encrypts and decrypts it. -/
def gcmCrypt (ks : List (List Byte)) (iv data : List Byte) : List Byte :=
  xorBytes data ((List.range ((data.length + 15) / 16)).flatMap fun i => gcmPad ks iv (i + 2))
/-- The 16-byte tag of a ciphertext. -/
def gcmTag (ks : List (List Byte)) (iv aad c : List Byte) : List Byte :=
  let h := ghashNum (aesBlock ks (List.replicate 16 0))
  let s := ghash h (padBlock aad ++ padBlock c ++ (leBytes 8 (8 * aad.length)).reverse ++ (leBytes 8 (8 * c.length)).reverse)
  xorBytes (leBytes 16 s).reverse (gcmPad ks iv 1)
/-- Encryption: ciphertext and tag. -/
def gcmSeal (key iv aad plain : List Byte) : List Byte × List Byte :=
  let ks := aesKeys key
  let c := gcmCrypt ks iv plain
  (c, gcmTag ks iv aad c)
/-- Opening: none where the tag fails. -/
def gcmOpen (key iv aad c tag : List Byte) : Option (List Byte) :=
  let ks := aesKeys key
  if gcmTag ks iv aad c = tag then some (gcmCrypt ks iv c) else none

end Sys2Proof.Machine
end

