-- ==== Sys2Proof/Machine/Kem.lean ====
section
/-! DEFINITION. ML-KEM-768, which sealed checkpoints name for their envelopes (R335, R341, R344). The spec names it and does not write it
out: this is FIPS 203 with k = 3, η1 = η2 = 2, du = 10 and dv = 4, over the Keccak of Sha3 (log 85). Polynomials are lists of 256
coefficients below q. -/

namespace Sys2Proof.Machine

def kyberQ : Nat := 3329

/-! The functions of FIPS 202 that it uses. -/

/-- A message padded with a domain suffix to a multiple of a rate in bytes, of which its last byte's top bit is the end mark. -/
def padTo (rate : Nat) (suffix : Byte) (m : List Byte) : List Byte :=
  let k := rate - m.length % rate
  m ++ (if k = 1 then [suffix ||| 0x80#8] else suffix :: (List.replicate (k - 2) 0 ++ [0x80#8]))
/-- The state after a padded message of `n` blocks. -/
def absorbRate (rate : Nat) (a : List Nat) : Nat → List Byte → List Nat
  | 0, _ => a
  | n + 1, m =>
    let b := m.take rate
    absorbRate rate (keccak ((List.range 25).map fun i => if i < rate / 8 then lane a i ^^^ leNat ((b.drop (8 * i)).take 8) else lane a i)) n (m.drop rate)
/-- `n` blocks of output. -/
def squeeze (rate : Nat) : Nat → List Nat → List Byte
  | 0, _ => []
  | n + 1, a => (a.flatMap (leBytes 8)).take rate ++ squeeze rate n (keccak a)
/-- The first `n` bytes of a sponge's output. -/
def sponge (rate : Nat) (suffix : Byte) (m : List Byte) (n : Nat) : List Byte :=
  (squeeze rate ((n + rate - 1) / rate) (absorbRate rate (List.replicate 25 0) (m.length / rate + 1) (padTo rate suffix m))).take n
def sha3x512 (m : List Byte) : List Byte := sponge 72 0x06 m 64
def shake128 (m : List Byte) (n : Nat) : List Byte := sponge 168 0x1F m n
def shake256 (m : List Byte) (n : Nat) : List Byte := sponge 136 0x1F m n

/-! Coding. -/

/-- The bits of some bytes, and bytes of bits, low bits first. -/
def bitsOfBytes (l : List Byte) : List Nat := l.flatMap fun b => (List.range 8).map fun i => b.toNat / 2 ^ i % 2
/-- Numbers of d bits in the order of their bits. -/
def byteDecode (d : Nat) (l : List Byte) : List Nat :=
  let n := leNat l
  (List.range 256).map fun i => n / 2 ^ (d * i) % 2 ^ d
/-- 256 numbers of d bits as 32 d bytes. -/
def byteEncode (d : Nat) (f : List Nat) : List Byte := leBytes (32 * d) (f.foldr (fun x n => x % 2 ^ d + 2 ^ d * n) 0)
/-- Rounding to d bits, and back. -/
def compress (d x : Nat) : Nat := (2 * 2 ^ d * x + kyberQ) / (2 * kyberQ) % 2 ^ d
def decompress (d y : Nat) : Nat := (2 * kyberQ * y + 2 ^ d) / (2 * 2 ^ d)

/-! Sampling. -/

/-- Coefficients below q from a stream of bytes, three at a time. -/
def rejectQ : List Byte → List Nat
  | a :: b :: c :: t =>
    let x := a.toNat + 256 * (b.toNat % 16)
    let y := b.toNat / 16 + 16 * c.toNat
    (if x < kyberQ then [x] else []) ++ (if y < kyberQ then [y] else []) ++ rejectQ t
  | _ => []
/-- A polynomial in NTT form from a seed: of the stream as many blocks are read as give 256 coefficients; `fuel` bounds them. -/
def sampleNtt (seed : List Byte) : Nat → Nat → List Nat
  | 0, n => (rejectQ (shake128 seed (168 * n))).take 256
  | fuel + 1, n => let l := rejectQ (shake128 seed (168 * n)); if 256 ≤ l.length then l.take 256 else sampleNtt seed fuel (n + 1)
/-- A polynomial with the centred binomial distribution of η = 2, from the pseudo-random bytes of a seed and a number. -/
def sampleCbd (seed : List Byte) (n : Nat) : List Nat :=
  let b := bitsOfBytes (shake256 (seed ++ [BitVec.ofNat 8 n]) 128)
  (List.range 256).map fun i =>
    let x (j : Nat) : Nat := b.getD (4 * i + j) 0
    (x 0 + x 1 + kyberQ - x 2 - x 3) % kyberQ

/-! Arithmetic. -/

def polyAdd (f g : List Nat) : List Nat := List.zipWith (fun x y => (x + y) % kyberQ) f g
def polySub (f g : List Nat) : List Nat := List.zipWith (fun x y => (x + kyberQ - y) % kyberQ) f g
/-- The number of seven bits in the other order. -/
def bitRev7 (i : Nat) : Nat := (List.range 7).foldl (fun n k => n + i / 2 ^ k % 2 * 2 ^ (6 - k)) 0
/-- A power of 17, a primitive 256th root of unity, by the bits of the exponent. -/
def zetaPow (e : Nat) : Nat :=
  ((List.range 8).foldl (fun (p : Nat × Nat) i => (if e / 2 ^ i % 2 = 1 then p.1 * p.2 % kyberQ else p.1, p.2 * p.2 % kyberQ)) (1, 17)).1
/-- One layer of the transform, over blocks of 2 × len coefficients. -/
def nttLayer (f : List Nat) (len : Nat) : List Nat :=
  (List.range 256).map fun p =>
    let z := zetaPow (bitRev7 (128 / len + p / (2 * len)))
    if p % (2 * len) < len then (f.getD p 0 + z * f.getD (p + len) 0) % kyberQ
    else (f.getD (p - len) 0 + (kyberQ - z) * f.getD p 0) % kyberQ
def nttInvLayer (f : List Nat) (len : Nat) : List Nat :=
  (List.range 256).map fun p =>
    let z := zetaPow (bitRev7 (256 / len - 1 - p / (2 * len)))
    if p % (2 * len) < len then (f.getD p 0 + f.getD (p + len) 0) % kyberQ
    else z * (f.getD p 0 + kyberQ - f.getD (p - len) 0) % kyberQ
def ntt (f : List Nat) : List Nat := [128, 64, 32, 16, 8, 4, 2].foldl nttLayer f
def nttInv (f : List Nat) : List Nat := ([2, 4, 8, 16, 32, 64, 128].foldl nttInvLayer f).map fun x => x * 3303 % kyberQ
/-- The product of two transformed polynomials. -/
def nttMul (f g : List Nat) : List Nat :=
  (List.range 128).flatMap fun i =>
    let a0 := f.getD (2 * i) 0
    let a1 := f.getD (2 * i + 1) 0
    let b0 := g.getD (2 * i) 0
    let b1 := g.getD (2 * i + 1) 0
    [(a0 * b0 + a1 * b1 % kyberQ * zetaPow (2 * bitRev7 i + 1)) % kyberQ, (a0 * b1 + a1 * b0) % kyberQ]
/-- The sum of the products of two vectors of transformed polynomials. -/
def nttDot (a b : List (List Nat)) : List Nat := (List.zipWith nttMul a b).foldl polyAdd (List.replicate 256 0)
/-- Entry i, j of the matrix of a seed. -/
def matrixAt (rho : List Byte) (i j : Nat) : List Nat := sampleNtt (rho ++ [BitVec.ofNat 8 j, BitVec.ofNat 8 i]) 16 3

/-! The public-key scheme. -/

/-- The encryption key and the secret vector, transformed, of a 32-byte seed. -/
def pkeKeyGen (d : List Byte) : List Byte × List (List Nat) :=
  let g := sha3x512 (d ++ [3#8])
  let rho := g.take 32
  let sigma := g.drop 32
  let s := (List.range 3).map fun i => ntt (sampleCbd sigma i)
  let t := (List.range 3).map fun i => polyAdd (nttDot ((List.range 3).map (matrixAt rho i)) s) (ntt (sampleCbd sigma (3 + i)))
  (t.flatMap (byteEncode 12) ++ rho, s)
/-- Encryption of 32 bytes with 32 bytes of randomness. -/
def pkeEncrypt (ek m r : List Byte) : List Byte :=
  let t := (List.range 3).map fun i => (byteDecode 12 ((ek.drop (384 * i)).take 384)).map (· % kyberQ)
  let rho := (ek.drop 1152).take 32
  let y := (List.range 3).map fun i => ntt (sampleCbd r i)
  let u := (List.range 3).map fun i => polyAdd (nttInv (nttDot ((List.range 3).map fun j => matrixAt rho j i) y)) (sampleCbd r (3 + i))
  let v := polyAdd (polyAdd (nttInv (nttDot t y)) (sampleCbd r 6)) ((byteDecode 1 m).map (decompress 1))
  u.flatMap (fun f => byteEncode 10 (f.map (compress 10))) ++ byteEncode 4 (v.map (compress 4))
def pkeDecrypt (s : List (List Nat)) (c : List Byte) : List Byte :=
  let u := (List.range 3).map fun i => (byteDecode 10 ((c.drop (320 * i)).take 320)).map (decompress 10)
  let v := (byteDecode 4 (c.drop 960)).map (decompress 4)
  byteEncode 1 ((polySub v (nttInv (nttDot s (u.map ntt)))).map (compress 1))

/-! The key-encapsulation mechanism. -/

/-- The encapsulation key of the pair of a 64-byte seed (R335). -/
def kemPublic (seed : List Byte) : List Byte := (pkeKeyGen (seed.take 32)).1
/-- Encapsulation under a key with 32 random bytes: the shared secret and the ciphertext of 1,088 bytes (R341). -/
def kemEncaps (ek m : List Byte) : List Byte × List Byte :=
  let g := sha3x512 (m ++ sha3 ek)
  (g.take 32, pkeEncrypt ek m (g.drop 32))
/-- Decapsulation with the pair of a seed; a ciphertext that does not encrypt again to itself gives a secret of its own (R344). -/
def kemDecaps (seed c : List Byte) : List Byte :=
  let k := pkeKeyGen (seed.take 32)
  let m := pkeDecrypt k.2 c
  let g := sha3x512 (m ++ sha3 k.1)
  if pkeEncrypt k.1 m (g.drop 32) = c then g.take 32 else shake256 (seed.drop 32 ++ c) 32

end Sys2Proof.Machine
end

