-- ==== Sys2Proof/Decode.lean ====
section
/-! DEFINITION. Decoding a chain of halfwords, total on any halfwords, and the encoder written from the same tables
(R39 to R51). The decoder makes the first three checks of R49; the fourth depends on the core and stands in `Form.legal`. Definitions that build a constructor past
the 245th with fields are marked noncomputable, the limit of Lean's code generator; the kernel evaluates them. -/

namespace Sys2Proof

/-- What decoding a chain gives: an instruction and its length in halfwords, or a reject by name. -/
inductive Decoded (α : Type) where
  | instr (i : α) (len : Nat)
  /-- R49 steps 2 and 3: the reserved-code fate, with PAGE : OPC -/
  | reserved (code : BitVec 11) (len : Nat)
  /-- R49 step 1: the illegal fate -/
  | illegal (len : Nat)
  /-- the halfwords end before the chain does -/
  | short
  deriving DecidableEq, Repr

/-- MAJOR and the 11 low bits of a halfword (R39, R40). -/
def majorOf (h : Half) : Nat := h.toNat / 2048
def payload (h : Half) : Nat := h.toNat % 2048

/-- A halfword of MAJOR 0 to 27 ends an instruction (R39). -/
def isBase (h : Half) : Bool := majorOf h < 28

/-- A page prefix's PAGE and OPC (R41), and the fields of the other prefixes (R42, R44, R45). -/
def regOf (p : Nat) : RegPrefix :=
  { dhi := p / 1024 % 2 == 1, shi := p / 512 % 2 == 1, tsrc := BitVec.ofNat 5 (p / 16), pneg := p / 8 % 2 == 1,
    psel := BitVec.ofNat 3 p }
def modOf (p : Nat) : ModPrefix :=
  { fmt := BitVec.ofNat 4 (p / 128), rnd := BitVec.ofNat 3 (p / 16), scope := BitVec.ofNat 3 (p / 2), sat := p % 2 == 1 }

/-- The prefixes read so far. -/
structure Prefixes where
  page : Option Nat
  reg : Option RegPrefix
  mod : Option ModPrefix
  imm : List (BitVec 11)
  deriving DecidableEq, Repr

/-- One more prefix: ascending MAJOR, the immediates repeated up to three times (R46). -/
def Prefixes.add (a : Prefixes) (h : Half) : Option Prefixes :=
  let p := payload h
  match majorOf h with
  | 28 => if a.page.isSome || a.reg.isSome || a.mod.isSome || a.imm != [] then none else some { a with page := some p }
  | 29 => if a.reg.isSome || a.mod.isSome || a.imm != [] then none else some { a with reg := some (regOf p) }
  | 30 => if a.mod.isSome || a.imm != [] then none else some { a with mod := some (modOf p) }
  | _ => if 3 ≤ a.imm.length then none else some { a with imm := a.imm ++ [BitVec.ofNat 11 p] }

/-- The prefixes in address order. -/
def Prefixes.ofList : List Half → Prefixes → Option Prefixes
  | [], a => some a
  | h :: t, a => (a.add h).bind (Prefixes.ofList t)

/-- The halfwords of a chain: those before its base word or its fifth prefix, and that last one (R46). -/
def takeChain : Nat → List Half → Option (List Half × Half)
  | _, [] => none
  | 0, h :: _ => some ([], h)
  | n + 1, h :: t => if isBase h then some ([], h) else (takeChain n t).map fun r => (h :: r.1, r.2)

def page0a (f : Fields) : List (Nat × Instr) := [
  (0x00, .add f),
  (0x01, .sub f),
  (0x02, .and f),
  (0x03, .or f),
  (0x04, .xor f),
  (0x05, .andn f),
  (0x06, .shl f),
  (0x07, .shr f),
  (0x08, .sra f),
  (0x09, .mul f),
  (0x0A, .mulhs f),
  (0x0B, .mulhn f),
  (0x0C, .divs f),
  (0x0D, .divn f),
  (0x0E, .rems f),
  (0x0F, .remn f),
  (0x10, .min f),
  (0x11, .max f),
  (0x12, .minn f),
  (0x13, .maxn f),
  (0x14, .addi f),
  (0x15, .andi f),
  (0x16, .ori f),
  (0x17, .xori f)]
def page0b (f : Fields) : List (Nat × Instr) := [
  (0x18, .shli f),
  (0x19, .shri f),
  (0x1A, .srai f),
  (0x1B, .muli f),
  (0x1C, .mov f),
  (0x1D, .movi f),
  (0x1E, .movhi f),
  (0x1F, .lea f),
  (0x20, .sel f),
  (0x21, .sext f),
  (0x22, .zext f),
  (0x23, .bfx f),
  (0x24, .bfxn f),
  (0x25, .bfi f),
  (0x26, .clz f),
  (0x27, .ctz f),
  (0x28, .popc f),
  (0x29, .cmpeq f),
  (0x2A, .cmpne f),
  (0x2B, .cmplt f),
  (0x2C, .cmple f),
  (0x2D, .cmpltn f),
  (0x2E, .cmplen f),
  (0x2F, .tst f)]
def page0c (f : Fields) : List (Nat × Instr) := [
  (0x30, .pand f),
  (0x31, .por f),
  (0x32, .pxor f),
  (0x33, .pandn f),
  (0x34, .pnot f),
  (0x35, .pset f),
  (0x36, .pclr f),
  (0x37, .pmov f),
  (0x38, .br f),
  (0x39, .jmp f),
  (0x3A, .call f),
  (0x3B, .callr f),
  (0x3C, .ret f),
  (0x3D, .enter f),
  (0x3E, .leave f),
  (0x3F, .loop f),
  (0x40, .brz f),
  (0x41, .brnz f),
  (0x42, .loopset f),
  (0x43, .loopend f),
  (0x44, .nop f),
  (0x48, .fadd f),
  (0x49, .fsub f),
  (0x4A, .fmul f)]
def page0d (f : Fields) : List (Nat × Instr) := [
  (0x4B, .fdiv f),
  (0x4C, .fsqrt f),
  (0x4D, .fma f),
  (0x4E, .fmin f),
  (0x4F, .fmax f),
  (0x50, .fneg f),
  (0x51, .fabs f),
  (0x52, .fsgn f),
  (0x53, .fcmpeq f),
  (0x54, .fcmplt f),
  (0x55, .fcmple f),
  (0x56, .fclass f),
  (0x57, .fmov f),
  (0x58, .fcvt f),
  (0x59, .fcvti f),
  (0x5A, .icvtf f),
  (0x5B, .fmvfs f),
  (0x5C, .fmvsf f),
  (0x5D, .fsel f),
  (0x5E, .frnd f)]
/-- Page 0 of the opcode map (R52). -/
def page0 (f : Fields) : List (Nat × Instr) := page0a f ++ page0b f ++ page0c f ++ page0d f

def page1a (f : Fields) : List (Nat × Instr) := [
  (0x00, .vadd f),
  (0x01, .vsub f),
  (0x02, .vmul f),
  (0x03, .vmulh f),
  (0x04, .vmin f),
  (0x05, .vmax f),
  (0x06, .vabs f),
  (0x07, .vneg f),
  (0x08, .vand f),
  (0x09, .vor f),
  (0x0A, .vxor f),
  (0x0B, .vandn f),
  (0x0C, .vshl f),
  (0x0D, .vshr f),
  (0x0E, .vsra f),
  (0x0F, .vnot f),
  (0x10, .vfadd f),
  (0x11, .vfsub f),
  (0x12, .vfmul f),
  (0x13, .vfdiv f),
  (0x14, .vfma f),
  (0x15, .vfms f),
  (0x16, .vfmin f),
  (0x17, .vfmax f)]
def page1b (f : Fields) : List (Nat × Instr) := [
  (0x18, .vfabs f),
  (0x19, .vfneg f),
  (0x1A, .vfsqrt f),
  (0x1B, .vrcp f),
  (0x1C, .vrsq f),
  (0x1D, .vexp2 f),
  (0x1E, .vlog2 f),
  (0x1F, .vsel f),
  (0x20, .vcmpeq f),
  (0x21, .vcmplt f),
  (0x22, .vcmple f),
  (0x23, .vfcmpeq f),
  (0x24, .vfcmplt f),
  (0x25, .vfcmple f),
  (0x26, .vredsum f),
  (0x27, .vredmax f),
  (0x28, .vredmin f),
  (0x29, .vfredsum f),
  (0x2A, .vfredmax f),
  (0x2B, .vfredmin f),
  (0x2C, .vperm f),
  (0x2D, .vslide f),
  (0x2E, .vzip f),
  (0x2F, .vunzip f)]
def page1c (f : Fields) : List (Nat × Instr) := [
  (0x30, .vmov f),
  (0x31, .vsplat f),
  (0x32, .vext f),
  (0x33, .vins f)]
/-- Page 1 of the opcode map (R53). -/
def page1 (f : Fields) : List (Nat × Instr) := page1a f ++ page1b f ++ page1c f

def page2a (f : Fields) : List (Nat × Instr) := [
  (0x00, .push f),
  (0x01, .pop f),
  (0x02, .popq f),
  (0x03, .engst f),
  (0x04, .engabort f),
  (0x05, .slotld f),
  (0x06, .rowprog f),
  (0x07, .cbload f),
  (0x08, .mcmd f),
  (0x09, .gcmd f),
  (0x0A, .xcmd f),
  (0x0B, .scmd f),
  (0x0C, .ccmd f),
  (0x0D, .cmdset f),
  (0x0E, .cmdvc f),
  (0x0F, .cmdadr f),
  (0x10, .mtld f),
  (0x11, .mtst f),
  (0x12, .mtmma f),
  (0x13, .mtzero f),
  (0x14, .mtadd f),
  (0x15, (if f.aux.toNat = 1 then .mtmovRowIn f else if f.aux.toNat = 2 then .mtmovRowOut f else .mtmov f)),
  (0x16, .mtcvt f),
  (0x17, .mtred f)]
/-- Page 2 of the opcode map (R54). -/
def page2 (f : Fields) : List (Nat × Instr) := page2a f

def page4a (f : Fields) : List (Nat × Instr) := [
  (0x00, .ld8 f),
  (0x01, .ld8s f),
  (0x02, .ld16 f),
  (0x03, .ld16s f),
  (0x04, .ld32 f),
  (0x05, .ld32s f),
  (0x06, .ld64 f),
  (0x07, .ldf f),
  (0x08, .st8 f),
  (0x09, .st16 f),
  (0x0A, .st32 f),
  (0x0B, .st64 f),
  (0x0C, .stf f),
  (0x0D, .vld f),
  (0x0E, .vst f),
  (0x0F, .vlds f),
  (0x10, .vsts f),
  (0x11, .pf f),
  (0x12, .pfw f),
  (0x13, .qld f),
  (0x14, .qst f),
  (0x15, .qvld f),
  (0x16, .chunkEnd f),
  (0x17, .fence f)]
def page4b (f : Fields) : List (Nat × Instr) := [
  (0x18, .amoadd f),
  (0x19, .amoand f),
  (0x1A, .amoor f),
  (0x1B, .amoxor f),
  (0x1C, .amomin f),
  (0x1D, .amomax f),
  (0x1E, .amominn f),
  (0x1F, .amomaxn f),
  (0x20, .amoswp f),
  (0x21, .amocas f)]
/-- Page 4 of the opcode map (R56). -/
def page4 (f : Fields) : List (Nat × Instr) := page4a f ++ page4b f

def page5a (f : Fields) : List (Nat × Instr) := [
  (0x00, .mark f),
  (0x01, .cut f),
  (0x02, .graft f),
  (0x03, .slfree f),
  (0x04, .slinfo f),
  (0x05, .unmark f),
  (0x08, .bar f),
  (0x09, .voteAll f),
  (0x0A, .voteAny f),
  (0x0B, .voteSum f),
  (0x0C, .wait f),
  (0x0D, .arrive f),
  (0x0E, .trig f),
  (0x0F, .ttsel f),
  (0x10, .ttld f),
  (0x11, .ttgo f),
  (0x12, .ttst f),
  (0x13, .cclr f),
  (0x14, .split f),
  (0x15, .fuse f),
  (0x18, .trap f),
  (0x19, .rte f),
  (0x1A, .csrr f),
  (0x1B, .csrw f)]
def page5b (f : Fields) : List (Nat × Instr) := [
  (0x1C, .csrs f),
  (0x1D, .csrc f),
  (0x1E, .tlbw f),
  (0x1F, .tlbinv f),
  (0x20, .start f),
  (0x21, .join f),
  (0x22, .park f),
  (0x23, .jenq f),
  (0x24, .workq f),
  (0x25, .brk f)]
/-- Page 5 of the opcode map (R57). -/
def page5 (f : Fields) : List (Nat × Instr) := page5a f ++ page5b f

noncomputable def page6a (f : Fields) : List (Nat × Instr) := [
  (0x00, (if f.aux.toNat % 4 = 0 then .restrPut f else .restrCollect f)),
  (0x01, (if f.aux.toNat % 4 = 0 then .prolgAdd f else .prolgPut f)),
  (0x02, .restrf f),
  (0x03, .prolgf f),
  (0x04, .rwld f),
  (0x05, .pwld f),
  (0x06, .wsel f),
  (0x07, .layq f)]
/-- Page 6 of the opcode map (R58). -/
noncomputable def page6 (f : Fields) : List (Nat × Instr) := page6a f

/-- Page 3: class and pair code (R55). -/
def page3 (opc : Nat) (f : Fields) : Option Instr :=
  let pair := BitVec.ofNat 5 opc
  let code := opc % 32
  match opc / 32 with
  | 0 => if code < 20 then some (.vdot pair f) else none
  | 1 => if 20 ≤ code then some (.vcvtn pair f) else none
  | 2 => if 20 ≤ code then some (.vcvtw pair f) else none
  | 3 => if code < 20 then some (.mma pair f) else none
  | _ => none

/-- The value at a key of a list of rows. -/
def rowAt {α : Type} (k : Nat) : List (Nat × α) → Option α
  | [] => none
  | (i, x) :: t => if k = i then some x else rowAt k t

/-- The instruction of an opcode with its fields; none where the opcode is not allocated (R51). -/
noncomputable def opcode (page opc : Nat) (f : Fields) : Option Instr :=
  match page with
  | 0 => rowAt opc (page0 f)
  | 1 => rowAt opc (page1 f)
  | 2 => rowAt opc (page2 f)
  | 3 => page3 opc f
  | 4 => rowAt opc (page4 f)
  | 5 => rowAt opc (page5 f)
  | 6 => rowAt opc (page6 f)
  | _ => none

/-- R49 step 3: FMT is not 15, RND and SCOPE are not 6 or 7. -/
def modReserved (m : Option ModPrefix) : Bool :=
  match m with
  | some m => m.fmt.toNat == 15 || 6 ≤ m.rnd.toNat || 6 ≤ m.scope.toNat
  | none => false

/-- The checks of R49 steps 1 to 3 on a whole chain, its opcode and fields read by `read`. -/
def classifyAs {α : Type} (read : Nat → Nat → Fields → Option α) (pre : List Half) (base : Half) : Decoded α :=
  let len := pre.length + 1
  match Prefixes.ofList pre ⟨none, none, none, []⟩ with
  | none => .illegal len
  | some a =>
    if !isBase base then .illegal len
    else
      let b := payload base
      let dst := BitVec.ofNat 4 (b / 128)
      let src := BitVec.ofNat 4 (b / 8)
      match a.page with
      | none =>
        if majorOf base = 27 then .illegal len
        else
          let opc := majorOf base * 8 + b % 8
          match read 0 opc ⟨dst, src, 0, a.reg, a.mod, a.imm⟩ with
          | none => .reserved (BitVec.ofNat 11 opc) len
          | some i => if modReserved a.mod then .reserved (BitVec.ofNat 11 opc) len else .instr i len
      | some p =>
        if majorOf base ≠ 27 || p / 256 = 0 then .illegal len
        else
          match read (p / 256) (p % 256) ⟨dst, src, BitVec.ofNat 3 b, a.reg, a.mod, a.imm⟩ with
          | none => .reserved (BitVec.ofNat 11 p) len
          | some i => if modReserved a.mod then .reserved (BitVec.ofNat 11 p) len else .instr i len

/-- Decode the chain that starts a list of halfwords; a fifth prefix makes it illegal at once (R46). -/
def decodeAs {α : Type} (read : Nat → Nat → Fields → Option α) (l : List Half) : Decoded α :=
  match takeChain 4 l with
  | none => .short
  | some (pre, base) => classifyAs read pre base

/-- The instruction that starts a list of halfwords. -/
noncomputable def decode (l : List Half) : Decoded Instr := decodeAs opcode l

/-- The step that a decoded chain asks for, with its length; none where the chain is cut short. -/
noncomputable def Decoded.step : Decoded Instr → Option (Instr × Nat)
  | .instr i n => some (i, n)
  | .reserved c n => some (.reservedOpcode c, n)
  | .illegal n => some (.illegalChain, n)
  | .short => none

/-- PAGE, OPC and the fields of an instruction (R51 to R58); none for what has no words. -/
def Instr.key : Instr → Option (Nat × Nat × Fields)
  | .add f => some (0, 0x00, f)
  | .sub f => some (0, 0x01, f)
  | .and f => some (0, 0x02, f)
  | .or f => some (0, 0x03, f)
  | .xor f => some (0, 0x04, f)
  | .andn f => some (0, 0x05, f)
  | .shl f => some (0, 0x06, f)
  | .shr f => some (0, 0x07, f)
  | .sra f => some (0, 0x08, f)
  | .mul f => some (0, 0x09, f)
  | .mulhs f => some (0, 0x0A, f)
  | .mulhn f => some (0, 0x0B, f)
  | .divs f => some (0, 0x0C, f)
  | .divn f => some (0, 0x0D, f)
  | .rems f => some (0, 0x0E, f)
  | .remn f => some (0, 0x0F, f)
  | .min f => some (0, 0x10, f)
  | .max f => some (0, 0x11, f)
  | .minn f => some (0, 0x12, f)
  | .maxn f => some (0, 0x13, f)
  | .addi f => some (0, 0x14, f)
  | .andi f => some (0, 0x15, f)
  | .ori f => some (0, 0x16, f)
  | .xori f => some (0, 0x17, f)
  | .shli f => some (0, 0x18, f)
  | .shri f => some (0, 0x19, f)
  | .srai f => some (0, 0x1A, f)
  | .muli f => some (0, 0x1B, f)
  | .mov f => some (0, 0x1C, f)
  | .movi f => some (0, 0x1D, f)
  | .movhi f => some (0, 0x1E, f)
  | .lea f => some (0, 0x1F, f)
  | .sel f => some (0, 0x20, f)
  | .sext f => some (0, 0x21, f)
  | .zext f => some (0, 0x22, f)
  | .bfx f => some (0, 0x23, f)
  | .bfxn f => some (0, 0x24, f)
  | .bfi f => some (0, 0x25, f)
  | .clz f => some (0, 0x26, f)
  | .ctz f => some (0, 0x27, f)
  | .popc f => some (0, 0x28, f)
  | .cmpeq f => some (0, 0x29, f)
  | .cmpne f => some (0, 0x2A, f)
  | .cmplt f => some (0, 0x2B, f)
  | .cmple f => some (0, 0x2C, f)
  | .cmpltn f => some (0, 0x2D, f)
  | .cmplen f => some (0, 0x2E, f)
  | .tst f => some (0, 0x2F, f)
  | .pand f => some (0, 0x30, f)
  | .por f => some (0, 0x31, f)
  | .pxor f => some (0, 0x32, f)
  | .pandn f => some (0, 0x33, f)
  | .pnot f => some (0, 0x34, f)
  | .pset f => some (0, 0x35, f)
  | .pclr f => some (0, 0x36, f)
  | .pmov f => some (0, 0x37, f)
  | .br f => some (0, 0x38, f)
  | .jmp f => some (0, 0x39, f)
  | .call f => some (0, 0x3A, f)
  | .callr f => some (0, 0x3B, f)
  | .ret f => some (0, 0x3C, f)
  | .enter f => some (0, 0x3D, f)
  | .leave f => some (0, 0x3E, f)
  | .loop f => some (0, 0x3F, f)
  | .brz f => some (0, 0x40, f)
  | .brnz f => some (0, 0x41, f)
  | .loopset f => some (0, 0x42, f)
  | .loopend f => some (0, 0x43, f)
  | .nop f => some (0, 0x44, f)
  | .fadd f => some (0, 0x48, f)
  | .fsub f => some (0, 0x49, f)
  | .fmul f => some (0, 0x4A, f)
  | .fdiv f => some (0, 0x4B, f)
  | .fsqrt f => some (0, 0x4C, f)
  | .fma f => some (0, 0x4D, f)
  | .fmin f => some (0, 0x4E, f)
  | .fmax f => some (0, 0x4F, f)
  | .fneg f => some (0, 0x50, f)
  | .fabs f => some (0, 0x51, f)
  | .fsgn f => some (0, 0x52, f)
  | .fcmpeq f => some (0, 0x53, f)
  | .fcmplt f => some (0, 0x54, f)
  | .fcmple f => some (0, 0x55, f)
  | .fclass f => some (0, 0x56, f)
  | .fmov f => some (0, 0x57, f)
  | .fcvt f => some (0, 0x58, f)
  | .fcvti f => some (0, 0x59, f)
  | .icvtf f => some (0, 0x5A, f)
  | .fmvfs f => some (0, 0x5B, f)
  | .fmvsf f => some (0, 0x5C, f)
  | .fsel f => some (0, 0x5D, f)
  | .frnd f => some (0, 0x5E, f)
  | .reservedOpcode _ => none
  | .illegalChain => none
  | .vadd f => some (1, 0x00, f)
  | .vsub f => some (1, 0x01, f)
  | .vmul f => some (1, 0x02, f)
  | .vmulh f => some (1, 0x03, f)
  | .vmin f => some (1, 0x04, f)
  | .vmax f => some (1, 0x05, f)
  | .vabs f => some (1, 0x06, f)
  | .vneg f => some (1, 0x07, f)
  | .vand f => some (1, 0x08, f)
  | .vor f => some (1, 0x09, f)
  | .vxor f => some (1, 0x0A, f)
  | .vandn f => some (1, 0x0B, f)
  | .vshl f => some (1, 0x0C, f)
  | .vshr f => some (1, 0x0D, f)
  | .vsra f => some (1, 0x0E, f)
  | .vnot f => some (1, 0x0F, f)
  | .vfadd f => some (1, 0x10, f)
  | .vfsub f => some (1, 0x11, f)
  | .vfmul f => some (1, 0x12, f)
  | .vfdiv f => some (1, 0x13, f)
  | .vfma f => some (1, 0x14, f)
  | .vfms f => some (1, 0x15, f)
  | .vfmin f => some (1, 0x16, f)
  | .vfmax f => some (1, 0x17, f)
  | .vfabs f => some (1, 0x18, f)
  | .vfneg f => some (1, 0x19, f)
  | .vfsqrt f => some (1, 0x1A, f)
  | .vrcp f => some (1, 0x1B, f)
  | .vrsq f => some (1, 0x1C, f)
  | .vexp2 f => some (1, 0x1D, f)
  | .vlog2 f => some (1, 0x1E, f)
  | .vsel f => some (1, 0x1F, f)
  | .vcmpeq f => some (1, 0x20, f)
  | .vcmplt f => some (1, 0x21, f)
  | .vcmple f => some (1, 0x22, f)
  | .vfcmpeq f => some (1, 0x23, f)
  | .vfcmplt f => some (1, 0x24, f)
  | .vfcmple f => some (1, 0x25, f)
  | .vredsum f => some (1, 0x26, f)
  | .vredmax f => some (1, 0x27, f)
  | .vredmin f => some (1, 0x28, f)
  | .vfredsum f => some (1, 0x29, f)
  | .vfredmax f => some (1, 0x2A, f)
  | .vfredmin f => some (1, 0x2B, f)
  | .vperm f => some (1, 0x2C, f)
  | .vslide f => some (1, 0x2D, f)
  | .vzip f => some (1, 0x2E, f)
  | .vunzip f => some (1, 0x2F, f)
  | .vmov f => some (1, 0x30, f)
  | .vsplat f => some (1, 0x31, f)
  | .vext f => some (1, 0x32, f)
  | .vins f => some (1, 0x33, f)
  | .vdot pair f => some (3, 0 * 32 + pair.toNat, f)
  | .vcvtn pair f => some (3, 1 * 32 + pair.toNat, f)
  | .vcvtw pair f => some (3, 2 * 32 + pair.toNat, f)
  | .push f => some (2, 0x00, f)
  | .pop f => some (2, 0x01, f)
  | .popq f => some (2, 0x02, f)
  | .engst f => some (2, 0x03, f)
  | .engabort f => some (2, 0x04, f)
  | .slotld f => some (2, 0x05, f)
  | .rowprog f => some (2, 0x06, f)
  | .cbload f => some (2, 0x07, f)
  | .mcmd f => some (2, 0x08, f)
  | .gcmd f => some (2, 0x09, f)
  | .xcmd f => some (2, 0x0A, f)
  | .scmd f => some (2, 0x0B, f)
  | .ccmd f => some (2, 0x0C, f)
  | .cmdset f => some (2, 0x0D, f)
  | .cmdvc f => some (2, 0x0E, f)
  | .cmdadr f => some (2, 0x0F, f)
  | .mma pair f => some (3, 3 * 32 + pair.toNat, f)
  | .mtld f => some (2, 0x10, f)
  | .mtst f => some (2, 0x11, f)
  | .mtmma f => some (2, 0x12, f)
  | .mtzero f => some (2, 0x13, f)
  | .mtadd f => some (2, 0x14, f)
  | .mtmov f => some (2, 0x15, f)
  | .mtmovRowIn f => some (2, 0x15, f)
  | .mtmovRowOut f => some (2, 0x15, f)
  | .mtcvt f => some (2, 0x16, f)
  | .mtred f => some (2, 0x17, f)
  | .ld8 f => some (4, 0x00, f)
  | .ld8s f => some (4, 0x01, f)
  | .ld16 f => some (4, 0x02, f)
  | .ld16s f => some (4, 0x03, f)
  | .ld32 f => some (4, 0x04, f)
  | .ld32s f => some (4, 0x05, f)
  | .ld64 f => some (4, 0x06, f)
  | .ldf f => some (4, 0x07, f)
  | .st8 f => some (4, 0x08, f)
  | .st16 f => some (4, 0x09, f)
  | .st32 f => some (4, 0x0A, f)
  | .st64 f => some (4, 0x0B, f)
  | .stf f => some (4, 0x0C, f)
  | .vld f => some (4, 0x0D, f)
  | .vst f => some (4, 0x0E, f)
  | .vlds f => some (4, 0x0F, f)
  | .vsts f => some (4, 0x10, f)
  | .pf f => some (4, 0x11, f)
  | .pfw f => some (4, 0x12, f)
  | .qld f => some (4, 0x13, f)
  | .qst f => some (4, 0x14, f)
  | .qvld f => some (4, 0x15, f)
  | .chunkEnd f => some (4, 0x16, f)
  | .fence f => some (4, 0x17, f)
  | .amoadd f => some (4, 0x18, f)
  | .amoand f => some (4, 0x19, f)
  | .amoor f => some (4, 0x1A, f)
  | .amoxor f => some (4, 0x1B, f)
  | .amomin f => some (4, 0x1C, f)
  | .amomax f => some (4, 0x1D, f)
  | .amominn f => some (4, 0x1E, f)
  | .amomaxn f => some (4, 0x1F, f)
  | .amoswp f => some (4, 0x20, f)
  | .amocas f => some (4, 0x21, f)
  | .mark f => some (5, 0x00, f)
  | .cut f => some (5, 0x01, f)
  | .graft f => some (5, 0x02, f)
  | .slfree f => some (5, 0x03, f)
  | .slinfo f => some (5, 0x04, f)
  | .unmark f => some (5, 0x05, f)
  | .bar f => some (5, 0x08, f)
  | .voteAll f => some (5, 0x09, f)
  | .voteAny f => some (5, 0x0A, f)
  | .voteSum f => some (5, 0x0B, f)
  | .wait f => some (5, 0x0C, f)
  | .arrive f => some (5, 0x0D, f)
  | .trig f => some (5, 0x0E, f)
  | .ttsel f => some (5, 0x0F, f)
  | .ttld f => some (5, 0x10, f)
  | .ttgo f => some (5, 0x11, f)
  | .ttst f => some (5, 0x12, f)
  | .cclr f => some (5, 0x13, f)
  | .split f => some (5, 0x14, f)
  | .fuse f => some (5, 0x15, f)
  | .trap f => some (5, 0x18, f)
  | .rte f => some (5, 0x19, f)
  | .csrr f => some (5, 0x1A, f)
  | .csrw f => some (5, 0x1B, f)
  | .csrs f => some (5, 0x1C, f)
  | .csrc f => some (5, 0x1D, f)
  | .tlbw f => some (5, 0x1E, f)
  | .tlbinv f => some (5, 0x1F, f)
  | .start f => some (5, 0x20, f)
  | .join f => some (5, 0x21, f)
  | .park f => some (5, 0x22, f)
  | .jenq f => some (5, 0x23, f)
  | .workq f => some (5, 0x24, f)
  | .brk f => some (5, 0x25, f)
  | .restrPut f => some (6, 0x00, f)
  | .restrCollect f => some (6, 0x00, f)
  | .prolgAdd f => some (6, 0x01, f)
  | .prolgPut f => some (6, 0x01, f)
  | .restrf f => some (6, 0x02, f)
  | .prolgf f => some (6, 0x03, f)
  | .rwld f => some (6, 0x04, f)
  | .pwld f => some (6, 0x05, f)
  | .wsel f => some (6, 0x06, f)
  | .layq f => some (6, 0x07, f)
  | .matrixMul _ _ => none
  | .matrixClear _ _ => none
  | .matrixMarker _ _ => none
  | .codebookItem _ _ => none
  | .gather _ _ => none
  | .gmul _ _ => none
  | .copy _ _ => none
  | .mcast _ _ => none
  | .fill _ _ => none
  | .topk _ _ => none
  | .csum _ _ => none
  | .engineCompletion _ _ _ => none
  | .rotationBegin _ => none
  | .accessHalfIssue _ _ => none
  | .ldqEntryArrival _ _ => none
  | .contextReady _ _ => none
  | .chunkCommit _ _ => none
  | .queueEnable _ _ => none
  | .queueEnableDeferred _ => none
  | .queueDisable _ _ => none
  | .tailUpdate _ _ => none
  | .completionDoorbell _ _ => none
  | .triggerCounterWrite _ _ => none
  | .cardFetch _ => none
  | .quantumBoundary _ => none
  | .triggerFire _ => none
  | .dealingRound _ => none
  | .cycleSectionStart _ _ => none
  | .workqAnswer _ _ => none
  | .spallocAllocate _ _ => none
  | .spallocFree _ _ => none
  | .spallocResRead _ _ => none
  | .watchdogPreempt _ => none
  | .watchdogKill _ => none
  | .watchdogFence _ => none
  | .imageLoad _ _ _ => none
  | .variantReselection => none
  | .cardRetirement _ => none
  | .completionRecordWrite _ => none
  | .finalCommit _ => none
  | .contextEnd _ _ => none
  | .missMessage _ _ _ => none
  | .stage2FaultRecord _ => none
  | .leaseExpiry _ _ => none
  | .shootdownMessage _ => none
  | .shootdownAck _ => none
  | .wakeTlbInvalidate _ => none
  | .linkRendezvous _ => none
  | .barrierCommit _ => none
  | .barrierRelease _ => none
  | .voteCommit _ => none
  | .fabricToken _ _ => none
  | .ttSendEntry _ _ => none
  | .ttReceiveEntry _ _ => none
  | .ttForwardEntry _ _ => none
  | .ttLostWord _ _ => none
  | .quekinFlit _ _ _ _ => none
  | .fillerDisplacement _ => none
  | .mailboxHeldEntry _ => none
  | .mboxPop _ => none
  | .ctxResume _ _ => none
  | .ctxDeliver _ _ => none
  | .ctxKill _ _ => none
  | .ctxUnpark _ _ => none
  | .ctxRollback _ _ => none
  | .ctxPreempt _ _ => none
  | .uncorrectableError _ => none
  | .pairMismatch _ => none
  | .mergeTimeout _ => none
  | .rollback _ => none
  | .preemption _ => none
  | .preemptionResume _ _ => none
  | .ckptSeal => none
  | .ckptRestore => none
  | .ckptBind => none
  | .ckptQuote => none
  | .ckptCommitMessage _ _ _ _ _ _ => none
  | .ckptAckTimeout => none
  | .intervalBoundary _ _ _ => none
  | .ptpMessage _ _ => none
  | .telemetryRecord => none
  | .telEnergyRead _ _ => none
  | .clQuiesce => none
  | .clSave => none
  | .clClkoff => none
  | .clRailoff => none
  | .clWake => none
  | .quiesceDone _ => none
  | .saveDone _ => none
  | .clockStopped _ => none
  | .railOff _ => none
  | .wakeDone _ => none
  | .deviceReset => none
  | .functionReady _ => none
  | .faultMessage _ _ => none
  | .correctedError _ => none
  | .holdoverEntry => none
  | .quekinLinkError _ => none
  | .clockRestart _ => none
  | .commitAcknowledgement _ => none

def b2n (b : Bool) : Nat := if b then 1 else 0

/-- The prefix words (R40 to R45). -/
def pageWord (page opc : Nat) : Half := BitVec.ofNat 16 (28 * 2048 + page * 256 + opc)
def regWord (r : RegPrefix) : Half :=
  BitVec.ofNat 16 (29 * 2048 + b2n r.dhi * 1024 + b2n r.shi * 512 + r.tsrc.toNat * 16 + b2n r.pneg * 8 + r.psel.toNat)
def modWord (m : ModPrefix) : Half :=
  BitVec.ofNat 16 (30 * 2048 + m.fmt.toNat * 128 + m.rnd.toNat * 16 + m.scope.toNat * 2 + b2n m.sat)
def immWord (x : BitVec 11) : Half := BitVec.ofNat 16 (31 * 2048 + x.toNat)

/-- The base word (R39). -/
def baseWord (major minor : Nat) (f : Fields) : Half :=
  BitVec.ofNat 16 (major * 2048 + f.dst.toNat * 128 + f.src.toNat * 8 + minor)

/-- The prefixes of an instruction after its page prefix. -/
def Fields.prefixWords (f : Fields) : List Half :=
  (match f.reg with | some r => [regWord r] | none => [])
  ++ (match f.mod with | some m => [modWord m] | none => [])
  ++ f.imm.map immWord

/-- The chain of an opcode and its fields. -/
def encodeChain (page opc : Nat) (f : Fields) : List Half :=
  if page = 0 then f.prefixWords ++ [baseWord (opc / 8) (opc % 8) f]
  else pageWord page opc :: (f.prefixWords ++ [baseWord 27 f.aux.toNat f])

/-- The words of an instruction, in address order; none for a device step or a fate. -/
def encode (i : Instr) : List Half :=
  match i.key with
  | none => []
  | some (page, opc, f) => encodeChain page opc f

/-- A page-0 instruction has no AUX; at most three immediates and four prefixes; no reserved modifier code; and an AUX,
or a pair code, that selects the instruction's own row where several rows share an opcode. -/
def Fields.encodable (page : Nat) (f : Fields) : Bool :=
  (page != 0 || f.aux == 0) && f.imm.length ≤ 3 && f.chainLen (page != 0) ≤ 5 && !modReserved f.mod

/-- Whether an instruction's fields are those of its row (R192, R242, R55). -/
def Instr.ownRow : Instr → Bool
  | .mtmov f => f.aux.toNat != 1 && f.aux.toNat != 2
  | .mtmovRowIn f => f.aux.toNat == 1
  | .mtmovRowOut f => f.aux.toNat == 2
  | .restrPut f => f.aux.toNat % 4 == 0
  | .restrCollect f => f.aux.toNat % 4 != 0
  | .prolgAdd f => f.aux.toNat % 4 == 0
  | .prolgPut f => f.aux.toNat % 4 != 0
  | .vdot pair _ => decide (pair.toNat < 20)
  | .mma pair _ => decide (pair.toNat < 20)
  | .vcvtn pair _ => decide (20 ≤ pair.toNat)
  | .vcvtw pair _ => decide (20 ≤ pair.toNat)
  | _ => true

/-- Whether an instruction has words that decode to it. -/
def Instr.encodable (i : Instr) : Bool :=
  match i.key with
  | none => false
  | some (page, _, f) => f.encodable page && i.ownRow

/-- The halfwords of a row's word: the opcode table numbers the first halfword of a two-halfword row in the high bits
(a prefix, or a base word with no prefix), while a prefix in the low bits is taken as first (log 7). -/
def tableHalves (nbits w : Nat) : List Half :=
  let n := (nbits + 15) / 16
  let lo := BitVec.ofNat 16 w
  let hi := BitVec.ofNat 16 (w / 65536)
  if n ≤ 1 then [lo]
  else if !isBase lo then [lo, hi, BitVec.ofNat 16 (w / 65536 / 65536), BitVec.ofNat 16 (w / 65536 / 65536 / 65536)]
  else if !isBase hi then [hi, lo]
  else [lo]

/-- The instruction the decoder reads from a row's word as the opcode table numbers it; the bits above are 0. -/
noncomputable def decodeTableWord (nbits w : Nat) : Option Instr :=
  match decode (tableHalves nbits w ++ [0, 0, 0, 0, 0]) with
  | .instr i _ => some i
  | .reserved c _ => some (.reservedOpcode c)
  | .illegal _ => some .illegalChain
  | .short => none

end Sys2Proof
end

