-- ==== Sys2Proof/Machine/Codec.lean ====
section
/-! DEFINITION. The layout of the save areas in HBM, which only the device reads (R331): every saved group with its card, domain, gang and
queue, as a stream of doublewords. The spec gives no layout: this one is the model's own (log 95). -/

namespace Sys2Proof.Machine

/-- How a value stands in a stream of doublewords, and how it is read from one: none where the stream holds no such value. -/
structure Codec (α : Type) where
  enc : α → List Dword
  dec : List Dword → Option (α × List Dword)

/-! The parts. -/

def Codec.word : Codec Dword := ⟨fun x => [x], fun l => match l with | x :: t => some (x, t) | [] => none⟩
def Codec.map {α β : Type} (c : Codec α) (f : α → β) (g : β → α) : Codec β :=
  ⟨fun x => c.enc (g x), fun l => (c.dec l).map fun p => (f p.1, p.2)⟩
def Codec.pair {α β : Type} (c : Codec α) (d : Codec β) : Codec (α × β) :=
  ⟨fun x => c.enc x.1 ++ d.enc x.2, fun l => (c.dec l).bind fun p => (d.dec p.2).map fun q => ((p.1, q.1), q.2)⟩
/-- Numbers below 2^64. -/
def Codec.nat : Codec Nat := Codec.word.map (·.toNat) (BitVec.ofNat 64)
def Codec.bv (w : Nat) : Codec (BitVec w) := Codec.nat.map (BitVec.ofNat w) (·.toNat)
def Codec.bool : Codec Bool := Codec.nat.map (· != 0) fun b => if b then 1 else 0
/-- `n` values in a row. -/
def Codec.times {α : Type} (c : Codec α) : Nat → List Dword → Option (List α × List Dword)
  | 0, l => some ([], l)
  | n + 1, l => (c.dec l).bind fun p => (c.times n p.2).map fun q => (p.1 :: q.1, q.2)
/-- A list after its length. -/
def Codec.list {α : Type} (c : Codec α) : Codec (List α) :=
  ⟨fun l => BitVec.ofNat 64 l.length :: l.flatMap c.enc, fun l => match l with | n :: t => c.times n.toNat t | [] => none⟩
def Codec.opt {α : Type} (c : Codec α) : Codec (Option α) := c.list.map (·.head?) Option.toList
def Codec.smap {α : Type} (c : Codec α) : Codec (SMap α) := (Codec.nat.pair c).list
def Codec.vec {α : Type} (n : Nat) (d : α) (c : Codec α) : Codec (Vector α n) := c.list.map (fun l => Vector.ofFn fun i => l.getD i.val d) (·.toList)
/-- A number of any size, 64 bits at a time. -/
def Codec.big : Codec Nat :=
  Codec.word.list.map (fun l => l.foldr (fun x n => x.toNat + 2 ^ 64 * n) 0)
    fun x => (List.range (x.log2 / 64 + 1)).map fun i => BitVec.ofNat 64 (x / 2 ^ (64 * i))
/-- A wide value. -/
def Codec.wide (w : Nat) : Codec (BitVec w) :=
  Codec.big.map (BitVec.ofNat w) (·.toNat)

/-! The registers and the contexts. -/

def regCodec : Codec RegState :=
  let w := Codec.word
  ((Codec.bv 56).pair ((w.vec 32 0).pair ((w.vec 16 0).pair (((Codec.wide 512).vec 32 0).pair ((w.vec 8 0).pair (((Codec.wide 8192).vec 8 0).pair
    (((Codec.bv 8).pair (Codec.bv 8)).pair ((w.pair (Codec.bv 56)).pair (((Codec.bv 56).pair ((Codec.bv 56).pair Codec.bool)).pair
    (((Codec.bv 8).pair ((Codec.bv 32).pair w)).pair ((w.vec 4 0).pair (((Codec.bv 32).pair ((Codec.bv 32).pair (Codec.bv 32))).pair
    ((w.vec 4 0).pair (((Codec.bv 32).pair ((Codec.bv 4).pair (Codec.bv 4))).pair
    (((Codec.bv 32).pair ((Codec.bv 8).pair (w.pair (Codec.bv 32)))).pair
    (((Codec.wide 256).list).pair ((Codec.wide 256).list))))))))))))))))).map
  (fun (pc, s, f, v, p, m, (arith, pend), (loopCnt, loopTop), (tvec, epc, active), (code, info, faddr), codebook, (rngSeed, rngCtr, mxSeed), mxCb,
      (voteRes, wsel, level), (qstall, capIdx, telStamp, spres), ldq, stq) =>
    { pc := pc, s := s, f := f, v := v, p := p, m := m, arith := arith, pend := pend, loopCnt := loopCnt, loopTop := loopTop, tvec := tvec, epc := epc
      active := active, code := code, info := info, faddr := faddr, codebook := codebook, rngSeed := rngSeed, rngCtr := rngCtr, mxSeed := mxSeed
      mxCb := mxCb, voteRes := voteRes, wsel := wsel, level := level, qstall := qstall, capIdx := capIdx, telStamp := telStamp, spres := spres
      ldq := ldq, stq := stq, ldqDue := [] })
  fun r => (r.pc, r.s, r.f, r.v, r.p, r.m, (r.arith, r.pend), (r.loopCnt, r.loopTop), (r.tvec, r.epc, r.active), (r.code, r.info, r.faddr), r.codebook,
    (r.rngSeed, r.rngCtr, r.mxSeed), r.mxCb, (r.voteRes, r.wsel, r.level), (r.qstall, r.capIdx, r.telStamp, r.spres), r.ldq, r.stq)

def coreCodec : Codec CoreId :=
  Codec.nat.map (fun k => ⟨match k % 8 with | 0 => .l0 | 1 => .l1 | 2 => .l2 | 3 => .l3 | 4 => .boot | _ => .service, k / 8⟩) CoreId.key
def ctxIdCodec : Codec CtxId := (coreCodec.pair Codec.nat).map (fun (c, k) => ⟨c, k⟩) fun a => (a.core, a.ctx)

/-- The status of a saved context: it waits for nothing (R331). -/
def statusCodec : Codec Status :=
  Codec.nat.map (fun n => match n with | 0 => .free | 1 => .reserved | 2 => .live | 3 => .stopped | 4 => .parking | _ => .ended)
    fun x => match x with | .free => 0 | .reserved => 1 | .live => 2 | .waiting _ => 2 | .stopped => 3 | .parking => 4 | .ended => 5
def copyCodec : Codec Copy :=
  Codec.nat.map (fun n => match n with | 0 => .only | 1 => .primary | 2 => .shadow | 3 => .copyA | _ => .copyB)
    fun x => match x with | .only => 0 | .primary => 1 | .shadow => 2 | .copyA => 3 | .copyB => 4

def commandCodec : Codec Command :=
  let w := Codec.word
  let n := Codec.nat
  (w.list.pair ((Codec.bv 32).pair ((Codec.bv 32).pair ((w.vec 4 0).pair ((Codec.bool.pair Codec.bool).pair (n.pair
    ((((Codec.bv 8).pair w).opt).pair ((n.pair ((Codec.bv 8).pair ((Codec.bv 8).pair w))).pair
    (n.list.pair (Codec.bool.pair (((n.pair (Codec.big.pair Codec.big)).list).pair n.list)))))))))))
  |>.map (fun (dw, seed, superstep, codebook, (isCodebook, begun), prog, outcome, (done, flg, err, errVa), hurt, slot, chunks, taint) =>
    { dw := dw, seed := seed, superstep := superstep, codebook := codebook, isCodebook := isCodebook, begun := begun, prog := prog, outcome := outcome
      done := done, flg := flg, err := err, errVa := errVa, hurt := hurt, slot := slot, chunks := chunks, taint := taint })
  fun c => (c.dw, c.seed, c.superstep, c.codebook, (c.isCodebook, c.begun), c.prog, c.outcome, (c.done, c.flg, c.err, c.errVa), c.hurt, c.slot,
    c.chunks, c.taint)

def portCodec : Codec Port :=
  (commandCodec.list.pair (Codec.word.list.pair ((Codec.bv 8).pair Codec.word))).map (fun (i, o, e, a) => ⟨i, o, e, a⟩)
    fun p => (p.input, p.output, p.lastErr, p.errAddr)

def queryCodec : Codec Query :=
  (Codec.word.pair (Codec.nat.pair (Codec.nat.pair Codec.word.list.opt))).map (fun (a, c, n, g) => ⟨a, c, n, g⟩) fun q => (q.addr, q.ctr, q.seq, q.given)

def linkCodec : Codec LinkOp :=
  let n := Codec.nat
  ((n.pair (n.pair n)).pair ((Codec.word.pair (n.pair (Codec.bv 8))).pair (((Codec.bv 32).list.pair Codec.bool).pair
    ((n.pair (Codec.bool.pair (Codec.bv 4))).pair (n.pair (Codec.bool.pair (Codec.bv 56)))))))
  |>.map (fun ((kind, stride, op), (a, n, m), (data, bad), (rnd, sat, ws), order, ready, next) =>
    { kind := kind, stride := stride, op := op, a := a, n := n, m := m, data := data, bad := bad, rnd := rnd, sat := sat, ws := ws, order := order
      ready := ready, next := next })
  fun o => ((o.kind, o.stride, o.op), (o.a, o.n, o.m), (o.data, o.bad), (o.rnd, o.sat, o.ws), o.order, o.ready, o.next)

/-- A saved context (R331). -/
def ctxCodec : Codec Ctx :=
  let n := Codec.nat
  (regCodec.pair (statusCodec.pair ((n.opt.pair (copyCodec.pair coreCodec.opt)).pair ((n.opt.pair n).pair (((Codec.bv 16).pair ((Codec.bv 3).pair
    ((Codec.bv 16).pair n))).pair (((Codec.bv 56).pair (Codec.word.pair Codec.word)).pair (queryCodec.list.pair (portCodec.smap.pair
    ((Codec.bv 32).list.pair (linkCodec.opt.pair (Codec.bool.pair Codec.bool)))))))))))
  |>.map (fun (r, status, (card, copy, mate), (gang, gpos), (asid, domKind, domInst, dom), (entry, firstRec, nRec), queries, ports, spreqs, link, msgDue, perm) =>
    { Ctx.reset with
      r := r, status := status, card := card, copy := copy, mate := mate, gang := gang, gpos := gpos, asid := asid, domKind := domKind, domInst := domInst
      dom := dom, entry := entry, firstRec := firstRec, nRec := nRec, queries := queries, ports := ports, spreqs := spreqs, link := link, msgDue := msgDue
      perm := perm, chunk := { Chunk.empty with ckpt := r } })
  fun c => (c.r, c.status, (c.card, c.copy, c.mate), (c.gang, c.gpos), (c.asid, c.domKind, c.domInst, c.dom), (c.entry, c.firstRec, c.nRec), c.queries,
    c.ports, c.spreqs, c.link, c.msgDue, c.perm)

/-! Cores. -/

def timetableCodec : Codec Timetable :=
  let n := Codec.nat
  let w := Codec.word
  (((w.pair w).list.smap).pair (((Codec.bv 2).pair (n.opt.pair (n.opt.pair (Codec.bv 2)))).pair ((n.pair (Codec.bool.pair (Codec.bool.pair (Codec.bv 4)))).pair
    (n.pair (n.smap.pair (n.list.pair ((((Codec.bv 32).pair Codec.bool).list.smap).pair (((n.pair ((Codec.bv 32).pair Codec.bool)).list).smap))))))))
  |>.map (fun (slots, (sel, armed, running, last), (done, lost, under, flg), start, moved, finished, stream, inputs) =>
    ⟨slots, sel, armed, running, last, done, lost, under, flg, start, moved, finished, stream, inputs⟩)
  fun t => (t.slots, (t.sel, t.armed, t.running, t.last), (t.done, t.lost, t.under, t.flg), t.start, t.moved, t.finished, t.stream, t.inputs)

/-- What a save holds of a core: the rest stays with the core on which it resumes (R331, R332). -/
def coreDataCodec : Codec Core :=
  let n := Codec.nat
  let bytes := (Codec.bv 8).list
  (ctxCodec.smap.pair (n.pair (((Codec.bool.pair (Codec.bv 31)).smap).pair (bytes.smap.pair (bytes.smap.pair (timetableCodec.pair ((Codec.bv 16).opt.pair n.opt)))))))
  |>.map (fun (ctxs, holder, counters, restrict, prolong, tt, lastAsid, lastCard) =>
    { Core.reset with
      ctxs := ctxs, holder := holder, counters := counters.map fun c => (c.1, ⟨c.2.1, c.2.2⟩), restrict := restrict, prolong := prolong, tt := tt
      lastAsid := lastAsid, lastCard := lastCard })
  fun k => (k.ctxs, k.holder, k.counters.map (fun c => (c.1, c.2.err, c.2.count)), k.restrict, k.prolong, k.tt, k.lastAsid, k.lastCard)

def savedCodec : Codec Saved :=
  (coreCodec.pair (coreDataCodec.pair Codec.bool)).map (fun (c, d, f) => ⟨c, d, f⟩) fun y => (y.core, y.data, y.fused)

def blockCodec : Codec Block :=
  let n := Codec.nat
  (n.pair (n.pair (n.pair (n.pair (Codec.bool.pair n.opt))))).map (fun (o, k, c, d, f, p) => ⟨o, k, c, d, f, p⟩) fun b => (b.off, b.order, b.card, b.dom, b.fresh, b.pend)

/-- A save area (R331). -/
def areaCodec : Codec SaveArea :=
  let n := Codec.nat
  let logs := Codec.word.list.list.smap
  (n.pair (savedCodec.list.pair (((n.pair blockCodec).list).pair (((n.pair ((Codec.bv 8).list)).list).pair (n.list.pair (logs.pair (logs.pair
    (Codec.bool.pair (Codec.bool.pair ((n.pair n).list))))))))))
  |>.map (fun (card, cores, blocks, sections, poison, answers, replays, held, timeless, pins) =>
    ⟨card, cores, blocks, sections, poison, answers, replays, held, timeless, pins⟩)
  fun x => (x.card, x.cores, x.blocks, x.sections, x.poison, x.answers, x.replays, x.held, x.timeless, x.pins)

/-! What belongs to the saved cards. -/

def cardCodec : Codec CardRun :=
  let n := Codec.nat
  let w := Codec.word
  (w.list.pair (w.list.pair ((n.pair (n.pair (n.pair (Codec.bv 16)))).pair ((Codec.bool.pair (n.pair n)).pair (((Codec.bv 8).opt.pair ((Codec.bv 8).pair (Codec.bv 8))).pair
    ((Codec.bool.pair Codec.bool).pair (((n.pair (n.pair n)).opt).pair (n.pair (((coreCodec.pair Codec.bool).list).pair Codec.bool)))))))))
  |>.map (fun (dw, table, (queue, num, layer, asid), (fired, next, nextB), (refused, status, flags), (killed, doomed), image, shadowBase, sections, done) =>
    ⟨dw, table, queue, num, layer, asid, fired, next, nextB, refused, status, flags, killed, doomed, image, shadowBase, sections, done⟩)
  fun k => (k.dw, k.table, (k.queue, k.num, k.layer, k.asid), (k.fired, k.next, k.nextB), (k.refused, k.status, k.flags), (k.killed, k.doomed), k.image,
    k.shadowBase, k.sections, k.done)

/-- A domain all of whose groups are saved: it has no member and no journal entry. -/
def domainCodec : Codec Domain :=
  let n := Codec.nat
  let logs := Codec.word.list.list.smap
  ((n.pair ((Codec.bv 3).pair ((Codec.bv 16).pair n))).pair ((Codec.bool.pair (Codec.bool.pair (Codec.bv 32))).pair ((logs.pair logs).pair
    (((Codec.bv 32).list).pair ((Codec.bool.pair (Codec.bool.pair Codec.bool)).pair n.list)))))
  |>.map (fun ((card, kind, inst, layer), (phs, exch, superstep), (answers, replays), mismatches, (tokensSent, anyParked, parkedBefore), tangled) =>
    { card := card, kind := kind, inst := inst, layer := layer, phs := phs, exch := exch, superstep := superstep, members := [], journal := [], saved := []
      answers := answers, replays := replays, mismatches := mismatches, release := none, tokensSent := tokensSent, anyParked := anyParked
      parkedBefore := parkedBefore, tangled := tangled, tooLarge := none })
  fun d => ((d.card, d.kind, d.inst, d.layer), (d.phs, d.exch, d.superstep), (d.answers, d.replays), d.mismatches, (d.tokensSent, d.anyParked, d.parkedBefore), d.tangled)

def gangCodec : Codec Gang :=
  (ctxIdCodec.list.pair (Codec.nat.pair (Codec.nat.pair Codec.bool))).map (fun (m, w, h, f) => { members := m, w := w, h := h, fused := f })
    fun g => (g.members, g.w, g.h, g.fused)

def queueCodec : Codec Queue :=
  let h := Codec.bv 32
  (Codec.bool.pair (h.pair (h.pair (h.pair ((Codec.bv 8).pair (h.opt.pair (Codec.word.list.pair Codec.nat.list)))))))
  |>.map (fun (en, head, tail, chead, err, waitEnable, desc, cards) => ⟨en, head, tail, chead, err, waitEnable, desc, cards⟩)
  fun q => (q.en, q.head, q.tail, q.chead, q.err, q.waitEnable, q.desc, q.cards)

/-- The saves as they stand in HBM. -/
def savesCodec : Codec Saves :=
  (areaCodec.list.pair (cardCodec.smap.pair (domainCodec.smap.pair (gangCodec.smap.pair queueCodec.smap)))).map (fun (a, c, d, g, q) => ⟨a, c, d, g, q⟩)
    fun x => (x.areas, x.cards, x.doms, x.gangs, x.queues)

end Sys2Proof.Machine
end

