-- ==== Sys2Proof/Machine/Timetables.lean ====
section
/-! DEFINITION. Running timetables (R268 to R270, R273): a step moves what one entry moves on one reference cycle, and the
entries of all running timetables act in the order of their cycles. -/

namespace Sys2Proof.Machine

/-- The entries of the slot a core's router runs. -/
def runningEntries (t : Timetable) : List TtEntry :=
  match t.running with
  | none => []
  | some k => (SMap.read [] t.slots k).map ttEntry

/-- The cycle on which an entry acts next; none once it has completed, and for a Quekin entry, which delays no other. -/
def nextCycle (t : Timetable) (i : Nat) (e : TtEntry) : Option Nat :=
  if t.finished.contains i || e.dirs.contains 5 then none
  else some (t.start + e.offset + SMap.read 0 t.moved i / 8)

/-- Every entry of one router that has still to act, with its cycle. -/
def entriesDue (t : Timetable) : List (Nat × Nat) :=
  ((runningEntries t).zipIdx).filterMap fun x => (nextCycle t x.2 x.1).map fun c => (c, x.2)

/-- The earliest cycle on which any router acts. -/
def earliest (s : State) : Option Nat := (s.cores.flatMap fun c => (entriesDue c.2.tt).map (·.1)).min?

/-- Whether an entry acts now: no router acts on an earlier cycle, and no lower entry of its own router on the same one. -/
def actsNow (s : State) (c : CoreId) (i cycle : Nat) : Bool :=
  (match earliest s with | some n => cycle ≤ n | none => true) &&
    (entriesDue (s.core c).tt).all fun x => cycle < x.1 || (x.1 == cycle && i ≤ x.2) || x.1 < cycle

/-- The locations of the k-th word of an entry (R264). -/
def wordLocs (c : CoreId) (e : TtEntry) (k : Nat) : List Nat :=
  (List.range 4).map fun b =>
    let o := e.addr + 4 * k + b
    if e.win = 1 then spLoc ((clusterOf c).getD 0) o else tcmLoc c o

def State.modTt (s : State) (c : CoreId) (g : Timetable → Timetable) : State := s.modCore c fun k => { k with tt := g k.tt }

/-- A router consumes a poisoned word that it reads to send (R318). -/
def sendPoison (s : State) (c : CoreId) (locs : List Nat) : State :=
  match locs.find? fun l => s.poison.contains (l / 64) with | some l => noteUncorr s ⟨c, 0⟩ (some l) | none => s

/-- A word and whether it is poisoned, as a router reads it (R318). -/
def readWord (s : State) (locs : List Nat) : W32 × Bool :=
  (BitVec.ofNat 32 (s.number locs), locs.any fun l => s.poison.contains (l / 64))

/-- Put words at a router's input, and at its shadow's where it is a primary (R268, R321). -/
def standAt (s : State) (c : CoreId) (dir stamp : Nat) (ws : List (W32 × Bool)) : State :=
  let put (s : State) (c : CoreId) : State := s.modTt c fun t =>
    { t with inputs := SMap.put t.inputs dir (SMap.read [] t.inputs dir ++ ws.map fun w => (stamp, w.1, w.2)) }
  let s := put s c
  match (s.ctx ⟨c, 0⟩).copy, (s.ctx ⟨c, 0⟩).mate with
  | .primary, some m => put s m
  | _, _ => s

/-- A rollback of domain x from now to its next commit takes y with it. -/
def State.tangle (s : State) (x y : Nat) : State :=
  if (s.dom x).tangled.contains y then s else s.modDom x fun k => { k with tangled := k.tangled ++ [y] }

/-- Two domains that exchange words or link data roll back together (R254, R276). -/
def entangle (s : State) (d1 d2 : Nat) : State :=
  if d1 = d2 ∨ d1 = 0 ∨ d2 = 0 then s else (s.tangle d1 d2).tangle d2 d1

/-- Send words of a router on a cycle in a direction; a pair's meet at the primary's router and arrive 8 cycles after the
send, others 2 (R268, R321). -/
def sendWords (s : State) (c : CoreId) (dir cycle : Nat) (ws : List (W32 × Bool)) : State :=
  let a : CtxId := ⟨c, 0⟩
  let p := primaryOf s a
  match (if ws = [] then none else neighbour p.core dir) with
  | none => s
  | some t =>
    let stamp := cycle + (if (s.ctx a).mate.isSome then 8 else 2)
    mergeEffect s a (100 + dir) 0
      (crc64 (num8 (t.key * 8 + opposite dir) ++ ws.flatMap fun w => num8 w.1.toNat)) fun s =>
        entangle (standAt s t (opposite dir) stamp ws) (s.ctx p).dom (s.ctx ⟨t, 0⟩).dom

/-- FLG of a router: NV, OF, UF, NX (R267). -/
def ttFlags (fl : Nat) : BitVec 4 := BitVec.ofNat 4 (fl % 8 + (if bitOf fl 4 then 8 else 0))

/-- L combined with W (R265). -/
def combine (comb : Nat) (x y : W32) : Coded :=
  match comb with
  | 1 => FloatFmt.fp32.add .nearest x.toNat y.toNat
  | 2 => ⟨(x + y).toNat, 0⟩
  | 3 => FloatFmt.fp32.minmax true x.toNat y.toNat
  | 4 => FloatFmt.fp32.minmax false x.toNat y.toNat
  | _ => ⟨y.toNat, 0⟩

/-- The last cycle on which an entry of a running slot acts. -/
def lastCycle (t : Timetable) : Nat :=
  ((runningEntries t).filter fun e => !e.dirs.contains 5).foldl (fun m e => max m (t.start + e.offset + (e.len - 1) / 8)) t.start

/-- LOST, and ERR on every counter that a receive entry of the running slot names (R269). -/
def noteLost (s : State) (c : CoreId) : State :=
  let s := s.modTt c fun t => { t with lost := true }
  (runningEntries (s.core c).tt).foldl (fun s e => if e.kind = 1 ∧ e.cen then s.setErr c e.ctr else s) s

/-- A slot ends with its last entry: words that still stand at an input on its cycles are lost, while the slot runs (R268, R269). -/
def endSlot (s : State) (c : CoreId) : State :=
  let n := lastCycle (s.core c).tt
  let s := if (s.core c).tt.inputs.any fun x => x.2.any fun w => decide (w.1 ≤ n) then
      (noteLost s c).modTt c fun t => { t with inputs := t.inputs.map fun x => (x.1, x.2.filter fun w => decide (n < w.1)) }
    else s
  s.modTt c fun t => { t with running := none }

/-- The entry has moved n more words: at its LEN it completes, counts once, and the timetable finishes with its last entry
(R268); the barrier may then commit. -/
def moveOn (s : State) (c : CoreId) (i : Nat) (e : TtEntry) (n : Nat) (bad : Bool) : State :=
  let m := SMap.read 0 (s.core c).tt.moved i + n
  let s := s.modTt c fun t => { t with moved := SMap.put t.moved i m }
  if m < e.len then s
  else
    let s := s.modTt c fun t => { t with finished := t.finished ++ [i], done := t.done + 1 }
    let s := if e.kind = 1 ∧ e.cen then s.arrive c e.ctr bad else s
    let t := (s.core c).tt
    if (runningEntries t).length ≤ t.finished.length then
      nudge (endSlot s c) (s.ctx ⟨c, 0⟩).dom
    else s

/-- The words of an entry's input on a cycle, at most n, which it takes (R268). -/
def takeWords (s : State) (c : CoreId) (dir cycle n : Nat) : State × List (W32 × Bool) :=
  let all := SMap.read [] (s.core c).tt.inputs dir
  let here := (all.filter fun w => w.1 == cycle).take n
  let rest := all.filter (fun w => w.1 != cycle) ++ (all.filter fun w => w.1 == cycle).drop n
  (s.modTt c fun t => { t with inputs := SMap.put t.inputs dir rest }, here.map (·.2))

/-- A missing word: UNDER is set, and ERR of the entry's counter (R269). -/
def underRun (s : State) (c : CoreId) (e : TtEntry) : State :=
  let s := s.modTt c fun t => { t with under := true }
  if e.cen then s.setErr c e.ctr else s

/-- A router's write, as its own core's (R323). -/
def routerWrite (s : State) (c : CoreId) (l : List (Nat × Byte)) (poisoned : Bool) : State :=
  applyWrite s ⟨c, 0⟩ l (if poisoned then l.map (·.1) else [])

/-- The window address of the k-th word of an entry (R196, R264). -/
def wordAddr (e : TtEntry) (k : Nat) : Dword := BitVec.ofNat 64 (tcmWindow + (if e.win = 1 then 2 ^ 40 else 0) + e.addr + 4 * k)

/-- The messages of the poisoned words of a sparse block, each with the address of its own word in the window: a word of the mask has the
block's first (R313, R318). -/
def sparseMsgs (s : State) (c : CoreId) (e : TtEntry) (b : Nat) (ws : List (Nat × Bool)) : State :=
  (ws.filter (·.2)).foldl (fun s w => postUnitFault s ⟨c, 0⟩ 0 false 7 (wordAddr e (64 * b + w.1))) s

def wordBytes (locs : List Nat) (x : Nat) : List (Nat × Byte) := locs.zip ((List.range 4).map fun i => BitVec.ofNat 8 (x / 256 ^ i))

/-- Write the words a receive entry takes, in ascending order, from word k (R265, R268, R318). -/
def receiveWords (s : State) (c : CoreId) (e : TtEntry) (k : Nat) : List (W32 × Bool) → State
  | [] => s
  | w :: t =>
    let locs := wordLocs c e k
    let l := readWord s locs
    let r := combine e.comb l.1 w.1
    let bad := w.2 || (e.comb != 0 && l.2)
    let s := routerWrite s c (wordBytes locs r.code) bad
    let s := s.modTt c fun t => { t with flg := t.flg ||| ttFlags r.flags }
    let s := if bad ∧ e.cen then s.setErr c e.ctr else s
    let s := if w.2 then postUnitFault s ⟨c, 0⟩ 0 false 7 (wordAddr e k) else s
    receiveWords s c e (k + 1) t

/-- The first block of a sparse stream: its mask and the words after it; none where it is malformed (R270). -/
def sparseBlocks (s : State) (c : CoreId) (e : TtEntry) : Nat → Nat → List (W32 × Bool) → State × Bool
  | 0, _, _ => (s, false)
  | fuel + 1, b, ws =>
    match ws with
    | [] => (s, false)
    | [_] => (s, true)
    | lo :: hi :: rest =>
      let mask := lo.1.toNat + 2 ^ 32 * hi.1.toNat
      let idx := (List.range 64).filter fun i => bitOf mask i
      let n := idx.length
      if 32 < n ∨ rest.length < n ∨ e.window < e.addr + 256 * b + 256 then (s, true)
      else
        let vals := idx.zip (rest.take n)
        let masked := lo.2 || hi.2
        let bad := masked || vals.any (·.2.2)
        let s :=
          if e.comb = 5 then
            let at' (i : Nat) : List Nat := wordLocs c e (64 * b + i)
            let l := (List.range 64).flatMap fun i => wordBytes (at' i)
              (match vals.find? fun v => v.1 == i with | some v => v.2.1.toNat | none => 0)
            applyWrite s ⟨c, 0⟩ l (if masked then l.map (·.1) else (vals.filter (·.2.2)).flatMap fun v => at' v.1)
          else vals.foldl (fun s v =>
            let locs := wordLocs c e (64 * b + v.1)
            let l := readWord s locs
            let r := combine 1 l.1 v.2.1
            (routerWrite s c (wordBytes locs r.code) (masked || v.2.2 || l.2)).modTt c fun t => { t with flg := t.flg ||| ttFlags r.flags }) s
        let s := if bad ∧ e.cen then s.setErr c e.ctr else s
        let s := sparseMsgs s c e b ([(0, lo.2), (0, hi.2)] ++ vals.map fun v => (v.1, v.2.2))
        sparseBlocks s c e fuel (b + 1) (rest.drop n)

/-- Take words into a receive entry: written at once, or, for a sparse stream, parsed when the entry completes (R268, R270). -/
def receive (s : State) (c : CoreId) (i : Nat) (e : TtEntry) (n : Nat) (ws : List (W32 × Bool)) : State :=
  if e.comb < 5 then moveOn (receiveWords s c e (SMap.read 0 (s.core c).tt.moved i) ws) c i e n false
  else
    let s := s.modTt c fun t => { t with stream := SMap.put t.stream i (SMap.read [] t.stream i ++ ws) }
    if SMap.read 0 (s.core c).tt.moved i + n < e.len then moveOn s c i e n false
    else
      let x := sparseBlocks s c e (e.len + 1) 0 (SMap.read [] (s.core c).tt.stream i)
      let s := if x.2 ∧ e.cen then x.1.setErr c e.ctr else x.1
      moveOn s c i e n false

/-- The entry a step names, where it is of a kind, has not completed, and acts now, with its cycle; a receive waits while the home that it
writes is reserved for a chunk (R207). -/
def entryNow (s : State) (c : CoreId) (i kind : Nat) : Option (TtEntry × Nat) :=
  let t := (s.core c).tt
  match (runningEntries t)[i]? with
  | none => none
  | some e =>
    if e.kind ≠ kind ∨ (kind = 1 ∧ s.reserved (wordLocs c e 0)) then none
    else match nextCycle t i e with
      | none => none
      | some n => if actsNow s c i n then some (e, n) else none

/-- The number of flits sent before on a port, peer and stream (R273). -/
def flitSeq (s : State) (p q r : Nat) : Nat :=
  match s.quekout.find? fun x => x.1 == p && x.2.1 == q && x.2.2.1 == r with | some x => x.2.2.2 | none => 0

/-- Pack words into flits of 60 words (R273). -/
def sendFlits (s : State) (p q r : Nat) : Nat → List W32 → State
  | 0, _ => s
  | fuel + 1, ws =>
    if ws = [] then s
    else
      let n := flitSeq s p q r
      let keep := s.quekout.filter fun x => !(x.1 == p && x.2.1 == q && x.2.2.1 == r)
      sendFlits { s with out := s.out ++ [.flit p q r n (ws.take 60)], quekout := keep ++ [(p, q, r, n + 1)] } p q r fuel (ws.drop 60)

/-- The entry a step names, where it is a Quekin entry of a kind that has not completed and whose offset no router precedes; a pair's
shadow receives with its primary (R321). -/
def quekinNow (s : State) (c : CoreId) (i kind : Nat) : Option TtEntry :=
  let t := (s.core c).tt
  match (runningEntries t)[i]? with
  | none => none
  | some e =>
    if e.kind ≠ kind ∨ ¬ e.dirs.contains 5 ∨ t.finished.contains i ∨ (kind = 1 ∧ ((s.ctx ⟨c, 0⟩).copy = .shadow ∨ s.reserved (wordLocs c e 0))) then none
    else match earliest s with
      | some n => if n < t.start + e.offset then none else some e
      | none => some e

/-- R268: A timetable send entry reads its words and drives its link; a Quekin send waits until its port is ready (R374). -/
def execTtSendEntry (core : CoreId) (entry : Nat) (s : State) : Host.Outcome State Fault Refusal :=
  match (match quekinNow s core entry 0 with
    | some e => if bitOf s.dev.readyQl.toNat e.qport then some (e, (s.core core).tt.start + e.offset) else none
    | none => entryNow s core entry 0) with
  | none => .next s
  | some (e, cycle) =>
    let k := SMap.read 0 (s.core core).tt.moved entry
    let n := if e.dout = 5 then e.len else min 8 (e.len - k)
    let ws := (List.range n).map fun i => readWord s (wordLocs core e (k + i))
    let s := sendPoison s core ((List.range n).flatMap fun i => wordLocs core e (k + i))
    if e.dout = 5 then
      let s := mergeEffect s ⟨core, 0⟩ 105 0 (crc64 (num8 e.qport ++ ws.flatMap fun w => num8 w.1.toNat)) fun s =>
        sendFlits s e.qport e.peer e.stream (n + 1) (ws.map (·.1))
      .next (moveOn s core entry e n false)
    else .next (moveOn (sendWords s core e.dout cycle ws) core entry e n false)

/-- What a primary receives over a Quekin port its shadow receives on the same cycle (R321). -/
def withShadow (s : State) (core : CoreId) (entry : Nat) (go : State → CoreId → TtEntry → State) : State :=
  match (s.ctx ⟨core, 0⟩).copy, (s.ctx ⟨core, 0⟩).mate with
  | .primary, some m =>
    let t := (s.core m).tt
    (match (runningEntries t)[entry]? with
    | some e => if e.kind = 1 ∧ e.dirs.contains 5 ∧ !t.finished.contains entry then go s m e else s
    | none => s)
  | _, _ => s

/-- R268: A timetable receive entry takes arriving words, combines and writes them, and counts. -/
def execTtReceiveEntry (core : CoreId) (entry : Nat) (s : State) : Host.Outcome State Fault Refusal :=
  match entryNow s core entry 1 with
  | some (e, cycle) =>
    let n := min 8 (e.len - SMap.read 0 (s.core core).tt.moved entry)
    let x := takeWords s core e.din cycle n
    let s := if x.2.length < n then underRun x.1 core e else x.1
    .next (receive s core entry e n x.2)
  | none =>
    match quekinNow s core entry 1 with
    | none => .next s
    | some e =>
      match s.quekin.findIdx? fun x => x.1 == e.qport && x.2.1 == e.peer && x.2.2.1 == e.stream with
      | none => .next s
      | some i =>
        let all := match s.quekin[i]? with | some x => x.2.2.2 | none => []
        let n := min all.length (e.len - SMap.read 0 (s.core core).tt.moved entry)
        let s := { s with quekin := s.quekin.modify i fun x => (x.1, x.2.1, x.2.2.1, all.drop n) }
        let s := { s with quekin := s.quekin.filter fun x => x.2.2.2 != [] }
        let ws := (all.take n).map fun w => (w, false)
        .next (withShadow (receive s core entry e n ws) core entry fun s m e => receive s m entry e n ws)

/-- R268: A timetable forward entry combines its words and sends them one cycle later. -/
def execTtForwardEntry (core : CoreId) (entry : Nat) (s : State) : Host.Outcome State Fault Refusal :=
  match entryNow s core entry 2 with
  | none => .next s
  | some (e, cycle) =>
    let k := SMap.read 0 (s.core core).tt.moved entry
    let n := min 8 (e.len - k)
    let x := takeWords s core e.din cycle n
    let s := if x.2.length < n then underRun x.1 core e else x.1
    let ws := x.2.zipIdx.map fun w =>
      if e.comb = 0 then (w.1, 0)
      else
        let l := readWord s (wordLocs core e (k + w.2))
        let r := combine e.comb w.1.1 l.1
        ((BitVec.ofNat 32 r.code, w.1.2 || l.2), r.flags)
    let s := if e.comb = 0 then s else sendPoison s core ((List.range x.2.length).flatMap fun i => wordLocs core e (k + i))
    let s := s.modTt core fun t => { t with flg := t.flg ||| ttFlags (ws.foldl (fun f w => f ||| w.2) 0) }
    .next (moveOn (sendWords s core e.dout (cycle + 1) (ws.map (·.1))) core entry e n false)

/-- Words at an input that no entry took on their cycle (R269). -/
def lostAt (s : State) (c : CoreId) (dir : Nat) : List (Nat × W32 × Bool) :=
  (SMap.read [] (s.core c).tt.inputs dir).filter fun w =>
    (match earliest s with | some n => decide (w.1 < n) | none => true)

/-- R269: A word with no entry to take it is dropped. -/
def execTtLostWord (core : CoreId) (dir : Nat) (s : State) : Host.Outcome State Fault Refusal :=
  match lostAt s core dir with
  | [] => .next s
  | w :: _ => .next (noteLost (s.modTt core fun t => { t with inputs := SMap.put t.inputs dir ((SMap.read [] t.inputs dir).erase w) }) core)

/-- Flits in a port's buffer of 64 KiB, 256 bytes each (R273). -/
def portFlits (s : State) (p : Nat) : Nat := s.quekin.countP fun x => x.1 == p

/-- R273: A Quekin flit reaches its port's buffer in sequence; a full buffer holds the sender back. -/
def execQuekinFlit (port peer stream : Nat) (words : List W32) (s : State) : Host.Outcome State Fault Refusal :=
  .next (if words = [] ∨ 256 ≤ portFlits s port then s else { s with quekin := s.quekin ++ [(port, peer, stream, words)] })

/-- R273: A Quekin link error sets ERR on the entry's counter. -/
def execQuekinLinkError (port : Nat) (s : State) : Host.Outcome State Fault Refusal :=
  .next ((s.cores.map fun c => coreOfKey c.1).foldl (fun s c =>
    let t := (s.core c).tt
    ((runningEntries t).zipIdx).foldl (fun s e =>
      if e.1.qport = port ∧ e.1.dirs.contains 5 ∧ e.1.cen ∧ !t.finished.contains e.2 then s.setErr c e.1.ctr else s) s) s)

/-- Start the armed slot of a core at a release; an empty slot finishes at once (R266, R267). What stands at the inputs since an earlier
slot is lost before it begins, and LOST becomes 0 (R267, R269). -/
def startSlot (s : State) (c : CoreId) : State :=
  match (s.core c).tt.armed with
  | none => s
  | some k =>
    let empty := SMap.read [] (s.core c).tt.slots k == []
    s.modTt c fun t => { t with
      armed := none, running := if empty then none else some k, last := BitVec.ofNat 2 k, done := 0, lost := false, under := false
      flg := 0, start := s.ticks, moved := [], finished := [], stream := [], inputs := [] }

end Sys2Proof.Machine
end

