-- ==== Sys2Proof/Machine/Cards.lean ====
section
/-! DEFINITION. The fields of a job card and the checks of its enqueue (R25, R26, R29). -/

namespace Sys2Proof.Machine

/-- LAYERS, PHS, DUP, PAIRED, FILLER, CYC, DOMAIN, RECCOUNT, RECSIZE and RECBASE (R25). -/
def CardRun.layers (k : CardRun) : Nat := k.field 3 28 4
def CardRun.phs (k : CardRun) : Bool := k.flag 3 4
def CardRun.dup (k : CardRun) : Bool := k.flag 3 2
def CardRun.paired (k : CardRun) : Bool := k.flag 3 1
def CardRun.filler (k : CardRun) : Bool := k.flag 3 5
def CardRun.domain (k : CardRun) : Nat := k.field 3 20 3
def CardRun.recCount (k : CardRun) : Nat := k.field 2 32 32
def CardRun.recSize (k : CardRun) : Nat := k.field 2 16 16
def CardRun.minChunk (k : CardRun) : Nat := k.field 2 0 16
def CardRun.recBase (k : CardRun) : Nat := k.field 1 0 56
def CardRun.prio (k : CardRun) : Nat := k.field 3 16 4
def CardRun.wdClass (k : CardRun) : Nat := k.field 3 13 3
def CardRun.tag (k : CardRun) : Dword := k.dw.getD 7 0
def CardRun.gw (k : CardRun) : Nat := 2 ^ k.field 3 26 2
def CardRun.gh (k : CardRun) : Nat := 2 ^ k.field 3 24 2
/-- The lowest layer of a card. -/
def CardRun.low (k : CardRun) : Nat := ((List.range 4).find? fun l => bitOf k.layers l).getD 0

/-- Whether an entry of a cycle table breaks R29. -/
def cycleBad (layers l : Nat) (e : Dword) : Bool :=
  if bitOf layers l then
    bits e.toNat 56 4 != 0 || bits e.toNat 0 56 == 0 || bitOf e.toNat 0
  else e != 0

/-- The refusal code of a card with its cycle table, in the order of R26; check 0x09 belongs to images. -/
def cardCode (dw table : List Dword) : Nat :=
  let k : CardRun := { CardRun.none with dw := dw }
  let reserved : List (Nat × Nat × Nat) := [(0, 56, 8), (1, 56, 8), (3, 32, 16), (3, 23, 1), (3, 8, 5), (4, 48, 16), (4, 12, 20), (5, 56, 8), (6, 40, 24)]
  let gang := k.gw * k.gh
  let l0 := bitOf k.layers 0
  firstFail [
    reserved.any (fun x => k.field x.1 x.2.1 x.2.2 != 0) || k.field 3 26 2 == 3 || k.field 3 24 2 == 3 || k.field 3 6 2 == 3,
    k.layers == 0 || (!k.cyc && 1 < (List.range 4).countP fun l => bitOf k.layers l),
    k.flag 0 0 || k.field 1 0 3 != 0 || (k.dup && k.field 5 0 6 != 0)
      || (k.cyc && (k.field 0 0 5 != 0 || (List.range 4).any fun l => cycleBad k.layers l (table.getD l 0))),
    k.recSize < 8 || 4096 < k.recSize || k.recSize % 8 != 0,
    k.minChunk == 0,
    (1 < gang && !l0) || (k.field 3 6 2 != 0 && l0),
    5 < k.domain || (1 < gang && k.domain < 2),
    (k.paired && k.dup) || ((k.paired || k.dup) && !l0),
    false,
    k.dup && (k.field 6 0 40 == 0 || k.field 6 0 6 != 0)]

end Sys2Proof.Machine
end

