-- ==== Sys2Proof/Machine/Links.lean ====
section
/-! DEFINITION. Page 6: restrict, prolong, folds, weight sets and the layer query (R238 to R254). -/

namespace Sys2Proof.Machine

/-! The arithmetic of R244 and R245. -/

/-- The FP32 addition node in a mode with SAT (R244). -/
def sumNode (mode : RMode) (sat : Bool) (x y : Term) : Term :=
  let r := addExact mode x.val.val y.val.val
  let c := FloatFmt.fp32.convert mode sat r.val
  .code ⟨c.code, x.val.flags ||| y.val.flags ||| r.flags ||| c.flags⟩

/-- The fmax and fmin nodes of R112. -/
def pickNode (isMax : Bool) (x y : Coded) : Coded :=
  let r := FloatFmt.fp32.minmax isMax x.code y.code
  ⟨r.code, x.flags ||| y.flags ||| r.flags⟩

/-- The tap offsets −1, 0, 1 and 2 applied to an index, below a length (R239). -/
def tap (n i t : Nat) : Option Nat := if i + t = 0 ∨ n ≤ i + t - 1 then none else some (i + t - 1)

/-- One output of a collect: x gives an element, absent where its child is not named (R244). -/
def restrictOut (w : List W32) (x : Nat → Option Nat) (b s op : Nat) (mode : RMode) (sat : Bool) (k : Nat) : Coded :=
  let g := s * k / b
  let term (t : Nat) : Option (Nat × Nat) := ((tap (8 * b) (s * k) t).bind x).map fun v => ((w.getD (4 * g + t) 0).toNat, v)
  let prod (p : Nat × Nat) : Exact := mulExact (FloatFmt.fp32.decode p.1) (FloatFmt.fp32.decode p.2)
  let ts := (List.range 4).map term
  if op = 1 then
    match tsum (sumNode mode sat) (ts.map fun p => p.map fun p => .exact (prod p)) with
    | none => ⟨0, 0⟩
    | some r => let c := FloatFmt.fp32.convert mode sat r.val.val; ⟨c.code, r.val.flags ||| c.flags⟩
  else
    match tsum (pickNode (op == 2)) (ts.map fun p => p.bind fun p =>
        if p.1 % 2 ^ 31 = 0 then none
        else let e := prod p; let c := FloatFmt.fp32.convert mode sat e.val; some ⟨c.code, e.flags ||| c.flags⟩) with
    | none => ⟨0, 0⟩
    | some r => let c := FloatFmt.fp32.convert mode sat (FloatFmt.fp32.decode r.code); ⟨c.code, r.flags ||| c.flags⟩

/-- One element of a prolongation added into z, none where its root is absent (R245). -/
def prolongOut (w y : List W32) (p s f : Nat) (z : Nat) (mode : RMode) (sat : Bool) : Option Coded :=
  let ts := (List.range 4).map fun t => (tap p (f / s) t).map fun j =>
    Term.exact (mulExact (FloatFmt.fp32.decode (w.getD (4 * (f % s) + t) 0).toNat) (FloatFmt.fp32.decode (y.getD j 0).toNat))
  (tsum (sumNode mode sat) ts).map fun r =>
    let v := addExact mode (FloatFmt.fp32.decode z) r.val.val
    let c := FloatFmt.fp32.convert mode sat v.val
    ⟨c.code, r.val.flags ||| v.flags ||| c.flags⟩

/-! Blocks and weights. -/

/-- The TCM offset of a window address. -/
def tcmOff (a : Dword) : Nat := a.toNat % 2 ^ 40
/-- Whether a block of n bytes lies in the core's TCM window (R239). -/
def inTcm (k : CoreKind) (a : Dword) (n : Nat) : Bool := a.toNat / 2 ^ 40 == 0xFF00 && decide (tcmOff a + n ≤ tcmSize k)
/-- The locations of n words of a core's TCM. -/
def wordLocsAt (c : CoreId) (a : Dword) (n : Nat) : List Nat := (List.range (4 * n)).map fun i => tcmLoc c (tcmOff a + i)
/-- Committed words of a core's TCM. -/
def blockWords (s : State) (c : CoreId) (a : Dword) (n : Nat) : List W32 :=
  (List.range n).map fun i => BitVec.ofNat 32 (s.number ((List.range 4).map fun b => tcmLoc c (tcmOff a + 4 * i + b)))
/-- A weight set as words; 0 after reset (R240). -/
def setWords (l : List Byte) (n : Nat) : List W32 :=
  (List.range n).map fun i => BitVec.ofNat 32 (((List.range 4).map fun b => (l.getD (4 * i + b) 0).toNat * 256 ^ b).sum)
def restrictSet (s : State) (c : CoreId) (k : Nat) : List W32 := setWords (SMap.read [] (s.core c).restrict k) 32
def prolongSet (s : State) (c : CoreId) (k : Nat) : List W32 := setWords (SMap.read [] (s.core c).prolong k) 8
/-- The bytes of FP32 words at TCM locations. -/
def wordsAt (c : CoreId) (a : Dword) (l : List (Nat × Nat)) : List (Nat × Byte) :=
  l.flatMap fun x => (List.range 4).map fun b => (tcmLoc c (tcmOff a + 4 * x.1 + b), BitVec.ofNat 8 (x.2 / 256 ^ b))

/-! The checks of R246. -/

/-- The first failing check of a form: its layer need, its count in range, its mask, its blocks, and whether it folds. -/
def linkCheck (e : Env) (layer ok mask : Bool) (blocks : List (Dword × Nat)) (fold : Bool) (levelOk : Bool) : Option Trap :=
  let no (info : Nat) : Option Trap := some ⟨0x0E, BitVec.ofNat 32 info, e.addr, false⟩
  if !layer then no 7
  else if !ok then no 1
  else if !mask then no 4
  else match blocks.find? fun b => b.1.toNat % 4 != 0 with
    | some b => some ⟨0x05, 0, b.1, false⟩
    | none => match blocks.find? fun b => !inTcm e.kind b.1 b.2 with
      | some b => some ⟨0x06, 0, b.1, false⟩
      | none => match blocks with
        | [x, y] => if fold && decide (x.1.toNat < y.1.toNat + y.2) && decide (y.1.toNat < x.1.toNat + x.2) then no 5
                    else if !levelOk then no 6 else none
        | _ => none

/-- Whether the card's LAYERS holds the layer above or below the core. -/
def hasLayer (s : State) (e : Env) (up : Bool) : Bool :=
  match (s.ctx e.at').card with
  | some n => let l := layerOf e.kind
              if up then bitOf (s.card n).layers (l + 1) else decide (0 < l) && bitOf (s.card n).layers (l - 1)
  | none => false

/-- The stride, AUX's operation, and the rounding code with RND 0 replaced by RDEF. -/
def Env.stride (e : Env) : Nat := if bitOf e.f.aux.toNat 2 then 2 else 1
def Env.linkOp (e : Env) : Nat := e.f.aux.toNat % 4
def Env.rndCode (e : Env) : Nat := if e.f.rnd = 0 then bits e.r.arith.toNat 6 2 + 1 else e.f.rnd
/-- b of a link form with a stride. -/
def goodB (b s : Nat) : Bool := decide (1 ≤ b ∧ b ≤ 2048) && b % s == 0

/-- The children that a prolg.put has still to serve: one that was stopped part-way and is executed again does not serve twice (R254). -/
def leftOf (s : State) (a : CtxId) (next : VAddr) (m : BitVec 8) : BitVec 8 :=
  match (s.ctx a).link with | some o => if o.kind = 3 && !o.ready && o.next == next then o.m else m | none => m

/-- An offer of the issuing context. -/
def Env.offer (e : Env) (s : State) (kind : Nat) (n : Nat) (m : BitVec 8) (data : List W32) (bad : Bool) : LinkOp :=
  { kind := kind, stride := e.stride, op := e.linkOp, a := e.oldS, n := n, m := m, data := data, bad := bad, rnd := e.rndCode
    sat := e.f.sat, ws := e.r.wsel, order := s.ticks, ready := (s.ctx e.at').mate.isNone, next := e.next }

/-- The bytes of an offer that a pair's merge router compares (R321). -/
def offerImage (s : State) (a : CtxId) (o : LinkOp) : List Byte :=
  num8 o.a.toNat ++ (if o.kind = 0 then blockWords s a.core o.a o.n else o.data).flatMap fun w => num8 w.toNat

/-- An offer can be seen. -/
def openOffer (s : State) (a : CtxId) : State := s.modCtx a fun c => { c with link := c.link.map fun o => { o with ready := true } }

/-- A context and, in a redundant pair, its other member. -/
def withMate (s : State) (a : CtxId) : List CtxId :=
  match (s.ctx a).mate with | some m => [a, ⟨m, a.ctx⟩] | none => [a]

/-- Let an offer be seen: a pair's once both members have made it, a put once the merge router has passed it (R254, R321). -/
def postOffer (s : State) (a : CtxId) (o : LinkOp) : State :=
  let s : State := { s with merge := s.merge.filter fun x => !(x.who == a && x.chan == 200) }
  let s := s.modCtx a fun c => { c with link := some o }
  let parent := if o.kind = 0 ∨ o.kind = 2 then parentOf (primaryOf s a).core else some (primaryOf s a).core
  let go (s : State) : State :=
    let s := (withMate s a).foldl openOffer s
    match parent with | some p => s.due (.linkRendezvous p) | none => s
  if o.ready then go s
  else if o.kind = 0 ∨ o.kind = 3 then mergeEffect s a 200 o.a (crc64 (offerImage s a o)) go
  else if (withMate s a).all fun b => (b == a || (s.ctx b).status == .waiting .link) && (s.ctx b).link.any fun x => x.kind == o.kind then go s else s

/-- A link form whose offer was withdrawn while other members of its fused gang completed theirs is offered again for its context alone: it
is executed again, and the gang goes on once it completes (R92, R254). -/
def reoffer (s : State) (a : CtxId) : State :=
  match (s.ctx a).link with
  | none => s
  | some o =>
    if o.ready ∨ (s.ctx a).status ≠ .live ∨ (s.lockstep a).length ≤ 1 then s
    else postOffer (s.modCtx a fun c => { c with status := .waiting .link }) a { o with order := s.ticks, ready := (s.ctx a).mate.isNone }

/-- A put sends to another core, which a compute phase forbids: the address accessed is its block's (R32, log 73). -/
def sendCheck (e : Env) (s : State) (t : Option Trap) : Option Trap :=
  if s.computing e.at' then some ⟨0x07, 0, e.oldS, false⟩ else t

/-- R243: Offer a block to the parent. -/
def restrPutBody (e : Env) (s : State) : Act :=
  let b := e.srcS.toNat
  match sendCheck e s <| linkCheck e (hasLayer s e true) (goodB b 1) true [(e.oldS, 4 * b)] false true with
  | some t => .trap t
  | none => .wait .link (postOffer s e.at' (e.offer s 0 b 0 [] false))
def execRestrPut (f : Fields) (s : State) : Host.Outcome State Fault Refusal := issue Forms.restrPutF f restrPutBody s

/-- R243, R244: Collect the named children's blocks through the restrict weights. -/
def restrCollectBody (e : Env) (s : State) : Act :=
  let b := e.srcS.toNat
  let m := e.tsrcS.toNat % 256
  match linkCheck e (hasLayer s e false) (goodB b e.stride) (m != 0) [(e.oldS, 4 * (8 * b / e.stride))] false true with
  | some t => .trap t
  | none => .wait .link (postOffer s e.at' (e.offer s 1 b (BitVec.ofNat 8 m) [] false))
def execRestrCollect (f : Fields) (s : State) : Host.Outcome State Fault Refusal := issue Forms.restrCollectF f restrCollectBody s

/-- R245: Add the parent's next offer into a block through the prolong weights. -/
def prolgAddBody (e : Env) (s : State) : Act :=
  let b := e.srcS.toNat
  match linkCheck e (hasLayer s e true) (goodB b e.stride) true [(e.oldS, 4 * b)] false true with
  | some t => .trap t
  | none => .wait .link (postOffer s e.at' (e.offer s 2 b 0 [] false))
def execProlgAdd (f : Fields) (s : State) : Host.Outcome State Fault Refusal := issue Forms.prolgAddF f prolgAddBody s

/-- R245: Offer elements to the named children, read as they stand at issue. -/
def prolgPutBody (e : Env) (s : State) : Act :=
  let p := e.srcS.toNat
  let m := e.tsrcS.toNat % 256
  match sendCheck e s <| linkCheck e (hasLayer s e false) (decide (1 ≤ p ∧ p ≤ 16384)) (m != 0) [(e.oldS, 4 * p)] false true with
  | some t => .trap t
  | none =>
    let bad := s.poison != [] && (wordLocsAt e.at'.core e.oldS p).any fun l => s.poison.contains (l / 64)
    .wait .link (postOffer s e.at' (e.offer s 3 p (leftOf s e.at' e.next (BitVec.ofNat 8 m)) (blockWords s e.at'.core e.oldS p) bad))
def execProlgPut (f : Fields) (s : State) : Host.Outcome State Fault Refusal := issue Forms.prolgPutF f prolgPutBody s

/-! Rendezvous. -/

/-- A link form completes: its context stands at the next instruction and its chunk has committed (R247). -/
def linkDone (s : State) (a : CtxId) (next : VAddr) (flags : Nat) : State :=
  ((s.modCtx a fun c =>
    let r := { c.r with pc := next, arith := c.r.arith ||| BitVec.ofNat 8 flags }
    { c with r := r, link := none, chunk := { Chunk.empty with ckpt := r } }).wake a |>.bump a 0x02).bump a 0x03

/-- A trap of a waiting link form: its offer is lost until it is executed again (R246, R254). -/
def linkTrap (s : State) (a : CtxId) (t : Trap) : State :=
  (withMate s a).foldl (fun s b =>
    let pc := (s.ctx b).r.pc
    takeTrap (s.modCtx b Ctx.withdrawn) b { t with addr := if t.code = 0x0E then pc.setWidth 64 else t.addr } pc pc) s

/-- Consume poisoned data of a memory at a waiting link form, which has no effect then; the other members of a gang stop (R254, R318, R329,
R330). -/
def linkConsume (s : State) (a : CtxId) (kind : Nat) (addr : Dword) (loc : Nat) : State :=
  let pc := (s.ctx a).r.pc
  let t : Trap := ⟨0x17, BitVec.ofNat 32 kind, addr, false⟩
  let s := s.modCtx a fun c => { c.withdrawn with chunk := { c.chunk with ckpt := c.r } }
  noteUncorr (gangStop (if s.phased a then consumePoison s a t pc else takeTrap s a t pc pc) a) a (some loc)

/-- The first poisoned location of a block of words. -/
def badWord (s : State) (c : CoreId) (a : Dword) (n : Nat) : Option Nat :=
  if s.poison = [] then none else (wordLocsAt c a n).find? fun l => s.poison.contains (l / 64)

/-- The contexts of a core with an offer of a kind, the oldest first; a pair's is seen once, while both members stand at it
(R238, R254). -/
def offersAt (s : State) (c : CoreId) (kind : Nat) : List (CtxId × LinkOp) :=
  let both (a : CtxId) : Bool := (withMate s a).all fun b => (s.ctx b).status == .waiting .link
  let l := (s.core c).ctxs.filterMap fun x => match x.2.link with
    | some o => if o.kind == kind && o.ready && x.2.copy != .shadow && both ⟨c, x.1⟩ then some ((⟨c, x.1⟩ : CtxId), o) else none
    | none => none
  l.mergeSort fun x y => x.2.order ≤ y.2.order

/-- The first offer of a kind on a child's link, where it is of the card (R238). -/
def childOffer (s : State) (p : CtxId) (pos kind : Nat) : Option (CtxId × LinkOp) :=
  match childOf p.core pos with
  | none => none
  | some c => match offersAt s c kind with
    | [] => none
    | x :: _ => if (s.ctx x.1).card == (s.ctx p).card then some x else none

/-- The mode of an offer. -/
def LinkOp.mode (o : LinkOp) : RMode := modeOf o.rnd .nearest 0

/-- Run a collect whose named children have all offered (R243, R244, R246). -/
def runCollect (s : State) (p : CtxId) (o : LinkOp) (hs : List (Nat × CtxId × LinkOp)) : State :=
  match hs.filter fun h => h.2.2.n != o.n with
  | h :: t => linkTrap ((h :: t).foldl (fun s h => linkTrap s h.2.1 ⟨0x0E, 2, 0, false⟩) s) p ⟨0x0E, 2, 0, false⟩
  | [] =>
    let blocks := hs.map fun h => (h.1, blockWords s h.2.1.core h.2.2.a o.n)
    match hs.findSome? fun h => (badWord s h.2.1.core h.2.2.a o.n).map fun l => (h.2.2.a, l) with
    | some b => linkConsume s p 6 b.1 b.2
    | none =>
    let x (f : Nat) : Option Nat := (blocks.find? fun b => b.1 == f / o.n).map fun b => (b.2.getD (f % o.n) 0).toNat
    let w := restrictSet s p.core (bits o.ws.toNat 2 2)
    let outs := (List.range (8 * o.n / o.stride)).map fun k => restrictOut w x o.n o.stride o.op o.mode o.sat k
    let s := hs.foldl (fun s h =>
      let s := entangle s (s.ctx p).dom (s.ctx h.2.1).dom
      (withMate s h.2.1).foldl (fun s b => linkDone s b ((s.ctx b).link.getD o).next 0) s) s
    let s := applyWriteBy (some (p, (s.ctx p).r.pc)) s p (wordsAt p.core o.a (outs.zipIdx.map fun c => (c.2, c.1.code))) []
    linkDone s p o.next (orFlags outs)

/-- What an adding context would consume: the parent's block, or its own (R318): the kind, the address and the location. -/
def addBad (s : State) (p : CtxId) (put add : LinkOp) (a : CtxId) : Option (Nat × Dword × Nat) :=
  if put.bad then some (6, put.a, (badWord s p.core put.a put.n).getD (tcmLoc p.core (tcmOff put.a)))
  else (badWord s a.core add.a add.n).map fun l => (1, add.a + BitVec.ofNat 64 (l - tcmLoc a.core (tcmOff add.a)), l)

/-- Run one prolongation into a child's block, for each member of a pair (R245). -/
def runAdd (s : State) (pos : Nat) (put add : LinkOp) (a : CtxId) : State :=
  let c := a.core
      let w := prolongSet s c (bits add.ws.toNat 0 2)
      let z := blockWords s c add.a add.n
      let outs := (List.range add.n).filterMap fun i =>
        (prolongOut w put.data put.n add.stride (pos * add.n + i) (z.getD i 0).toNat add.mode add.sat).map fun r => (i, r)
      let s := applyWriteBy (some (a, (s.ctx a).r.pc)) s a (wordsAt c add.a (outs.map fun x => (x.1, x.2.code))) []
      linkDone s a add.next (orFlags (outs.map (·.2)))

/-- Give a parent's offer to one named child whose add waits; one that consumes an error there traps, and the offer stays for it (R245, R246,
R254); the add waits for a home that is reserved for a chunk (R207). -/
def serveChild (s : State) (p : CtxId) (pos : Nat) : State :=
  match (s.ctx p).link, childOffer s p pos 2 with
  | some put, some (a, add) =>
    if put.kind ≠ 3 ∨ ¬ put.ready ∨ ¬ bitOf put.m.toNat pos then s
    else if put.n * add.stride ≠ 8 * add.n then linkTrap s a ⟨0x0E, 3, 0, false⟩
    else if (withMate s a).any fun b => s.reserved [tcmLoc b.core 0] then s.holdDue (.linkRendezvous p.core)
    else if (withMate s a).any fun b => (addBad s p put add b).isSome then
      (withMate s a).foldl (fun s b => match addBad s p put add b with | some x => linkConsume s b x.1 x.2.1 x.2.2 | none => s) s
    else
      let s := (withMate s a).foldl (fun s b => runAdd s pos put ((s.ctx b).link.getD add) b) s
      let s := entangle s (s.ctx p).dom (s.ctx a).dom
      let m := put.m &&& ~~~(BitVec.ofNat 8 (2 ^ pos))
      if m = 0 then linkDone s p put.next 0 else s.modCtx p fun c => { c with link := some { put with m := m } }
  | _, _ => s

/-- R247: A link put and collect or put and add pair up and complete. -/
def execLinkRendezvous (parent : CoreId) (s : State) : Host.Outcome State Fault Refusal :=
  .next ((s.core parent).ctxs.foldl (fun s x =>
    let p : CtxId := ⟨parent, x.1⟩
    match (s.ctx p).link with
    | none => s
    | some o =>
      if ¬ o.ready then s
      else if o.kind = 1 then
        let ps := (List.range 8).filter fun c => bitOf o.m.toNat c
        let hs := ps.filterMap fun c => (childOffer s p c 0).map fun h => (c, h.1, h.2)
        if hs.length ≠ ps.length then s
        else if s.reserved [tcmLoc parent 0] then s.holdDue (.linkRendezvous parent)
        else runCollect s p o hs
      else if o.kind = 3 then (List.range 8).foldl (fun s c => serveChild s p c) s
      else s) s)

/-! Folds. -/

/-- The fold forms' operands: d, a, b and n. -/
def foldCheck (e : Env) (fine coarse : Dword) (levelOk : Bool) : Option Trap :=
  let b := e.tsrcS.toNat
  let f := (fine, 32 * b)
  let c := (coarse, 4 * (8 * b / e.stride))
  linkCheck e true (goodB b e.stride) true [f, c] true levelOk

/-- R249: Fold restriction within the core's TCM, raising LEVEL.CUR. -/
def restrfBody (e : Env) (s : State) : Act :=
  let a := e.at'
  let b := e.tsrcS.toNat
  match foldCheck e e.srcS e.oldS (e.r.level != 15) with
  | some t => .trap t
  | none => loadBytes s a (span e.srcS (32 * b)) fun s x =>
      let w := restrictSet s a.core (bits e.r.wsel.toNat 2 2)
      let outs := (List.range (8 * b / e.stride)).map fun k =>
        restrictOut w (fun f => some (bits x (32 * f) 32)) b e.stride e.linkOp e.mode e.f.sat k
      storeBytes s a (outs.zipIdx.flatMap fun (c : Coded × Nat) => bytesAt (e.oldS + BitVec.ofNat 64 (4 * c.2)) 4 c.1.code) fun s =>
        .done (s.setRegs a ({ e.r with level := e.r.level + 1 }.raise (orFlags outs)))
def execRestrf (f : Fields) (s : State) : Host.Outcome State Fault Refusal := issue Forms.restrfF f restrfBody s

/-- R249: Fold prolongation within the core's TCM, lowering LEVEL.CUR. -/
def prolgfBody (e : Env) (s : State) : Act :=
  let a := e.at'
  let b := e.tsrcS.toNat
  let p := 8 * b / e.stride
  match foldCheck e e.oldS e.srcS (e.r.level != 0) with
  | some t => .trap t
  | none => loadBytes s a (span e.srcS (4 * p)) fun s x => loadBytes s a (span e.oldS (32 * b)) fun s z =>
      let y : List W32 := (List.range p).map fun i => BitVec.ofNat 32 (bits x (32 * i) 32)
      let w := prolongSet s a.core (bits e.r.wsel.toNat 0 2)
      let outs : List (Nat × Coded) := (List.range (8 * b)).filterMap fun f =>
        (prolongOut w y p e.stride f (bits z (32 * f) 32) e.mode e.f.sat).map fun r => (f, r)
      storeBytes s a (outs.flatMap fun (c : Nat × Coded) => bytesAt (e.oldS + BitVec.ofNat 64 (4 * c.1)) 4 c.2.code) fun s =>
        .done (s.setRegs a ({ e.r with level := e.r.level - 1 }.raise (orFlags (outs.map Prod.snd))))
def execProlgf (f : Fields) (s : State) : Host.Outcome State Fault Refusal := issue Forms.prolgfF f prolgfBody s

/-! Weight sets and queries. -/

/-- Whether an operation of the core that uses a set is in progress (R251). -/
def setInUse (s : State) (c : CoreId) (restrict : Bool) (k : Nat) : Bool :=
  (s.core c).ctxs.any fun x => x.2.status == .waiting .link && x.2.link.any fun o =>
    if restrict then o.kind == 1 && bits o.ws.toNat 2 2 == k else o.kind == 2 && bits o.ws.toNat 0 2 == k

/-- Load a weight set: an ordinary load, its effect staged to commit (R251). -/
def weightLoad (restrict : Bool) (n : Nat) (eff : Nat → List Byte → Effect) (e : Env) (s : State) : Act :=
  let k := e.f.aux.toNat
  if e.ea.toNat % 16 ≠ 0 then misaligned e.ea
  else if setInUse s e.at'.core restrict k then .wait (.weights restrict k) s
  else loadBytes s e.at' (span e.ea n) fun s x =>
    .done (s.stage e.at' (eff k ((List.range n).map fun i => BitVec.ofNat 8 (x / 256 ^ i))))

/-- R251: Load a restrict weight set. -/
def rwldBody (e : Env) (s : State) : Act := weightLoad true 128 .rwld e s
def execRwld (f : Fields) (s : State) : Host.Outcome State Fault Refusal := issue Forms.wldF f rwldBody s

/-- R251: Load a prolong weight set. -/
def pwldBody (e : Env) (s : State) : Act := weightLoad false 32 .pwld e s
def execPwld (f : Fields) (s : State) : Host.Outcome State Fault Refusal := issue Forms.wldF f pwldBody s

/-- R251: Select the active weight sets at commit. -/
def wselBody (e : Env) (s : State) : Act := .done (s.stage e.at' (.wsel (BitVec.ofNat 4 e.immU)))
def execWsel (f : Fields) (s : State) : Host.Outcome State Fault Refusal := issue Forms.wselF f wselBody s

/-- layq's words (R252, R395). -/
def layqWord (s : State) (a : CtxId) (q : Nat) : Dword :=
  let c := a.core
  let card := (s.ctx a).card
  let kids (p : CoreId → Bool) : Nat := ((List.range 8).filter fun i => match childOf c i with | some k => p k | none => false).map (2 ^ ·) |>.sum
  if q = 0 then
    let par := match parentOf c with | some p => card.isSome && holdsCard s p card | none => false
    BitVec.ofNat 64 (layerOf c.kind * 2 ^ 12 + (if c.kind = .l3 then 0 else childPos c) * 2 ^ 9 + (if par then 2 ^ 8 else 0)
      + kids fun k => card.isSome && holdsCard s k card)
  else
    let down := match parentOf c with
      | some p => (offersAt s p 3).any fun o => (s.ctx o.1).card == card && bitOf o.2.m.toNat (childPos c)
      | none => false
    BitVec.ofNat 64 ((if down then 2 ^ 8 else 0) + kids fun k => (offersAt s k 0).any fun o => (s.ctx o.1).card == card)

/-- R252: Query the core's layer place or pending link offers. -/
def layqBody (e : Env) (s : State) : Act := .done (s.setRegs e.at' (e.putS e.r (layqWord s e.at' e.f.aux.toNat)))
def execLayq (f : Fields) (s : State) : Host.Outcome State Fault Refusal := issue Forms.layqF f layqBody s

end Sys2Proof.Machine
end

