-- ==== Sys2Proof/Machine/Slices.lean ====
section
/-! DEFINITION. Page 5: stack slices (R297 to R312). -/

namespace Sys2Proof.Machine

/-- CORE.ID (R17, R395); a service core reads LAYER 0, its die, its cluster as LOCAL and, as the boot core does, a FLAT that no core of a
layer reads (DESIGN CHOICE, log 11). -/
def coreIdWord (c : CoreId) : Nat :=
  layerOf c.kind * 2 ^ 30 + dieOf c * 2 ^ 26 + localOf c * 2 ^ 16 + (if c.kind = .boot ∨ c.kind = .service then 0x1FFF else c.idx)

/-- A refusal: the precise trap of R304. -/
def refuse (code : Nat) (addr : Dword) : Act := .trap ⟨0x15, BitVec.ofNat 32 code, addr, false⟩
def frameFormat (addr : Dword) : Act := .trap ⟨0x0B, 0, addr, false⟩
def stackOverflow (n : Int) : Act := .trap ⟨0x0A, 0, BitVec.ofInt 64 n, false⟩

/-- R299: Push a delimiter with tag and resume address. -/
def markBody (e : Env) (s : State) : Act :=
  let s30 := e.r.rdS 30
  let n : Int := s30.toNat - 16
  if s30.toNat % 16 ≠ 0 then misaligned s30
  else if stackTopOf s e.at' < s30.toNat ∨ n < stackFloor s e.at' then stackOverflow n
  else
    let s := s.hold e.at' (tcmStore e.at' n.toNat 8 e.target.toNat ++ tcmStore e.at' (n.toNat + 8) 8 (e.srcS.toNat % 2 ^ 16))
    .done (s.setRegs e.at' (e.r.wrS 30 (BitVec.ofInt 64 n)))
def execMark (f : Fields) (s : State) : Host.Outcome State Fault Refusal := issue Forms.markF f markBody s

/-- R299: Pop a delimiter and return its tag; the statements run in order (R10), also where sd is s30. -/
def unmarkBody (e : Env) (s : State) : Act :=
  let s30 := e.r.rdS 30
  let p := s30.toNat
  if p % 16 ≠ 0 ∨ p < stackFloor s e.at' ∨ stackTopOf s e.at' < p + 16 then frameFormat s30
  else stackLoad s e.at' (p + 8) 8 fun s d =>
    if d / 2 ^ 53 ≠ 0 then frameFormat s30
    else
      let r := e.putS e.r (BitVec.ofNat 64 (d % 2 ^ 17))
      .done (s.setRegs e.at' (r.wrS 30 (r.rdS 30 + 16)))
def execUnmark (f : Fields) (s : State) : Host.Outcome State Fault Refusal := issue Forms.unmarkF f unmarkBody s

/-- Read bytes without recording them: their locations and their value, or the act that stops the instruction. -/
def peek (s : State) (a : CtxId) (acc : Nat) (vas : List Dword) : Except Act (List Nat × Nat) :=
  match reachAll s a 0 acc true vas with
  | .error (.trap c i x) => .error (.trap ⟨c, i, x, false⟩)
  | .error (.miss va) => .error (.miss va acc)
  | .error (.loc _) => .error (refuse 5 0)
  | .ok locs =>
    match s.poisonAt a (locs.zip vas) with
    | some p => .error (.trap ⟨0x17, BitVec.ofNat 32 (memKind p.1), p.2, false⟩)
    | none => .ok (locs, s.see a locs)

/-- Read a doubleword of the context's own stack. -/
def peekStack (s : State) (a : CtxId) (va : Nat) : Except Act Nat :=
  (peek s a 0 (span (BitVec.ofNat 64 va) 8)).map (·.2)

/-- Walk the stack from an address to the innermost delimiter with a tag (R297, R303): its address and the records below
it, each one's address and DESC, the highest first; none where the walk reaches top. A record past top is refused with its
own address, as the table of R304 says (log 83). -/
def walkTo (s : State) (a : CtxId) (top tag : Nat) :
    Nat → Nat → List (Nat × Nat) → Except Act (Option (Nat × List (Nat × Nat)))
  | 0, _, _ => .ok none
  | fuel + 1, p, below =>
    if top < p + 16 then .ok none
    else match peekStack s a (p + 8) with
      | .error x => .error x
      | .ok d =>
        let sz := d / 2 ^ 53
        if sz = 0 then if d % 2 ^ 16 = tag then .ok (some (p, below)) else walkTo s a top tag fuel (p + 16) ((p, d) :: below)
        else if top < p + 16 * sz then .error (refuse 2 (BitVec.ofNat 64 p))
        else walkTo s a top tag fuel (p + 16 * sz) ((p, d) :: below)

/-- The walk of cut and of slinfo: the delimiter of a tag and the records below it, after the check of s30 (R303, R309). -/
def findDelimiter (s : State) (a : CtxId) (s30 : Dword) (tag : Nat) : Except Act (Option (Nat × List (Nat × Nat))) :=
  if s30.toNat % 16 ≠ 0 ∨ s30.toNat < stackFloor s a ∨ stackTopOf s a < s30.toNat then .error (frameFormat s30)
  else walkTo s a (stackTopOf s a) tag (2 ^ (stackLogOf s a) / 16 + 1) s30.toNat []

/-- A doubleword of a block of bytes held as a number. -/
def dwAt (x o : Nat) : Nat := bits x (8 * o) 64

/-- The records within a run of frame bytes: each one's offset and DESC; a record past the end is refused at an address
that starts from `base` (R297, R304, R306). -/
def recordsIn (x len base : Nat) : Nat → Nat → Except Act (List (Nat × Nat))
  | 0, _ => .ok []
  | fuel + 1, o =>
    if len ≤ o then .ok []
    else
      let d := dwAt x (o + 8)
      let n := 16 * max (d / 2 ^ 53) 1
      if len < o + n then .error (refuse 2 (BitVec.ofNat 64 (base + o)))
      else (recordsIn x len base fuel (o + n)).map ((o, d) :: ·)

/-- The codes of a frame's slots, its map read by translation (R108); the map's locations go with them. -/
def slotCodes (s : State) (a : CtxId) (desc : Nat) : Except Act (List Nat × List Nat) :=
  let n := 2 * (desc / 2 ^ 53) - 2
  (peek s a 0 (span (BitVec.ofNat 64 (desc % 2 ^ 53 * 8)) (8 * ((n + 31) / 32)))).map fun x =>
    (x.1, (List.range n).map fun j => bits x.2 (2 * j) 2)

/-- One frame's slots in order: the value of each, and what `f` makes of its place, its code and its value. -/
def eachSlot {β : Type} (read : Nat → Except Act Nat) (f : Nat → Nat → Nat → Except Act β) : Nat → List Nat → Except Act (List β)
  | _, [] => .ok []
  | o, c :: t => (read o).bind fun v => (f o c v).bind fun y => (eachSlot read f (o + 8) t).map (y :: ·)

/-- The slots of records in order: a frame's map is read when the frame is reached, after the slots of the frames before it
(R303, R306). The maps' locations go with what `f` makes of the slots. A frame with MAPQ 0 has slots of code 0 alone. -/
def eachFrame {β : Type} (s : State) (a : CtxId) (read : Nat → Except Act Nat) (f : Nat → Nat → Nat → Except Act β) :
    List (Nat × Nat) → Except Act (List Nat × List β)
  | [] => .ok ([], [])
  | (o, d) :: t =>
    if d / 2 ^ 53 = 0 ∨ d % 2 ^ 53 = 0 then eachFrame s a read f t
    else (slotCodes s a d).bind fun c =>
      (eachSlot read f (o + 16) c.2).bind fun ys =>
        (eachFrame s a read f t).map fun r => (c.1 ++ r.1, ys ++ r.2)

/-- The class of an address: a window number, or none for a translated one (R196, R302). -/
def windowClass (va : Dword) : Option Nat := if va.toNat / 2 ^ 48 = 0xFF then some (bits va.toNat 40 8) else none

/-- Whether a slice of a scope may lie at an address, as far as the address tells (R302). -/
def placeOk (scope : Nat) (va : Dword) : Bool :=
  match windowClass va with
  | none => true
  | some w => w ≤ 3 && (match scope with | 1 => true | 2 => 1 ≤ w | 3 => 2 ≤ w | _ => w == 3)

/-- The CHECK of a slice: bytes 0 to 7 of the digest with bytes 8 to 15 and 48 to 55 as zero (R301). -/
def sliceCheck (b : List Byte) : Nat :=
  leNat ((sha3 (b.take 8 ++ List.replicate 8 0 ++ ((b.drop 16).take 32) ++ List.replicate 8 0 ++ b.drop 56)).take 8)

/-- The 512 bytes of a slice before its frames, CHECK zero (R301). -/
def sliceImage (e : Env) (scope tag rmap fb ob : Nat) (asid : BitVec 16) : List Byte :=
  let r := e.r.wrS e.f.dstN 0
  [0x53#8, 0x4C#8, 0x49#8, 0x43#8] ++ leBytes 2 tag
    ++ leBytes 2 (bits e.f.aux.toNat 0 1 + scope * 2 + layerOf e.kind * 16) ++ leBytes 8 1
    ++ leBytes 4 fb ++ leBytes 4 (coreIdWord e.at'.core) ++ leBytes 2 asid.toNat ++ leBytes 2 e.at'.ctx ++ leBytes 4 rmap
    ++ leBytes 8 ob ++ leBytes 8 e.next.toNat ++ leBytes 16 0
    ++ ((List.range 29).flatMap fun i => leBytes 8 (r.rdS (i + 1)).toNat) ++ leBytes 8 (r.rdS 31).toNat
    ++ ((List.range 16).flatMap fun i => leBytes 8 (r.rdF i).toNat)
    ++ ((List.range 7).flatMap fun i => leBytes 8 (r.rdP e.kind (i + 1)).toNat)
    ++ leBytes 8 r.loopCnt.toNat ++ leBytes 8 r.loopTop.toNat ++ leBytes 8 0

/-- A slot of a cut, refused where it points into the stack outside the slice (R303). -/
def cutSlot (ob ot floor top sa c v : Nat) : Except Act Unit :=
  let t : Int := (sa : Int) + sintOf 64 v
  if c = 1 ∧ v ≠ 0 ∧ (v < ob ∨ ot < v) then .error (refuse 3 (BitVec.ofNat 64 sa))
  else if c = 2 ∧ (floor : Int) ≤ t ∧ t < top ∧ ¬ ((ob : Int) ≤ t ∧ t ≤ ot) then .error (refuse 3 (BitVec.ofNat 64 sa))
  else .ok ()

/-- RMAP as cut and graft use it: a bit for each of s1 to s31 but s30 (R301, R303). -/
def rmapHas (rmap j : Nat) : Bool := bitOf rmap j && j != 0 && j != 30

/-- The first register of RMAP that points into the stack outside the slice (R303). -/
def cutReg (e : Env) (ob ot rmap : Nat) : Option Nat :=
  (List.range 32).find? fun j =>
    rmapHas rmap j && (e.r.rdS j) != 0 && ((e.r.rdS j).toNat < ob || ot < (e.r.rdS j).toNat)

/-- R303: Copy frames above a delimiter into a slice and resume at the delimiter. -/
def cutBody (e : Env) (s : State) : Act :=
  let a := e.at'
  let b := e.oldS
  let tag := e.srcS.toNat % 2 ^ 16
  let rmap := e.srcS.toNat / 2 ^ 16 % 2 ^ 32 / 2 % 2 ^ 31 * 2
  let rmap := if bitOf rmap 30 then rmap - 2 ^ 30 else rmap
  let scope := if e.f.scope = 0 then 1 else e.f.scope
  let s30 := e.r.rdS 30
  if 1 < (s.lockstep a).length then refuse 10 e.addr
  else match findDelimiter s a s30 tag with
  | .error x => x
  | .ok none => refuse 1 s30
  | .ok (some (ot, below)) =>
    let ob := s30.toNat
    let fb := ot - ob
    match eachFrame s a (peekStack s a) (cutSlot ob ot (stackFloor s a) (stackTopOf s a)) below.reverse with
    | .error x => x
    | .ok (maps, _) =>
      let s := s.noteRead a (maps ++ tcmBytes a ob (fb + 16))
      match cutReg e ob ot rmap with
      | some j => refuse 3 (BitVec.ofNat 64 j)
      | none =>
        if b.toNat % 64 ≠ 0 then misaligned b
        else if !placeOk scope b then refuse 4 b
        else if e.tsrcS.toNat < 512 + fb then .done (s.setRegs a (e.putS e.r 0))
        else match reachAll s a 0 1 true (span b (512 + fb)) with
          | .error (.trap c i x) => .trap ⟨c, i, x, false⟩
          | .error (.miss va) => .miss va 1
          | .error (.loc _) => refuse 4 b
          | .ok locs =>
            if locs.any isHost then refuse 4 b
            else match peek s a 0 (span s30 fb), peekStack s a ot with
              | .error x, _ | _, .error x => x
              | .ok fr, .ok resume =>
                let img := sliceImage e scope tag rmap fb ob (s.ctx a).asid ++ leBytes fb fr.2
                let img := img.take 48 ++ leBytes 8 (sliceCheck img) ++ img.drop 56
                let s := ((s.hold a (locs.zip img)).useOnce a 0).modCtx a fun c => { c with chunk := { c.chunk with sure := true } }
                .jump (s.setRegs a ((e.putS e.r b).wrS 30 (BitVec.ofNat 64 ot))) (BitVec.ofNat 56 resume)
def execCut (f : Fields) (s : State) : Host.Outcome State Fault Refusal :=
  issueIf Forms.cutF f (fun _ f => cutOk f) cutBody s

/-- A field of a slice's header bytes, held as a number. -/
def hdr (x o n : Nat) : Nat := bits x (8 * o) (8 * n)

/-- INFO 5's conditions but for CHECK (R304). RMAP bits 0 and 30 are no Reserved field: they are ignored (log 84). -/
def sliceBad (x : Nat) : Bool :=
  let fl := hdr x 6 1
  let fb := hdr x 16 4
  hdr x 0 4 != 0x43494C53 || 64 ≤ fl || bits fl 1 3 == 0 || 4 < bits fl 1 3 || hdr x 7 1 != 0 || hdr x 9 3 != 0
    || hdr x 27 1 != 0 || hdr x 56 8 != 0 || hdr x 504 8 != 0
    || fb % 16 != 0 || 16368 < fb

/-- The memory a core's cluster window reaches, by CORE.ID fields (R196, R302); a service core, whose FLAT reads 0x1FFF, has
its cluster as LOCAL (log 11). -/
def windowKey (id : Nat) : Nat × Nat × Nat :=
  let l := bits id 16 10
  match bits id 30 2 with
  | 0 => (0, bits id 26 4, if bits id 0 16 = 0x1FFF then l else l / 16) | 1 => (0, bits id 26 4, l / 2) | 2 => (0, bits id 26 4, 4 * l) | _ => (1, 0, l)

/-- R302: ASID, layer, scope and place; `locs` begins with the handle's own location, whose page is not the host's. -/
def slicePermits (e : Env) (asid : BitVec 16) (x : Nat) (h : Dword) (locs : List Nat) : Bool :=
  let fl := hdr x 6 1
  let me := coreIdWord e.at'.core
  let cutter := hdr x 20 4
  let scope := bits fl 1 3
  hdr x 24 2 == asid.toNat && bits fl 4 2 == layerOf e.kind && placeOk scope h && !((locs.take 1).any isHost)
    && (match scope with
      | 1 => me == cutter
      | 2 => windowKey me == windowKey cutter
      | 3 => bits me 26 4 == bits cutter 26 4
      | _ => true)

/-- A malformed remap word (R305). -/
def remapBad (w : Nat) : Bool :=
  bits w 10 6 != 0 || bits w 8 2 % 2 == 1 || bits w 6 2 == 1 || bits w 4 2 % 2 == 1 || bits w 2 2 == 3 || bits w 0 2 == 3

/-- Whether a window address lies in its window on the grafting core (R196, R305). -/
def windowFits (a : CtxId) (w : Nat) (x : Int) : Bool :=
  let o := x - (tcmWindow + w * 2 ^ 40 : Nat)
  decide (0 ≤ o) && (match w with
    | 0 => decide (o < tcmSize a.core.kind)
    | 1 => if a.core.kind = .l3 then decide (o < 0x100000) else (clusterOf a.core).isSome && decide (o < 0x400000)
    | 2 => decide (o < sramSize (dieOf a.core))
    | 3 => decide (o.toNat / 2 ^ 32 ≤ 8 ∧ o.toNat % 2 ^ 32 < sramSize (o.toNat / 2 ^ 32))
    | _ => a.core.kind == .l0 && decide (o < 1024))

/-- A code-3 slot's new value; none where it is refused (R305). -/
def remapWindow (a : CtxId) (w cutter v : Nat) : Option Nat :=
  if v = 0 then some 0
  else match windowClass (BitVec.ofNat 64 v) with
    | none => none
    | some c =>
      if 4 < c then none
      else
        let act := match c with | 0 => bits w 0 2 | 1 => bits w 2 2 | 2 => bits w 6 2 | 3 => bits w 8 2 | _ => bits w 4 2
        let delta : Int := if c = 0 then sintOf 24 (bits w 16 24) else sintOf 24 (bits w 40 24)
        if act = 2 then none
        else if act = 3 then
          let n : Nat := tcmWindow + 3 * 2 ^ 40 + bits cutter 26 4 * 2 ^ 32 + v % 2 ^ 40
          if v % 2 ^ 40 < 2 ^ 32 && windowFits a 3 n then some n else none
        else
          let n : Int := if act = 1 then (v : Int) + delta else (v : Int)
          if windowFits a c n then some n.toNat else none

/-- A slot's place and new value under graft, or its refusal; `ob` to `ot` are the old frames, `base` is where they stand
in the slice (R306). -/
def graftSlot (a : CtxId) (w cutter ob ot base : Nat) (d : Int) (o c v : Nat) : Except Act (Nat × Nat) :=
  let no : Except Act (Nat × Nat) := .error (refuse 8 (BitVec.ofNat 64 (base + o)))
  match c with
  | 0 => .ok (o, v)
  | 1 => if v = 0 then .ok (o, 0) else if ob ≤ v ∧ v ≤ ot then .ok (o, wrapInt 64 (v + d)) else no
  | 2 =>
    let t : Int := (ob + o : Nat) + sintOf 64 v
    if (ob : Int) ≤ t ∧ t ≤ ot then .ok (o, v) else .ok (o, wrapInt 64 (v - d))
  | _ => match remapWindow a w cutter v with | none => no | some n => .ok (o, n)

/-- Register j in a slice's header (R301). -/
def sliceReg (x j : Nat) : Nat := if j = 31 then hdr x 296 8 else hdr x (56 + 8 * j) 8

/-- The registers a slice restores, RMAP registers moved by d (R306). -/
def graftRegs (e : Env) (x : Nat) (d : Int) : RegState :=
  let mv (j : Nat) : Dword :=
    if rmapHas (hdr x 28 4) j && sliceReg x j != 0 then BitVec.ofInt 64 (sliceReg x j + d) else BitVec.ofNat 64 (sliceReg x j)
  let r := (List.range 32).foldl (fun r j => if j = 0 ∨ j = 30 then r else r.wrS j (mv j)) e.r
  let r := (List.range 16).foldl (fun r i => r.wrF i (BitVec.ofNat 64 (hdr x (304 + 8 * i) 8))) r
  let r := (List.range 7).foldl (fun r i => r.wrP e.kind (i + 1) (BitVec.ofNat 64 (hdr x (432 + 8 * i) 8))) r
  { r with loopCnt := BitVec.ofNat 64 (hdr x 488 8), loopTop := BitVec.ofNat 56 (hdr x 496 8) }

/-- R306: Lay a slice onto the stack, remap it, and resume it: the header is read, then as many bytes of frames as it says, before any
check of it. -/
def graftBody (e : Env) (s : State) : Act :=
  let a := e.at'
  let h := e.srcS
  let w := e.tsrcS.toNat
  let g := e.r.rdS 30
  let top := stackTopOf s a
  if 1 < (s.lockstep a).length then refuse 10 e.addr
  else if h.toNat % 64 ≠ 0 then misaligned h
  else if g.toNat % 16 ≠ 0 ∨ top < g.toNat then frameFormat g
  else match peek s a 0 (span h 512) with
  | .error x => x
  | .ok hd =>
    let x := hd.2
    let fb := hdr x 16 4
    match peek s a 0 (span (off64 h 512) fb) with
    | .error r => r
    | .ok fr =>
      if sliceBad x then refuse 5 h
      else if sliceCheck (leBytes 512 x ++ leBytes fb fr.2) ≠ hdr x 48 8 then refuse 5 h
      else if !slicePermits e (s.ctx a).asid x h (hd.1 ++ fr.1) then refuse 6 h
      else if hdr x 8 1 ≠ 1 then refuse 7 h
      else if remapBad w then refuse 9 0
      else
        let ob := hdr x 32 8
        let ot := ob + fb
        let n : Int := g.toNat - 16 - fb
        let d : Int := n - ob
        if n < stackFloor s a then stackOverflow n
        else
          let base := h.toNat + 512
          match recordsIn fr.2 fb base (fb / 16 + 1) 0 with
          | .error r => r
          | .ok rs =>
            match eachFrame s a (fun o => .ok (dwAt fr.2 o)) (graftSlot a w (hdr x 20 4) ob ot base d) rs with
            | .error r => r
            | .ok (maps, new) =>
                match (List.range 32).find? fun j =>
                  rmapHas (hdr x 28 4) j && sliceReg x j != 0 && !(ob ≤ sliceReg x j && sliceReg x j ≤ ot) with
                | some j => refuse 8 (BitVec.ofNat 64 j)
                | none =>
                  match reachAll s a 0 3 true (span (off64 h 8) 8) with
                  | .error (.trap c i y) => .trap ⟨c, i, y, false⟩
                  | .error (.miss va) => .miss va 3
                  | .error (.loc _) => refuse 7 h
                  | .ok wl =>
                    let word := s.see a wl
                    let state := if bitOf (hdr x 6 1) 0 then 1 else 2
                    let grafts := min (word / 2 ^ 32 + 1) 0xFFFFFFFF
                    let word' := state + word / 256 % 2 ^ 24 * 256 + grafts * 2 ^ 32
                    let frames := new.foldl (fun (b : List Byte) y => b.take y.1 ++ leBytes 8 y.2 ++ b.drop (y.1 + 8)) (leBytes fb fr.2)
                    let frames := match rs.getLast? with
                      | some y => if y.2 / 2 ^ 53 = 0 then frames
                                  else frames.take y.1 ++ leBytes 8 e.next.toNat ++ frames.drop (y.1 + 8)
                      | none => frames
                    let s := s.noteRead a (hd.1 ++ fr.1 ++ maps)
                    let s := s.hold a (wl.zip (leBytes 8 word'))
                    let s := s.hold a ((tcmBytes a n.toNat (fb + 16)).zip
                      (frames ++ leBytes 8 e.next.toNat ++ leBytes 8 (2 ^ 16 + hdr x 4 2)))
                    let r := (graftRegs e x d).wrS 30 (BitVec.ofInt 64 n)
                    .jump (((s.useOnce a 0).setRegs a r).stage a (.grafted ((hd.1 ++ fr.1).map (· / 64)).dedup)) (BitVec.ofNat 56 (hdr x 40 8))
where off64 (a : Dword) (n : Nat) : Dword := a + BitVec.ofNat 64 n
def execGraft (f : Fields) (s : State) : Host.Outcome State Fault Refusal := issue Forms.graftF f graftBody s

/-- The header bytes slfree uses: MAGIC, the Reserved fields, FLAGS, FBYTES and the fields of R302. -/
def slfreeBytes : List Nat := List.range 8 ++ [9, 10, 11] ++ [16, 17, 18, 19, 20, 21, 22, 23, 24, 25, 27]
  ++ (List.range 8).map (56 + ·) ++ (List.range 8).map (504 + ·)

/-- Bytes read at some offsets of a block, put at their places. -/
def spread (offs : List Nat) (n : Nat) : Nat :=
  (offs.zip (leBytes offs.length n)).foldl (fun x y => x + y.2.toNat * 2 ^ (8 * y.1)) 0

/-- R308: Set a slice's state to freed. -/
def slfreeBody (e : Env) (s : State) : Act :=
  let a := e.at'
  let h := e.srcS
  if h.toNat % 64 ≠ 0 then misaligned h
  else match peek s a 0 (slfreeBytes.map fun o => h + BitVec.ofNat 64 o) with
  | .error x => x
  | .ok hd =>
    let x := spread slfreeBytes hd.2
    if sliceBad x then refuse 5 h
    else if !slicePermits e (s.ctx a).asid x h hd.1 then refuse 6 h
    else match reachAll s a 0 3 true (span (h + 8) 8) with
      | .error (.trap c i y) => .trap ⟨c, i, y, false⟩
      | .error (.miss va) => .miss va 3
      | .error (.loc _) => refuse 6 h
      | .ok wl => .done (((s.noteRead a hd.1).hold a [(wl.headD 0, 3)]).useOnce a 0)
def execSlfree (f : Fields) (s : State) : Host.Outcome State Fault Refusal := issue Forms.slfreeF f slfreeBody s

/-- The word slinfo gives for a handle (R309). -/
def sliceWord (x : Nat) : Nat :=
  let fl := hdr x 6 1
  let good := hdr x 0 4 == 0x43494C53
  hdr x 4 2 * 2 ^ 48 + bits fl 1 3 * 2 ^ 45 + bits fl 0 1 * 2 ^ 44 + bits fl 4 2 * 2 ^ 42
    + (if good then hdr x 8 1 % 4 * 2 ^ 40 + (512 + hdr x 16 4) / 16 % 2 ^ 16 * 2 ^ 16 else 0) + min (hdr x 12 4) 0xFFFF

/-- R309: Read slice information or the bytes a cut would need. -/
def slinfoBody (e : Env) (s : State) : Act :=
  let a := e.at'
  if e.f.aux.toNat = 0 then
    if e.srcS.toNat % 64 ≠ 0 then misaligned e.srcS
    else match peek s a 0 (span e.srcS 32) with
      | .error x => x
      | .ok hd => .done (((s.noteRead a hd.1).useOnce a 0).setRegs a (e.putS e.r (BitVec.ofNat 64 (sliceWord hd.2))))
  else
    let s30 := e.r.rdS 30
    match findDelimiter s a s30 (e.srcS.toNat % 2 ^ 16) with
    | .error x => x
    | .ok x =>
      let s := s.noteRead a (tcmBytes a s30.toNat ((match x with | some p => p.1 + 16 | none => stackTopOf s a) - s30.toNat))
      .done (s.setRegs a (e.putS e.r (match x with | some p => BitVec.ofNat 64 (512 + p.1 - s30.toNat) | none => 0)))
def execSlinfo (f : Fields) (s : State) : Host.Outcome State Fault Refusal := issue Forms.slinfoF f slinfoBody s

end Sys2Proof.Machine
end

