-- ==== Sys2Proof/Machine/Csr.lean ====
section
/-! DEFINITION. The control registers (R62, R121, R122): which numbers a context may name, what they read, which of their
fields a write sets, and csrr, csrw, csrs and csrc. A write is staged and acts when its chunk commits. -/

namespace Sys2Proof.Machine

/-! Which numbers exist, and who may write them (R62, R70, R95, R121, R185, R213, R315, R336, R347, R349, R377). -/

/-- The groups of registers whose access depends on the core or the context. -/
inductive CsrGroup where
  | common | bootOnly | privOnly | l0Only | spalloc | boost | bootWrites | readOnlyAll | clusterCtr | dieCtr
  deriving DecidableEq, Repr

/-- The group of a number, none where it is unassigned. -/
def csrGroup (n : Nat) : Option CsrGroup :=
  if n = 0x000 ∨ n = 0x001 then some .common
  else if (0x040 ≤ n ∧ n ≤ 0x042) ∨ n = 0x044 then some .bootOnly
  else if 0x100 ≤ n ∧ n ≤ 0x106 then some .common
  else if 0x110 ≤ n ∧ n ≤ 0x117 then some .privOnly
  else if n = 0x120 ∨ n = 0x121 then some .bootWrites
  else if n = 0x122 then some .common
  else if n = 0x200 then some .bootWrites
  else if n = 0x201 then some .common
  else if 0x300 ≤ n ∧ n ≤ 0x302 then some .common
  else if n = 0x303 then some .bootWrites
  else if n = 0x304 then some .common
  else if n = 0x305 then some .bootWrites
  else if n = 0x306 ∨ n = 0x307 then some .spalloc
  else if 0x308 ≤ n ∧ n ≤ 0x30F then some .bootWrites
  else if 0x310 ≤ n ∧ n ≤ 0x313 then some .common
  else if 0x320 ≤ n ∧ n ≤ 0x35F then some .bootWrites
  else if 0x400 ≤ n ∧ n ≤ 0x407 then some .common
  else if 0x408 ≤ n ∧ n ≤ 0x40E then some .l0Only
  else if 0x410 ≤ n ∧ n ≤ 0x418 then some .l0Only
  else if n = 0x500 ∨ n = 0x501 then some .common
  else if 0x600 ≤ n ∧ n ≤ 0x603 then some .common
  else if n = 0x604 then some .bootWrites
  else if 0x605 ≤ n ∧ n ≤ 0x60D then some .common
  else if 0x610 ≤ n ∧ n ≤ 0x633 then some .boost
  else if 0x640 ≤ n ∧ n ≤ 0x643 then some .bootOnly
  else if 0x700 ≤ n ∧ n ≤ 0x709 then some .readOnlyAll
  else if n = 0x70A ∨ n = 0x70B then some .common
  else if 0x710 ≤ n ∧ n ≤ 0x717 then some .common
  else if 0x720 ≤ n ∧ n ≤ 0x72F then some .clusterCtr
  else if 0x730 ≤ n ∧ n ≤ 0x74F then some .dieCtr
  else none

/-- Whether a number is assigned on a kind of core; a service core counts as an L0 cluster's firmware (log 11). -/
def csrReadable (k : CoreKind) (n : Nat) : Bool :=
  match csrGroup n with
  | none => false
  | some .bootOnly => k == .boot
  | some .privOnly => isPriv k
  | some .l0Only => k == .l0
  | some .spalloc => k == .l0 || k == .l1 || k == .l2
  | some .boost => k == .l0 || k == .service || k == .boot
  | some .clusterCtr => k == .l0 || k == .service
  | some _ => true

/-- Whether a core may name a number in a write. -/
def csrWritable (c : CoreId) (n : Nat) : Bool :=
  csrReadable c.kind n &&
  match csrGroup n with
  | some .bootWrites => c.kind == .boot
  | some .readOnlyAll => false
  | some .boost => c.kind != .l0 || n - 0x610 == localOf c / 16
  | some .clusterCtr => c.kind == .service
  | some .dieCtr => c.kind == .boot
  | _ => true

/-- The RW bits of a register. -/
def csrRw (n : Nat) : Nat :=
  match n with
  | 0x044 => 0xE3C01FFF
  | 0x100 => 0x00FFFFFFFFFFFFFE | 0x101 => 0x00FFFFFFFFFFFFFE | 0x103 => 0xFFFFFFFF000000FF | 0x104 => 0xFFFFFFFFFFFFFFFF
  | 0x105 => 0xFFFFFFFF | 0x106 => 0x0000FFFFFFFFFFFF
  | 0x120 => 0x1FFFF1FFFF | 0x121 => 0x1FFFF1FFFF | 0x200 => 0xFFFFFFFF
  | 0x303 => 0xFFFF | 0x305 => 0xF
  | 0x310 => 0xFFFFFFFFFFFFFFFF | 0x311 => 0x00FFFFFFFFFFFFFE
  | 0x400 => 0xC0 | 0x401 => 0xFFFFFFFF | 0x406 => 0xFFFFFFFF | 0x407 => 0xFFFFFFFF | 0x40A => 0xFFFFFFFF
  | 0x500 => 0xF | 0x501 => 0xF | 0x604 => 0xFFFFFFFF0000FFFF | 0x640 => 0xF3F | 0x70A => 0xFF
  | n =>
    if 0x308 ≤ n ∧ n ≤ 0x30F then 0xF000FFFFFFFFFFFF
    else if 0x320 ≤ n ∧ n ≤ 0x35F then 0xFFFF000FFFFFFFFF
    else if 0x402 ≤ n ∧ n ≤ 0x405 then 0xFFFFFFFFFFFFFFFF
    else if 0x610 ≤ n ∧ n ≤ 0x633 then 0x3
    else if (0x710 ≤ n ∧ n ≤ 0x713) ∨ (0x720 ≤ n ∧ n ≤ 0x727) ∨ (0x730 ≤ n ∧ n ≤ 0x73F) then 0x8000FFFF
    else if (0x714 ≤ n ∧ n ≤ 0x717) ∨ (0x728 ≤ n ∧ n ≤ 0x72F) ∨ (0x740 ≤ n ∧ n ≤ 0x74F) then 0x0000FFFFFFFFFFFF
    else 0

/-- The W1C bits of a register. -/
def csrW1c (n : Nat) : Nat :=
  if n = 0x400 then 0x3F
  else if n = 0x642 then 0x80000000
  else if (0x714 ≤ n ∧ n ≤ 0x717) ∨ (0x728 ≤ n ∧ n ≤ 0x72F) ∨ (0x740 ≤ n ∧ n ≤ 0x74F) then 0x8000000000000000
  else 0

/-! What they read. -/

def EventCtr.sel (x : EventCtr) : Dword := BitVec.ofNat 64 ((if x.en then 2 ^ 31 else 0) + x.ctx.toNat * 2 ^ 8 + x.event.toNat)
def EventCtr.cnt (x : EventCtr) : Dword := BitVec.ofNat 64 ((if x.ovf then 2 ^ 63 else 0) + x.count.toNat)

/-- The pair of two words that SEL and CNT read as. -/
def EventCtr.ofWords (sel cnt : Nat) : EventCtr :=
  ⟨bitOf sel 31, BitVec.ofNat 8 (sel / 2 ^ 8), BitVec.ofNat 8 sel, bitOf cnt 63, BitVec.ofNat 48 cnt⟩

/-- A pair of a list: SEL below `half`, CNT from it on. -/
def evcRead (l : SMap EventCtr) (half i : Nat) : Dword :=
  if i < half then (SMap.read EventCtr.reset l i).sel else (SMap.read EventCtr.reset l (i - half)).cnt

/-- The layer, FLAT, die and ALL that a register of R70 acts on: BOOT.TGT's on the boot core, else the core's own. -/
def csrTarget (s : State) (c : CoreId) : Nat × Nat × Nat × Bool :=
  let t := s.dev.bootTgt.toNat
  if c.kind = .boot then (bits t 30 2, bits t 0 13, bits t 22 4, bitOf t 29) else (layerOf c.kind, c.idx, dieOf c, false)

/-- The channel state of WPTR (R213). -/
def wptr (s : State) (c : CoreId) (ch : Nat) : Dword :=
  match clusterOf c with
  | some cl => let x := s.chan cl ch; BitVec.ofNat 64 (x.tag.toNat * 2 ^ 48 + x.done % 2 ^ 36)
  | none => 0

/-- PLACE (R91). -/
def placeWord (s : State) (a : CtxId) : Dword :=
  let c := s.ctx a
  let k := match c.card with | some n => s.card n | none => CardRun.none
  let fused := match c.gang with | some g => a.ctx == 0 && (s.gangOf g).fused && decide (1 < (s.gangOf g).members.length) | none => false
  BitVec.ofNat 64 (k.field 3 26 2 * 2 ^ 18 + k.field 3 24 2 * 2 ^ 16 + (if fused then 2 ^ 15 else 0) + c.gpos % 16 * 2 ^ 8 + a.ctx % 16)

/-- The capability entries (R376). -/
def capEntry (i : Nat) : Dword :=
  match i with
  | 0 => 0x0001010100000007 | 1 => 0x001001020B204008 | 2 => 0x00200103000FFFFF | 3 => 0x0030010400004002
  | 4 => 0x0040010500003FF0 | 5 => 0x0050010600000440 | 6 => 0x0060010000000024 | _ => 0

/-- The STATE a gating state reads as (R356, R358). -/
def gateCode (k : Cluster) : Nat :=
  match k.gate with
  | .on => 0 | .quiescing => 1 | .quiesced => 2 | .saving => 3 | .saved => 4 | .clkStopping => 5 | .clkOff => 5
  | .railStopping => if k.wakeLatched then 7 else 6
  | .railOff => 6 | .restarting => 5 | .waking => 7

/-- The cluster CL.SEL names, none where it names none (R355). -/
def selCluster (s : State) : Option Nat :=
  let d := bits s.dev.clSel.toNat 8 4
  let c := bits s.dev.clSel.toNat 0 6
  if d < 8 ∧ c < 36 then some (d * 36 + c) else none

/-- The cluster whose request BOOST.REQ[c] names (R349). -/
def boostCluster (s : State) (c : CoreId) (i : Nat) : Option Nat :=
  if c.kind = .boot then (if bits s.dev.clSel.toNat 8 4 < 8 then some (bits s.dev.clSel.toNat 8 4 * 36 + i) else none)
  else some (dieOf c * 36 + i)

/-- The die whose counters a core reads (R377). -/
def evcDie (s : State) (c : CoreId) : Nat := if c.kind = .boot then bits s.dev.clSel.toNat 8 4 else dieOf c

/-- DEFECT.SIG (R35). -/
def defectSig (s : State) : Dword := BitVec.ofNat 64 (leNat ((sha3 s.dev.defects.flatten).take 8))

/-- A register's value; the fields a read does not return are 0. -/
def csrValue (s : State) (a : CtxId) (n : Nat) : Dword :=
  let c := s.ctx a
  let k := s.core a.core
  let r := c.r
  let w (x : Nat) : Dword := BitVec.ofNat 64 x
  match n with
  | 0x000 => w (coreIdWord a.core)
  | 0x001 => defectSig s
  | 0x041 => s.dev.ckptStat
  | 0x042 => s.dev.ckptProg
  | 0x044 => s.dev.bootTgt.setWidth 64
  | 0x100 => r.tvec.setWidth 64
  | 0x101 => r.epc.setWidth 64
  | 0x102 => w ((if isPriv a.core.kind then 2 else 0) + (if r.active then 1 else 0))
  | 0x103 => w (r.info.toNat * 2 ^ 32 + r.code.toNat)
  | 0x104 => r.faddr
  | 0x105 => k.icacheDrop.setWidth 64
  | 0x106 => w (k.errRollback.toNat * 2 ^ 32 + k.errUncorr.toNat * 2 ^ 16 + k.errCorr.toNat)
  | 0x110 => w ((if k.mailbox.held = [] then 0 else 2 ^ 12) + k.mailbox.msgs.length % 2 ^ 12)
  | 0x117 => k.ctxRes.setWidth 64
  | 0x120 => if 8 < (csrTarget s a.core).2.2.1 then 0 else (s.die (csrTarget s a.core).2.2.1).jrnSram
  | 0x121 => if 8 < (csrTarget s a.core).2.2.1 then 0 else (s.die (csrTarget s a.core).2.2.1).jrnHbm
  | 0x122 => w (k.exports.length % 2 ^ 16 * 2 ^ 16 + journalUsed s (1, a.core.key) % 2 ^ 16)
  | 0x200 => s.dev.leaseMax.setWidth 64
  | 0x201 => c.asid.setWidth 64
  | 0x300 => w (c.domKind.toNat * 2 ^ 29 + c.domInst.toNat)
  | 0x301 => w (if (s.dom c.dom).phs && (s.dom c.dom).exch then 1 else 0)
  | 0x302 => (s.dom c.dom).superstep.setWidth 64
  | 0x303 => (s.layer (csrTarget s a.core).1).quantum.setWidth 64
  | 0x304 => placeWord s a
  | 0x305 =>
    let t := csrTarget s a.core
    if a.core.kind = .boot then
      (if coreCount (kindOfLayer t.1) ≤ t.2.1 then 0 else ((s.core ⟨kindOfLayer t.1, t.2.1⟩).stackLog.setWidth 64))
    else k.stackLog.setWidth 64
  | 0x307 => r.spres.setWidth 64
  | 0x310 => r.loopCnt
  | 0x311 => r.loopTop.setWidth 64
  | 0x312 => ttStat (ttView s a)
  | 0x313 => r.voteRes.setWidth 64
  | 0x400 => r.arith.setWidth 64
  | 0x401 => if a.core.kind = .l0 then r.qstall.setWidth 64 else 0
  | 0x406 => r.rngSeed.setWidth 64
  | 0x407 => r.rngCtr.setWidth 64
  | 0x408 => k.mxSlots
  | 0x409 => k.mxSlotLen.setWidth 64
  | 0x40A => r.mxSeed.setWidth 64
  | 0x418 => wptr s a.core (c.gpos % 8)
  | 0x500 => r.level.setWidth 64
  | 0x501 => r.wsel.setWidth 64
  | 0x600 => s.dev.devTime
  | 0x601 => s.dev.ptpStat.setWidth 64
  | 0x602 => s.dev.telEnergy
  | 0x603 => r.telStamp
  | 0x604 => s.dev.pwrCfg
  | 0x605 => w (s.dev.gov / 1000000 % 2 ^ 16 * 2 ^ 48 + s.dev.meas % 2 ^ 16 * 2 ^ 32 + (if s.dev.flr then 2 else 0) + (if s.dev.thr then 1 else 0))
  | 0x640 => s.dev.clSel.setWidth 64
  | 0x642 => w ((if s.dev.clErr = 0 then 0 else 2 ^ 31) + (match selCluster s with | some x => gateCode (s.cluster x) | none => 0))
  | 0x700 => s.dev.ready
  | 0x709 => s.dev.readyQl
  | 0x70A => r.capIdx.setWidth 64
  | 0x70B => capEntry r.capIdx.toNat
  | n =>
    if 0x111 ≤ n ∧ n ≤ 0x114 then (k.mailbox.msgs.headD []).getD (n - 0x111) 0
    else if 0x308 ≤ n ∧ n ≤ 0x30F then (s.layer (csrTarget s a.core).1).wd[n - 0x308]?.getD 0
    else if 0x320 ≤ n ∧ n ≤ 0x35F then SMap.read (0 : Dword) s.dev.fab (n - 0x320)
    else if 0x402 ≤ n ∧ n ≤ 0x405 then r.codebook[n - 0x402]?.getD 0
    else if 0x40B ≤ n ∧ n ≤ 0x40E then r.mxCb[n - 0x40B]?.getD 0
    else if 0x410 ≤ n ∧ n ≤ 0x417 then wptr s a.core (n - 0x410)
    else if 0x606 ≤ n ∧ n ≤ 0x60D then
      let d := s.die (n - 0x606)
      w (d.rr % 64 * 2 ^ 10 + d.idle % 8 * 2 ^ 7 + d.pool % 128)
    else if 0x610 ≤ n ∧ n ≤ 0x633 then
      (match boostCluster s a.core (n - 0x610) with
      | some x => let cl := s.cluster x; w (cl.boostFall.toNat % 2 * 2 ^ 6 + cl.boostCur.toNat * 2 ^ 4 + cl.boostReq.toNat)
      | none => 0)
    else if 0x701 ≤ n ∧ n ≤ 0x708 then SMap.read (0 : Dword) s.dev.readyCl (n - 0x701)
    else if 0x710 ≤ n ∧ n ≤ 0x717 then evcRead k.evc 4 (n - 0x710)
    else if 0x720 ≤ n ∧ n ≤ 0x72F then (match clusterOf a.core with | some x => evcRead (s.cluster x).evc 8 (n - 0x720) | none => 0)
    else if 0x730 ≤ n ∧ n ≤ 0x74F then (if 8 < evcDie s a.core then 0 else evcRead (s.die (evcDie s a.core)).evc 16 (n - 0x730))
    else 0

/-! The instructions. -/

/-- A read of SPALLOC.RES waits until the allocator has served the context's latest committed request (R95). -/
def spallocResReady (s : State) (a : CtxId) : Bool := (s.ctx a).spreqs.isEmpty
/-- A read of TEL.ENERGY latches the boundary's time (R347). -/
def latchStamp (s : State) (n : Nat) (r : RegState) : RegState := if n = 0x602 then { r with telStamp := s.dev.energyStamp } else r

/-- A csrr that names an assigned number is legal; one that writes must also be its register's writer (R49 step 4, R62, R121). -/
def csrrOk (c : CoreId) (f : Fields) : Bool := csrReadable c.kind f.immU
def csrwOk (c : CoreId) (f : Fields) : Bool := csrWritable c f.immU

/-- R121: Read a control register. -/
def csrrBody (e : Env) (s : State) : Act :=
  let n := e.immU
  if n = 0x307 ∧ ¬ spallocResReady s e.at' then .wait .spalloc s
  else .done (s.setRegs e.at' (e.putS (latchStamp s n e.r) (csrValue s e.at' n)))
def execCsrr (f : Fields) (s : State) : Host.Outcome State Fault Refusal := issueIf Forms.csrrF f csrrOk csrrBody s

/-- R121, R122: Write a control register at commit. -/
def csrwBody (e : Env) (s : State) : Act := .done (s.stage e.at' (.csr e.immU 0 e.srcS))
def execCsrw (f : Fields) (s : State) : Host.Outcome State Fault Refusal := issueIf Forms.csrwF f csrwOk csrwBody s

/-- csrs and csrc: the old value, and a staged write of the RW fields (R121, R122). -/
def csrModify (op : Nat) (e : Env) (s : State) : Act :=
  let n := e.immU
  if n = 0x307 ∧ ¬ spallocResReady s e.at' then .wait .spalloc s
  else .done ((s.setRegs e.at' (e.putS (latchStamp s n e.r) (csrValue s e.at' n))).stage e.at' (.csr n op e.srcS))

/-- R121, R122: Read and set control register bits at commit. -/
def csrsBody (e : Env) (s : State) : Act := csrModify 1 e s
def execCsrs (f : Fields) (s : State) : Host.Outcome State Fault Refusal := issueIf Forms.csrsF f csrwOk csrsBody s

/-- R121, R122: Read and clear control register bits at commit. -/
def csrcBody (e : Env) (s : State) : Act := csrModify 2 e s
def execCsrc (f : Fields) (s : State) : Host.Outcome State Fault Refusal := issueIf Forms.csrsF f csrwOk csrcBody s

/-! Writes at commit (R7, R122). -/

/-- The value a write gives the RW fields, the others kept (R121); W1C fields are cleared by ones of a csrw alone. -/
def csrNew (n op : Nat) (old val : Dword) : Dword :=
  let rw : Dword := BitVec.ofNat 64 (csrRw n)
  let wc : Dword := BitVec.ofNat 64 (csrW1c n)
  match op with
  | 0 => (old &&& ~~~rw &&& ~~~(wc &&& val)) ||| (val &&& rw)
  | 1 => old ||| (val &&& rw)
  | _ => old &&& ~~~(val &&& rw)

/-- The event codes of each level (R378). -/
def eventOk (level : Nat) (ev : Nat) : Bool :=
  match level with
  | 0 => 0x01 ≤ ev && ev ≤ 0x0B | 1 => 0x20 ≤ ev && ev ≤ 0x25 | _ => 0x40 ≤ ev && ev ≤ 0x4A

/-- Write a counter pair's register (R377). -/
def evcWrite (level half : Nat) (l : SMap EventCtr) (i : Nat) (v : Dword) : SMap EventCtr :=
  let j := if i < half then i else i - half
  let x := SMap.read EventCtr.reset l j
  let n := v.toNat
  if i < half then
    let ctx := bits n 8 8
    SMap.put l j { x with
      en := bitOf n 31
      ctx := BitVec.ofNat 8 (if level = 0 ∧ ctx ≤ 10 then ctx else 0xFF)
      event := BitVec.ofNat 8 (if eventOk level (bits n 0 8) then bits n 0 8 else 0) }
  else SMap.put l j { x with count := BitVec.ofNat 48 n, ovf := bitOf n 63 }

/-- A context's own registers. -/
def csrPutCtx (k : CoreKind) (n : Nat) (v : Dword) (r : RegState) : RegState :=
  match n with
  | 0x100 => { r with tvec := v.setWidth 56 }
  | 0x101 => { r with epc := v.setWidth 56 }
  | 0x103 => { r with info := BitVec.ofNat 32 (v.toNat / 2 ^ 32), code := v.setWidth 8 }
  | 0x104 => { r with faddr := v }
  | 0x310 => { r with loopCnt := v }
  | 0x311 => { r with loopTop := v.setWidth 56 }
  | 0x400 => { r with arith := v.setWidth 8 }
  | 0x401 => if k = .l0 then { r with qstall := v.setWidth 32 } else r
  | 0x406 => { r with rngSeed := v.setWidth 32 }
  | 0x407 => { r with rngCtr := v.setWidth 32 }
  | 0x40A => { r with mxSeed := v.setWidth 32 }
  | 0x500 => { r with level := v.setWidth 4 }
  | 0x501 => { r with wsel := v.setWidth 4 }
  | 0x70A => { r with capIdx := v.setWidth 8 }
  | n => if 0x402 ≤ n ∧ n ≤ 0x405 then { r with codebook := r.codebook.setIfInBounds (n - 0x402) v } else r

/-- The limits a write must keep: WD.CLASS, STACK.CFG and PWR.CFG (R78, R82, R347). -/
def csrAllowed (n : Nat) (v : Nat) : Bool :=
  if 0x308 ≤ n ∧ n ≤ 0x30F then
    bits v 0 16 == 0 || (decide (bits v 0 16 < bits v 16 16) && decide (bits v 16 16 < bits v 32 16))
  else if n = 0x305 then 10 ≤ v % 16 && v % 16 ≤ 14
  else if n = 0x604 then
    1 ≤ bits v 48 16 && bits v 48 16 ≤ 3600 && bits v 32 16 ≤ bits v 48 16 && 10 ≤ bits v 0 16 && bits v 0 16 ≤ 2000
  else true

/-- Set the stack size of the cores a write of STACK.CFG reaches; each core's own field is set, or its own bits set or cleared
(R70, R82, R121). -/
def writeStackCfg (s : State) (t : Nat × Nat × Nat × Bool) (op : Nat) (v : Dword) : State :=
  let k := kindOfLayer t.1
  let one (s : State) (i : Nat) : State :=
    let new := csrNew 0x305 op ((s.core ⟨k, i⟩).stackLog.setWidth 64) v
    if csrAllowed 0x305 new.toNat then s.modCore ⟨k, i⟩ fun c => { c with stackLog := new.setWidth 4 } else s
  if coreCount k ≤ t.2.1 then s else if t.2.2.2 then (List.range (coreCount k)).foldl one s else one s t.2.1

/-- Whether a cluster holds a context of any card (R349). -/
def clusterHeld (s : State) (cl : Nat) : Bool :=
  s.cores.any fun c => (coreOfKey c.1).kind == .l0 && (coreOfKey c.1).idx / 16 == cl && c.2.ctxs.any fun x => x.2.status != .free && x.2.card.isSome

/-- Give a register without an action its new value (R122). -/
def csrPut (s : State) (a : CtxId) (n : Nat) (v : Dword) : State :=
  let c := a.core
  let t := csrTarget s c
  if !csrAllowed n v.toNat then s
  else match n with
  | 0x044 => s.addDev fun d => { d with bootTgt := v.setWidth 32 }
  | 0x105 => s.modCore c fun k => { k with icacheDrop := v.setWidth 32 }
  | 0x106 => s.modCore c fun k => { k with
      errRollback := BitVec.ofNat 16 (v.toNat / 2 ^ 32), errUncorr := BitVec.ofNat 16 (v.toNat / 2 ^ 16), errCorr := v.setWidth 16 }
  | 0x120 => if 8 < t.2.2.1 then s else s.modDie t.2.2.1 fun d => { d with jrnSram := v }
  | 0x121 => if 8 < t.2.2.1 then s else s.modDie t.2.2.1 fun d => { d with jrnHbm := v }
  | 0x200 => s.addDev fun d => { d with leaseMax := v.setWidth 32 }
  | 0x303 => s.modLayer t.1 fun l => { l with quantum := v.setWidth 16 }
  | 0x604 => s.addDev fun d => { d with pwrCfg := v }
  | 0x640 => s.addDev fun d => { d with clSel := v.setWidth 32 }
  | 0x642 => s.addDev fun d => { d with clErr := if bitOf v.toNat 31 then d.clErr else 0 }
  | n =>
    if 0x308 ≤ n ∧ n ≤ 0x30F then s.modLayer t.1 fun l => { l with wd := l.wd.setIfInBounds (n - 0x308) v }
    else if 0x320 ≤ n ∧ n ≤ 0x35F then s.addDev fun d => { d with fab := SMap.put d.fab (n - 0x320) v }
    else if 0x610 ≤ n ∧ n ≤ 0x633 then
      (match boostCluster s c (n - 0x610) with
      | some x => if clusterHeld s x then s.modCluster x fun k => { k with boostReq := if v.toNat % 4 = 3 then 2 else v.setWidth 2 } else s
      | none => s)
    else if 0x710 ≤ n ∧ n ≤ 0x717 then s.modCore c fun k => { k with evc := evcWrite 0 4 k.evc (n - 0x710) v }
    else if 0x720 ≤ n ∧ n ≤ 0x72F then
      (match clusterOf c with | some x => s.modCluster x fun k => { k with evc := evcWrite 1 8 k.evc (n - 0x720) v } | none => s)
    else if 0x730 ≤ n ∧ n ≤ 0x74F then
      (if 8 < evcDie s c then s else s.modDie (evcDie s c) fun d => { d with evc := evcWrite 2 16 d.evc (n - 0x730) v })
    else s.modCtx a fun x => { x with r := csrPutCtx c.kind n v x.r }

end Sys2Proof.Machine
end

