-- ==== Sys2Proof/Machine/Queues.lean ====
section
/-! DEFINITION. Queues, doorbells, slots and triggers (R65 to R75), completion records (R67), and images (R36, R37). -/

namespace Sys2Proof.Machine

/-! The distributor's memory accesses. -/

/-- The location of a byte of an address space, as the distributor reaches it (log 20). -/
def distLoc (asid va : Nat) : Nat := Config.pageOf asid (va / 4096 % 2 ^ 44) % 2 ^ 41 * 4096 + va % 4096
/-- A committed doubleword. -/
def State.dword (s : State) (l : Nat) : Dword := BitVec.ofNat 64 (s.number ((List.range 8).map (l + ·)))
/-- A write by the device itself, recorded at its homes. -/
def devWrite (s : State) (l : List (Nat × Byte)) : State :=
  let locs := l.map (·.1)
  (recordWrites s [] ((locs.map homeOf).dedup) ((linesOf locs).map sigBit).dedup).putBytes l
/-- The bytes of some doublewords from a location on. -/
def dwordBytes (l : Nat) (d : List Dword) : List (Nat × Byte) :=
  (d.flatMap fun x => num8 x.toNat).zipIdx.map fun b => (l + b.2, b.1)
/-- Doublewords of an address space, read and written by the distributor. -/
def distRead (s : State) (asid va n : Nat) : List Dword := (List.range n).map fun i => s.dword (distLoc asid (va + 8 * i))
/-- Its reads of HBM count (R378). -/
def State.distNoted (s : State) (asid va n : Nat) : State := s.noteHbm 0x41 ((List.range (8 * n)).map fun i => distLoc asid (va + i))
def distWrite (s : State) (asid va : Nat) (d : List Dword) : State :=
  devWrite s (d.zipIdx.flatMap fun x => dwordBytes (distLoc asid (va + 8 * x.2)) [x.1])

/-! Descriptors (R65). -/

def Queue.word (q : Queue) (i : Nat) : Nat := (q.desc.getD i 0).toNat
def Queue.ring (q : Queue) : Nat := bits (q.word 0) 0 56
def Queue.cpl (q : Queue) : Nat := bits (q.word 1) 0 56
def Queue.asid (q : Queue) : Nat := bits (q.word 3) 48 16
def Queue.size (q : Queue) : Nat := 2 ^ bits (q.word 3) 8 4
def Queue.layerNo (q : Queue) : Nat := bits (q.word 3) 6 2
def Queue.irq (q : Queue) : Bool := bitOf (q.word 3) 5
def Queue.ser (q : Queue) : Bool := bitOf (q.word 3) 4
def Queue.devfed (q : Queue) : Bool := bitOf (q.word 3) 3
def Queue.cfc (q : Queue) : Bool := bitOf (q.word 3) 1
/-- TAIL − HEAD. -/
def Queue.depth (q : Queue) : Nat := (q.tail - q.head).toNat

/-- Whether no record of a card is left to deal (R65 DEALT). -/
def CardRun.dealtAll (k : CardRun) : Bool :=
  k.refused.isSome || k.done || k.killed ||
    (0 < k.recCount && decide (k.recCount ≤ k.next) && (!k.dup || decide (k.recCount ≤ k.nextB)))

/-- The first card not wholly dealt (R68). -/
def State.headCard (s : State) (q : Nat) : Option Nat := (s.queue q).cards.find? fun n => !(s.card n).dealtAll
/-- DEALT: the cards wholly dealt, together with those that were refused, also behind one that is not (R65). -/
def State.dealt (s : State) (q : Nat) : W32 :=
  (s.queue q).head + BitVec.ofNat 32 ((s.queue q).cards.countP fun n => (s.card n).dealtAll)

def descLoc (s : State) (q : Nat) : Nat := s.dev.qtabBase + 64 * q
/-- A 32-bit field of a descriptor. -/
def putField (s : State) (q off : Nat) (v : W32) : State :=
  devWrite s ((List.range 4).map fun i => (descLoc s q + off + i, BitVec.ofNat 8 (v.toNat / 256 ^ i)))
/-- Write back TAIL, HEAD and DEALT as the device keeps them (R65). -/
def syncDesc (s : State) (q : Nat) : State :=
  let d := s.dealt q
  putField (putField (putField s q 16 (s.queue q).tail) q 20 (s.queue q).head) q 36 d
/-- Write the bits of a mask into DW3's low byte of a descriptor, whose other bits stay as they are: bit 0 EN, bit 2 ERR (R65). -/
def putBits (s : State) (q : Nat) (mask v : Byte) : State :=
  devWrite s [(descLoc s q + 24, (Memory.byte s.mem (descLoc s q + 24) &&& ~~~mask) ||| (v &&& mask))]
/-- Write them back where DEALT is no more what it was in an earlier state. -/
def syncFrom (was s : State) (q : Nat) : State := if s.dealt q = was.dealt q then s else syncDesc s q
/-- A descriptor as it stands in memory. -/
def descNow (s : State) (q : Nat) : List Dword := (List.range 8).map fun i => s.dword (descLoc s q + 8 * i)
/-- The device reads bytes; those of each HBM stack count (R378). -/
def State.devRead (s : State) (l n : Nat) : State := s.noteHbm 0x41 ((List.range n).map (l + ·))
/-- The distributor reads a descriptor as its queue is enabled (R65). -/
def readDesc (s : State) (q : Nat) : State := (s.modQueue q fun x => { x with desc := descNow s q }).devRead (descLoc s q) 64
/-- The distributor reads the descriptor of an enabled queue as its doorbell rings: whatever software has written meanwhile, the queue stays
in its ASID (R9, R65). -/
def rereadDesc (s : State) (q : Nat) : State :=
  (s.modQueue q fun x => { x with desc := (descNow s q).modify 3 fun w => BitVec.ofNat 64 (w.toNat % 2 ^ 48 + x.asid * 2 ^ 48) }).devRead (descLoc s q) 64

/-! Work and slots (R68, R69, R374). -/

/-- Whether a card's functions are ready (R374). -/
def cardReady (s : State) (k : CardRun) : Bool :=
  let r := s.dev.ready.toNat
  bits r 0 17 == 2 ^ 17 - 1 &&
  ((List.range 3).all fun i => !bitOf k.layers (i + 1) || bitOf r (25 + i)) &&
  (k.domain != 5 || s.dev.fab.all fun e =>
    bits e.2.toNat 48 16 != k.field 3 48 16 || (List.range 36).all fun p => !bitOf e.2.toNat p || bitOf s.dev.readyQl.toNat p)

/-- Whether some record of a card has been dealt. -/
def CardRun.begun (k : CardRun) : Bool := 0 < k.next || 0 < k.nextB
/-- Bytes of the duplicate pool in use: a duplicate card holds its shadow from its first chunk until it is over (R77). -/
def poolHeld (s : State) : Nat := (s.cards.map fun c => if c.2.dup && c.2.begun && !c.2.done then c.2.field 6 0 40 else 0).sum
/-- Whether a duplicate card has its shadow or the pool can supply it (R77). -/
def shadowHere (s : State) (k : CardRun) : Bool := !k.dup || k.begun || decide (poolHeld s + k.field 6 0 40 ≤ Config.dupPool)

/-- Whether a queue has work (R68, R77). -/
def hasWork (s : State) (q : Nat) : Bool :=
  let x := s.queue q
  x.en &&
  match s.headCard q with
  | none => false
  | some n => let k := s.card n; k.fired && cardReady s k && (!x.ser || x.cards.head? == some n) && shadowHere s k

/-- The lowest free slot numbers filled from the head of the waiting list; which free slot a queue gets is the model's choice (log 78). -/
def fillSlots (now : Nat) : Nat → Layer → Layer
  | 0, l => l
  | fuel + 1, l =>
    match l.waiting, (List.range 64).find? fun i => l.slots.all fun x => x.num != i with
    | q :: w, some i => fillSlots now fuel { l with waiting := w, slots := l.slots ++ [⟨i, q, now⟩] }
    | _, _ => l

/-- Bring a layer's slots and waiting list up to date: a queue that has lost its work leaves, one that has gained work joins, and free
slots are filled (R68). -/
def mapSlots (s : State) (l : Nat) : State :=
  s.modLayer l fun x =>
    let qs := (s.queues.map (·.1)).filter fun q => (s.queue q).layerNo == l && hasWork s q
    let slots := x.slots.filter fun y => qs.contains y.queue
    let w := x.waiting.filter fun q => qs.contains q
    let new := qs.filter fun q => !(slots.any fun y => y.queue == q) && !w.contains q
    fillSlots s.ticks 64 { x with slots := slots, waiting := w ++ new }

/-- Head cards without records complete at once, each after its trigger (R27, R374). -/
def endEmpty (q : Nat) : Nat → State → State
  | 0, s => s
  | fuel + 1, s =>
    match s.headCard q with
    | none => s
    | some n =>
      let k := s.card n
      if k.recCount = 0 ∧ k.fired ∧ cardReady s k ∧ (s.queue q).en then
        endEmpty q fuel ((s.modCard n fun k => { k with done := true }).due (.completionRecordWrite q))
      else s

/-- A queue's cards have changed: empty heads complete, its layer's slots follow at once, and a head whose trigger counter stands at its
threshold fires (R27, R68, R74). -/
def tend (s : State) (q : Nat) : State :=
  let s := mapSlots (syncFrom s (endEmpty q (s.queue q).cards.length s) q) (s.queue q).layerNo
  match s.headCard q with
  | none => s
  | some n =>
    let k := s.card n
    if k.fired ∨ (SMap.read (0 : W32) s.dev.trig (k.field 4 0 12)).toNat < k.field 4 32 16 then s else s.due (.triggerFire q)

/-- Every queue is tended: what they all wait for has changed. -/
def tendAll (s : State) : State := (s.queues.map (·.1)).foldl tend s

/-- Slots held longest first, ties by the higher number (R69). -/
def oldestSlots (l : Layer) : List Slot :=
  l.slots.mergeSort fun x y => decide (x.since < y.since) || (x.since == y.since && decide (y.num ≤ x.num))

/-- R69: At a quantum boundary the oldest slots are released, join the waiting list at one time and so in the order of their queues
(R68), and are refilled from its head. -/
def execQuantumBoundary (layer : Nat) (s : State) : Host.Outcome State Fault Refusal :=
  let s := mapSlots s layer
  .next ((s.modLayer layer fun x =>
    let out := (oldestSlots x).take (min x.waiting.length 64)
    fillSlots s.ticks 64 { x with
      slots := x.slots.filter fun y => !(out.contains y)
      waiting := x.waiting ++ (out.map (·.queue)).mergeSort fun a b => decide (a ≤ b) }).due (.dealingRound layer))

/-! Cards. -/

/-- A card takes its place at the tail of its queue's list: refused with its code, or waiting for its trigger and for
dealing (R26, R66, R67, R74). One that enters a queue disabled meanwhile, as a staged job card's may be, is refused with 0x14: the
model's choice (log 77). -/
def enterCard (s : State) (q : Nat) (dw table : List Dword) (code : Nat) (image : Option (Nat × Nat × Nat)) : State :=
  let x := s.queue q
  let n := s.nextCard
  let code := if !x.en then 0x14 else code
  let k : CardRun := { CardRun.none with
    dw := dw, table := table, queue := q, layer := x.layerNo, asid := BitVec.ofNat 16 x.asid
    num := (x.head + BitVec.ofNat 32 x.cards.length).toNat, image := image, done := code != 0
    refused := if code = 0 then none else some (BitVec.ofNat 8 code), status := BitVec.ofNat 8 code
    shadowBase := Config.shadowBase n }
  let k := { k with fired := !k.flag 3 0 }
  let s : State := { s with nextCard := n + 1, cards := SMap.put s.cards n k }
  let s := s.modQueue q fun x => { x with cards := x.cards ++ [n] }
  if code ≠ 0 then s.due (.completionRecordWrite q) else (tend s q).due (.dealingRound x.layerNo)

/-- The code of a card for a queue: R26's, then the layer check of R66. -/
def codeFor (x : Queue) (dw table : List Dword) : Nat :=
  match cardCode dw table with
  | 0 => if ({ CardRun.none with dw := dw } : CardRun).low = x.layerNo then 0 else 0x13
  | n => n

/-- The cycle table of a card, where it has one that can be read (R27, R29). -/
def hasTable (dw : List Dword) : Bool := bitOf (dw.getD 3 0).toNat 3 && bits (dw.getD 0 0).toNat 0 5 == 0

/-- Read the next published card of a queue from its ring, and enter it (R27, R66). -/
def fetchOne (s : State) (q : Nat) : State :=
  let x := s.queue q
  let n := (x.head + BitVec.ofNat 32 x.cards.length).toNat
  let dw := distRead s x.asid (x.ring + 64 * (n % x.size)) 8
  let at' := bits (dw.getD 0 0).toNat 0 56
  let table := if hasTable dw then distRead s x.asid at' 4 else []
  let s := s.distNoted x.asid (x.ring + 64 * (n % x.size)) 8
  let s := if hasTable dw then s.distNoted x.asid at' 4 else s
  enterCard s q dw table (codeFor x dw table) none

def mustFetch (x : Queue) : Bool := !x.devfed && decide (x.cards.length < x.depth)

/-- R66: The distributor reads a published card and applies the checks. -/
def execCardFetch (q : Nat) (s : State) : Host.Outcome State Fault Refusal :=
  if (s.queue q).en && mustFetch (s.queue q) then
    let s := fetchOne s q
    .next (syncDesc (if mustFetch (s.queue q) then s.due (.cardFetch q) else s) q)
  else .next s

/-- Read every published card. -/
def fetchAll (q : Nat) : Nat → State → State
  | 0, s => s
  | n + 1, s => if mustFetch (s.queue q) then fetchAll q n (fetchOne s q) else s

/-- Disable a queue: every card not yet wholly dealt is refused with STATUS 0x14, or ends with it once its running contexts
have ended (R66). -/
def disableQueue (s : State) (q : Nat) : State :=
  if !(s.queue q).en then s
  else
    let s := putBits (s.modQueue q fun x => { x with en := false }) q 1 0
    let s := fetchAll q (s.queue q).depth s
    let s := (s.queue q).cards.foldl (fun s n =>
      let k := s.card n
      if k.dealtAll then s
      else if !k.begun then s.modCard n fun k => { k with refused := some 0x14, status := 0x14, done := true }
      else (s.modCard n fun k => { k with status := 0x14, next := k.recCount, nextB := k.recCount }).due (.cardRetirement n)) s
    syncDesc ((tend s q).due (.completionRecordWrite q)) q

/-- Apply TAILW at a doorbell, after the descriptor is read (R65, R66): ignored where the queue is fed by jenq; a bad value sets ERR and disables the queue. -/
def applyTail (s : State) (q : Nat) (tailw : BitVec 31) : State :=
  let x := s.queue q
  if x.devfed then s
  else
    let b := bits x.tail.toNat 31 1
    let b := if tailw.toNat < x.tail.toNat % 2 ^ 31 then 1 - b else b
    let new : W32 := BitVec.ofNat 32 (b * 2 ^ 31 + tailw.toNat)
    if x.size < (new - x.head).toNat ∨ (new - x.head).toNat < x.depth then
      disableQueue (putBits (s.modQueue q fun x => { x with err := 1 }) q 4 4) q
    else (s.modQueue q fun x => { x with tail := new }).due (.cardFetch q)

/-- Enable a queue whose HEAD equals its TAIL: counts become 0, the descriptor is read, TAILW is applied (R66). -/
def enableNow (s : State) (q : Nat) (tailw : BitVec 31) : State :=
  let s := readDesc (s.modQueue q fun x => { x with en := true, head := 0, tail := 0, chead := 0, cards := [], waitEnable := none }) q
  let s := s.modQueue q fun x => { x with err := if bitOf (x.word 3) 2 then 1 else 0 }
  syncDesc (applyTail (putField (putBits s q 1 1) q 32 0) q tailw) q

/-- A write of the doorbell block acts once the boot core has enabled the block (R373, log 75). -/
def atDoorbell (s : State) (g : State → State) : Host.Outcome State Fault Refusal := .next (if bitOf s.dev.ready.toNat 28 then g s else s)

/-- R66: A doorbell with ENW 1 and ENV 1 enables a queue, possibly deferred; on an enabled queue it applies TAILW. -/
def execQueueEnable (q : Nat) (tailw : BitVec 31) (s : State) : Host.Outcome State Fault Refusal :=
  atDoorbell s fun s =>
    if (s.queue q).en then syncDesc (applyTail (rereadDesc s q) q tailw) q
    else if (s.queue q).head = (s.queue q).tail then enableNow s q tailw
    else s.modQueue q fun x => { x with waitEnable := some (tailw.setWidth 32) }

/-- R66: A waiting enable takes effect once HEAD equals TAIL. -/
def execQueueEnableDeferred (q : Nat) (s : State) : Host.Outcome State Fault Refusal :=
  match (s.queue q).waitEnable with
  | some t => if (s.queue q).head = (s.queue q).tail then .next (enableNow s q (t.setWidth 31)) else .next s
  | none => .next s

/-- R66: A doorbell with ENW 1 and ENV 0 applies TAILW, disables a queue and refuses undealt cards; a waiting enable is dropped
(log 77). -/
def execQueueDisable (q : Nat) (tailw : BitVec 31) (s : State) : Host.Outcome State Fault Refusal :=
  atDoorbell s fun s =>
    if (s.queue q).en then disableQueue (applyTail (rereadDesc s q) q tailw) q
    else s.modQueue q fun x => { x with waitEnable := none }

/-- R66: A doorbell publishes a new TAIL, or sets ERR and disables on a bad value. On a disabled queue, also while an enable waits, its
TAILW is ignored: the model's choice (log 77). -/
def execTailUpdate (q : Nat) (tailw : BitVec 31) (s : State) : Host.Outcome State Fault Refusal :=
  atDoorbell s fun s => if (s.queue q).en then syncDesc (applyTail (rereadDesc s q) q tailw) q else s

/-- R66: A CDB write sets CHEAD, freeing completion entries. -/
def execCompletionDoorbell (q : Nat) (chead : W32) (s : State) : Host.Outcome State Fault Refusal :=
  atDoorbell s fun s => (putField (s.modQueue q fun x => { x with chead := chead }) q 32 chead).due (.completionRecordWrite q)

/-! Triggers. -/

/-- The queues whose head card waits on a trigger counter, in ascending number. -/
def triggerWaiters (s : State) (k : Nat) : List Nat :=
  (s.queues.map (·.1)).filter fun q => match s.headCard q with
    | some n => !(s.card n).fired && (s.card n).field 4 0 12 == k | none => false

/-- A trigger counter changes; each waiting head may fire in turn (R74). -/
def setTrigger (s : State) (k : Nat) (v : W32) : State :=
  let s := s.addDev fun d => { d with trig := SMap.put d.trig k v }
  (triggerWaiters s k).foldl (fun s q => s.due (.triggerFire q)) s

/-- R75: one increment, saturating. -/
def trigAdd (s : State) (k : Nat) : State :=
  let v := SMap.read (0 : W32) s.dev.trig k
  setTrigger s k (if v = 0xFFFFFFFF then v else v + 1)

/-- R66: The host writes a trigger counter through the doorbell block. -/
def execTriggerCounterWrite (k : Nat) (v : W32) (s : State) : Host.Outcome State Fault Refusal :=
  atDoorbell s fun s => setTrigger s k v

/-- R74: A head card's trigger threshold is met; the counter is reduced and the card becomes dealable. -/
def execTriggerFire (q : Nat) (s : State) : Host.Outcome State Fault Refusal :=
  match s.headCard q with
  | none => .next s
  | some n =>
    let c := s.card n
    let k := c.field 4 0 12
    let thr := c.field 4 32 16
    let v := (SMap.read (0 : W32) s.dev.trig k).toNat
    if c.fired ∨ v < thr then .next s
    else
      let s := s.addDev fun d => { d with trig := SMap.put d.trig k (BitVec.ofNat 32 (v - thr)) }
      .next ((syncFrom s (tend (s.modCard n fun c => { c with fired := true }) q) q).due (.dealingRound c.layer))

/-! jenq. -/

/-- Ring entries of a queue reserved by staged cards, in open chunks and in export buffers, as a context finds them: a pair's card once,
which is the member's own for the member itself, and none for copy B, whose cards are discarded (R73, R77, R322). -/
def reservedEntries (s : State) (me : Option CtxId) (q : Nat) : Nat :=
  let isIt (x : Effect) : Bool := match x with | .jenq p _ _ => p == q | _ => false
  let mine : Option CtxId := me.bind fun a => if (s.ctx a).copy = .shadow then (s.ctx a).mate.map fun m => ⟨m, a.ctx⟩ else none
  ((s.allCtxs.filter fun b => some b != mine && (s.ctx b).copy != .copyB && ((s.ctx b).copy != .shadow || (mine.isSome && some b == me))).map fun b =>
      (s.ctx b).chunk.effects.countP isIt).sum
    + (s.cores.map fun c => c.2.exports.countP fun e => isIt e.fx).sum

/-- The outcome code of jenq (R73). -/
def jenqCode (s : State) (a : CtxId) (q : Nat) (dw table : List Dword) : Nat :=
  let x := s.queue q
  if 4095 < q then 0x12
  else if !x.en || !x.devfed || x.asid != (s.ctx a).asid.toNat then 0x11
  else match codeFor x dw table with
    | 0 => if x.size ≤ x.depth + reservedEntries s (some a) q then 0x10 else 0
    | n => n

/-- The code of a card that no cycle table can change: of its number, its queue, its reserved fields or its layers; none where the table
counts. -/
def earlyCode (s : State) (a : CtxId) (q : Nat) (dw : List Dword) : Option Nat :=
  let code := jenqCode s a q dw []
  if code = 0x12 ∨ code = 0x11 ∨ code = 1 ∨ code = 2 ∨ !hasTable dw then some code else none

/-- R73: Enqueue a job card to a device-fed queue as an export effect. The cycle table of a card whose checks get to it is read before the
rest of check 0x03 (log 80). -/
def jenqBody (e : Env) (s : State) : Act :=
  let a := e.at'
  let q := e.srcS.toNat
  let va := e.tsrcS
  let dws (x n : Nat) : List Dword := (List.range n).map fun i => BitVec.ofNat 64 (bits x (64 * i) 64)
  if va.toNat % 64 ≠ 0 then misaligned va
  else loadBytes s a (span va 64) fun s x =>
    let dw := dws x 8
    let fin (s : State) (code : Nat) (table : List Dword) : Act :=
      let s := s.setRegs a (e.putS e.r (BitVec.ofNat 64 code))
      .done (if code = 0 then s.stage a (.jenq q dw table) else s)
    match earlyCode s a q dw with
    | some code => fin s code []
    | none => loadBytes s a (span (BitVec.ofNat 64 (bits (dw.getD 0 0).toNat 0 56)) 32) fun s y => fin s (jenqCode s a q dw (dws y 4)) (dws y 4)
def execJenq (f : Fields) (s : State) : Host.Outcome State Fault Refusal := issue Forms.jenqF f jenqBody s

/-- A staged card enters its queue at the TAIL current at its arrival (R73). -/
def enterJob (s : State) (q : Nat) (dw table : List Dword) (image : Option (Nat × Nat × Nat)) : State :=
  let x := s.queue q
  let s := distWrite s x.asid (x.ring + 64 * (x.tail.toNat % x.size)) dw
  let s := s.modQueue q fun x => { x with tail := x.tail + 1 }
  syncDesc (enterCard s q dw table 0 image) q

/-! Images (R36, R37). -/

/-- A little-endian number of n bytes. -/
def State.num (s : State) (l n : Nat) : Nat := s.number ((List.range n).map (l + ·))

/-- The variant of an image at a location whose SIG equals DEFECT.SIG, none where its header is bad or no variant matches. A variant
count outside the 1 to 64 of R36 makes a header bad: the model's choice (log 76). -/
def matchVariant (s : State) (l : Nat) : Option Nat :=
  let nvar := s.num (l + 6) 2
  if s.num l 4 ≠ 0x4237565A ∨ s.num (l + 4) 2 ≠ 1 ∨ nvar < 1 ∨ 64 < nvar ∨ s.num (l + 8) 4 ≠ 16 + 32 * nvar then none
  else (List.range nvar).find? fun v => s.dword (l + 16 + 32 * v) == defectSig s

/-- Add a load address to the 56 low bits of a word. -/
def relocate (load : Nat) (x : Dword) : Dword :=
  BitVec.ofNat 64 (x.toNat / 2 ^ 56 * 2 ^ 56 + (x.toNat + load) % 2 ^ 56)

/-- The cards of an image's variant, with their cycle tables, their addresses made absolute (R36). -/
def imageCards (s : State) (i : Nat) (im : Image) (v : Nat) : List BootCard :=
  let h := im.addr + 16 + 32 * v
  let code := im.addr + (s.dword (h + 8)).toNat
  let load := im.load.toNat
  (List.range (s.num (h + 28) 4)).map fun k =>
    let at' := code + s.num (h + 24) 4 + 64 * k
    let raw := (List.range 8).map fun j => s.dword (at' + 8 * j)
    let dw := raw.zipIdx.map fun x => if x.2 = 0 ∨ x.2 = 1 ∨ x.2 = 5 then relocate load x.1 else x.1
    let c : CardRun := { CardRun.none with dw := dw }
    let table := if hasTable dw then (List.range 4).map fun j =>
        let e := s.dword (code + bits (raw.getD 0 0).toNat 0 56 + 8 * j)
        if bitOf c.layers j then relocate load e else e
      else []
    ⟨4092 + c.low, dw, table, i, v, k⟩

/-- Enter waiting cards of images, in order, while the ring of the first has room; a card that fails a check is not entered, and the
boot core's firmware gets its code (R37). A card whose boot queue is disabled waits as for a full ring, and the cards after it wait
with it: the model's choice (log 76). -/
def feedBoot : Nat → State → State
  | 0, s => s
  | fuel + 1, s =>
    match s.bootCards with
    | [] => s
    | b :: t =>
      let x := s.queue b.queue
      let code := codeFor x b.dw b.table
      if !x.en then s
      else if code ≠ 0 then
        feedBoot fuel { s with bootCards := t, dev := { s.dev with bootCodes := s.dev.bootCodes ++ [(b.image, b.index, code)] } }
      else if x.size ≤ x.depth + reservedEntries s none b.queue then s
      else feedBoot fuel (enterJob { s with bootCards := t } b.queue b.dw b.table (some (b.image, b.variant, b.index)))

/-- Whether the first waiting card of an image can go on now: its boot queue has been enabled or has room again (R37). -/
def feedReady (s : State) : Bool :=
  match s.bootCards with
  | [] => false
  | b :: _ => let x := s.queue b.queue
              x.en && (codeFor x b.dw b.table != 0 || decide (x.depth + reservedEntries s none b.queue < x.size))

/-- Load the code and the data of an image's variant at its load address (R36, R37). -/
def loadVariant (s : State) (im : Image) (v : Nat) : State :=
  let h := im.addr + 16 + 32 * v
  let code := im.addr + (s.dword (h + 8)).toNat
  devWrite (s.devRead code (s.dword (h + 16)).toNat) ((List.range (s.dword (h + 16)).toNat).map fun i =>
    (distLoc im.asid.toNat ((im.load.toNat + i) % 2 ^ 56), Memory.byte s.mem (code + i)))

/-- R37: The boot core selects a variant, loads its code and data, and enters its cards on the boot queues. -/
def execImageLoad (addr : Nat) (load : VAddr) (asid : BitVec 16) (s : State) : Host.Outcome State Fault Refusal :=
  match matchVariant s addr with
  | none => .next s
  | some v =>
    let im : Image := ⟨addr, load, asid, some v⟩
    let cards := imageCards s s.images.length im v
    let s := loadVariant s im v
    let s : State := { s with images := s.images ++ [im], bootCards := s.bootCards ++ cards }
    .next (feedBoot s.bootCards.length s)

/-- Select again for one loaded image: the cards of its old variant that have had no record dealt are refused with 0x09; the new variant
is loaded, and its cards take the places of those in their queues, and of the old ones that still waited to enter (R37, log 76). -/
def reselect (s : State) (i : Nat) (im : Image) : State :=
  let v := matchVariant s im.addr
  if v = im.variant then s
  else
    let old := s.cards.filter fun c => c.2.image.any (fun y => y.1 == i) && !c.2.dealtAll && !c.2.begun
    let held := s.bootCards.filter fun b => b.image == i
    let places := old.filterMap (fun c => c.2.image.map fun y => (y.2.2, c.2.queue)) ++ held.map fun b => (b.index, b.queue)
    let s := old.foldl (fun s c =>
      syncFrom s (tend ((s.modCard c.1 fun k => { k with refused := some 0x09, status := 0x09, done := true }).due (.completionRecordWrite c.2.queue)) c.2.queue) c.2.queue) s
    let s : State := { s with bootCards := s.bootCards.filter fun b => b.image != i }
    match v with
    | none => { s with images := s.images.set i { im with variant := none } }
    | some n =>
      let im : Image := { im with variant := some n, load := Config.variantBase im.addr n }
      let new := (imageCards s i im n).filterMap fun b => (places.find? fun p => p.1 == b.index).map fun p => { b with queue := p.2 }
      let s := loadVariant s im n
      { s with images := s.images.set i im, bootCards := s.bootCards ++ new }

/-- R37: A change of DEFECT.SIG reruns variant selection for every loaded image before any further card of one is placed. -/
def execVariantReselection (s : State) : Host.Outcome State Fault Refusal :=
  let s := (s.images.zipIdx).foldl (fun (s : State) x => reselect s x.2 x.1) s
  .next (feedBoot s.bootCards.length s)

/-- Whether a change of DEFECT.SIG has not yet had its selection (R97). -/
def selectionDue (s : State) : Bool := s.images.any fun im => matchVariant s im.addr != im.variant

/-! Completion records (R67). -/

/-- R67: A card's completion record is written in order when flow control allows, and HEAD advances. -/
def execCompletionRecordWrite (q : Nat) (s : State) : Host.Outcome State Fault Refusal :=
  let x := s.queue q
  match x.cards with
  | [] => .next s
  | n :: t =>
    let k := s.card n
    if !k.done || (x.cfc && decide (x.size ≤ (x.head - x.chead).toNat)) then .next s
    else
      let s := distWrite s x.asid (x.cpl + 16 * (x.head.toNat % x.size))
        [k.tag, BitVec.ofNat 64 (k.flags.toNat * 2 ^ 8 + k.status.toNat)]
      let s := s.modQueue q fun x => { x with head := x.head + 1, cards := t }
      let s : State := { s with cards := SMap.drop s.cards n }
      let s : State := if x.irq then { s with out := s.out ++ [.interrupt q] } else s
      let s := if t = [] then s else s.due (.completionRecordWrite q)
      let s := if (s.queue q).waitEnable.isSome ∧ (s.queue q).head = (s.queue q).tail then s.due (.queueEnableDeferred q) else s
      let s := if k.dup then tendAll s else tend s q
      .next ((syncDesc (feedBoot s.bootCards.length s) q).due (.dealingRound x.layerNo))

end Sys2Proof.Machine
end

