-- ==== Sys2Proof/Machine/Placement.lean ====
section
/-! DEFINITION. Placement: where contexts start (R30, R64, R80, R90, R258, R320, R368), the dealing round (R72, R83, R84,
R274), work queries (R86, R87) and the scratchpad allocator (R94, R95). -/

namespace Sys2Proof.Machine

/-! Free cores. -/

/-- A seal runs: no card is dealt (R339). -/
def sealing (s : State) : Bool := bitOf s.dev.ckptStat.toNat 31 && bits s.dev.ckptStat.toNat 0 4 == 1 && bitOf s.dev.ready.toNat 30

/-- Whether a logical cluster is lost to the defect map (R34). -/
def clusterLost (s : State) (cl : Nat) : Bool :=
  s.dev.defects.any fun e => e.getD 0 0 == 4 && (e.getD 1 0).toNat == cl / 36 && leNat ((e.drop 4).take 4) == cl % 36

/-- Whether contexts may be placed on a core: it is not fenced or parked, and an L0 core's cluster is ON and ready (R97, R357, R374). -/
def coreTakes (s : State) (c : CoreId) : Bool :=
  !(s.core c).fenced && (s.core c).parked.isNone &&
    (c.kind != .l0 || ((s.cluster (c.idx / 16)).gate == .on && bitOf (SMap.read (0 : Dword) s.dev.readyCl (dieOf c)).toNat (localOf c / 16)))

/-- Whether a core can take a context of a card now: it holds none (R80). -/
def coreFree (s : State) (c : CoreId) : Bool := coreTakes s c && (s.core c).ctxs.all fun x => x.2.status == .free

/-- The rectangles of a gang shape in one cluster, members in GPOS order (R90). -/
def rectsOf (cl gw gh : Nat) : List (List CoreId) :=
  (List.range (4 / gh)).flatMap fun y => (List.range (4 / gw)).map fun x =>
    (List.range (gw * gh)).map fun g => (⟨.l0, cl * 16 + (x * gw + g % gw) + 4 * (y * gh + g / gw)⟩ : CoreId)

/-- All rectangles of the device, lowest die, cluster, y0 and x0 first. -/
def allRects (gw gh : Nat) : List (List CoreId) := (List.range 288).flatMap fun cl => rectsOf cl gw gh

/-- Whether the defect map leaves a rectangle (R90). -/
def rectLeft (s : State) (r : List CoreId) : Bool := r.all fun c => !(s.core c).fenced && !clusterLost s (c.idx / 16)

/-- The clock subdomain of an L0 core (R320). -/
def subdomain (c : CoreId) : Nat × Nat × Nat := (dieOf c, localOf c / 16 % 6 / 3, localOf c / 16 / 6 / 3)
def gap (a b : Nat) : Nat := (a - b) + (b - a)
/-- Whether a core may shadow another (R320). -/
def mayShadow (p c : CoreId) : Bool :=
  p.idx / 16 != c.idx / 16 && 2 ≤ gap (meshX p) (meshX c) + gap (meshY p) (meshY c) && subdomain p != subdomain c
def shadows (r q : List CoreId) : Bool := (r.zip q).all fun x => mayShadow x.1 x.2

/-! Domains. -/

/-- INST of a context's domain (R31). -/
def instOf (k : CardRun) (a : CtxId) : Nat :=
  match k.domain with
  | 0 => a.ctx
  | 1 => a.core.idx
  | 2 => if a.core.kind = .l3 then 288 + a.core.idx else (clusterOf a.core).getD 0
  | 3 => layerOf a.core.kind
  | 4 => 0
  | _ => k.field 3 48 16

/-- The domain of a control context: the card's with its KIND and INST on its layer, or for KIND 4 and 5 on any; a KIND 0
domain has a single participant (R31, R258). -/
def findDom (s : State) (n : Nat) (kind inst layer : Nat) : Option Nat :=
  if kind = 0 then none
  else (s.doms.find? fun d => d.1 != 0 && d.2.card == n && d.2.kind.toNat == kind && d.2.inst.toNat == inst
    && (d.2.layer == layer || 4 ≤ kind)).map (·.1)

/-- The next unused number of a table. -/
def freshKey {α : Type} (m : SMap α) : Nat := (m.map (·.1)).foldl max 0 + 1

/-- Whether the gang of a core's control context is fused (R91). -/
def gangFused (s : State) (c : CoreId) : Bool := match (s.ctx ⟨c, 0⟩).gang with | some g => (s.gangOf g).fused | none => false

/-- Put a control context into its domain, which opens with it where it is new; a rollback of the present epoch restores the
core as it now stands (R258, R323). -/
def joinDom (s : State) (n : Nat) (a : CtxId) : State :=
  let k := s.card n
  let inst := instOf k a
  let layer := layerOf a.core.kind
  let x : Nat × State := match findDom s n k.domain inst layer with
    | some d => (d, s)
    | none =>
      let d := freshKey s.doms
      (d, { s with doms := SMap.put s.doms d { Domain.none with
        card := n, kind := BitVec.ofNat 3 k.domain, inst := BitVec.ofNat 16 inst, layer := layer, phs := k.phs } })
  let d := x.1
  let s := x.2.modCtx a fun c => { c with dom := d, domKind := BitVec.ofNat 3 k.domain, domInst := BitVec.ofNat 16 inst }
  s.modDom d fun y => { y with
    members := y.members ++ [a]
    saved := if k.phs then y.saved.filter (fun z => z.core != a.core) ++ [⟨a.core, s.core a.core, gangFused s a.core⟩] else [] }

/-! Starting contexts. -/

/-- Clear a core before the first context of a card of another address space (R368, R379); a core that has held no card since reset
has no last card to differ from. -/
def clearCore (s : State) (c : CoreId) : State :=
  let lo := tcmLoc c 0
  let hi := lo + 2 ^ 32
  let s : State := { s with
    mem := Memory.zero s.mem lo hi, poison := s.poison.filter fun l => l * 64 < lo || hi ≤ l * 64 }
  s.modCore c fun k => { k with restrict := [], prolong := [], tt := Timetable.reset, evc := [], icache := [], fetchLine := none }

/-- A card's first context on a core finds the counters at 0 and the slots of the matrix unit at their reset values (R184, R256). -/
def firstOfCard (s : State) (c : CoreId) : State :=
  s.modCore c fun k => { k with counters := [], mxSlots := Core.reset.mxSlots, mxSlotLen := Core.reset.mxSlotLen, mxStaged := none, mxStart := s.ticks, mxLent := none }

/-- Start a control context of a card on a core (R64, R82, R88's exceptions aside). -/
def startControl (s : State) (n : Nat) (c : CoreId) (copy : Copy) (mate : Option CoreId) (gang : Option Nat) (gpos : Nat)
    (s1 s2 : Dword) : State :=
  let k := s.card n
  let s := match (s.core c).lastAsid with
    | some x => if x = k.asid then s else clearCore s c
    | none => s
  let s : State := { s with dirty := s.dirty.filter fun r => r * 256 < tcmLoc c 0 || tcmLoc c 0 + 2 ^ 32 ≤ r * 256 }
  let e := k.start (layerOf c.kind)
  let a : CtxId := ⟨c, 0⟩
  let r := ((RegState.zero.wrS 1 s1).wrS 2 s2).wrS 30 (stackTop (tcmSize c.kind) (stackLogOf s a) 0)
  let x : Ctx := { Ctx.reset with
    r := { r with pc := BitVec.ofNat 56 e.2, level := BitVec.ofNat 4 e.1 }, status := .live, card := some n, copy := copy, mate := mate
    gang := gang, gpos := gpos, asid := k.asid, entry := BitVec.ofNat 56 e.2, firstRec := s1, nRec := s2 }
  let s := if (s.core c).lastCard = some n then s else firstOfCard s c
  let s := s.modCore c fun y => { y with ctxs := SMap.put y.ctxs 0 x, holder := 0, lastAsid := some k.asid, lastCard := some n }
  joinDom s n a

/-- The ancestors of a core on the layers of a cycle program (R30). -/
def ancestors (k : CardRun) (c : CoreId) : List CoreId :=
  let p1 := parentOf c
  let p2 := p1.bind parentOf
  let p3 := p2.bind parentOf
  ([p1, p2, p3].filterMap id).filter fun p => bitOf k.layers (layerOf p.kind)

/-- The copy of a duplicate card to which a core belongs: by its cluster, or by the L2 core above it where the card runs sections on L2 or
L3, so that no core and no cluster hosts contexts of both (R30, R77, log 79). -/
def sideB (k : CardRun) (c : CoreId) : Bool :=
  let quad : Nat := match c.kind with
    | .l0 => localOf c / 64 | .l1 => localOf c / 8 | .l2 => localOf c | _ => c.idx
  if bitOf k.layers 2 || bitOf k.layers 3 then quad % 2 == 1 else (clusterOf c).getD 0 % 2 == 1

/-- The copy that a section runs for. -/
def sectionCopy (k : CardRun) (c : CoreId) : Copy := if k.dup then (if sideB k c then .copyB else .copyA) else .only

/-- Make the sections above a placed core due, each once (R30). Of a redundant pair the ancestors of the primary start them: whether those
of the shadow do is the model's choice (log 79). -/
def noteSections (s : State) (n : Nat) (c : CoreId) : State :=
  (ancestors (s.card n) c).foldl (fun s p =>
    if (s.card n).sections.any (fun x => x.1 == p) then s
    else (s.modCard n fun k => { k with sections := k.sections ++ [(p, false)] }).due (.cycleSectionStart n p)) s

/-- R30: A higher-layer section of a cycle program starts once context 0 is free (R80). -/
def execCycleSectionStart (card : Nat) (core : CoreId) (s : State) : Host.Outcome State Fault Refusal :=
  let k := s.card card
  if !(k.sections.contains (core, false)) || k.killed || !coreFree s core || sealing s then .next s
  else
    let s := s.modCard card fun k => { k with sections := k.sections.map fun x => if x.1 == core then (core, true) else x }
    .next (startControl s card core (sectionCopy k core) none none 0 0 0)

/-! The dealing round. -/

/-- Cores that hold a context of a card, of the copies that a test admits. -/
def holdingCores (s : State) (n : Nat) (p : Copy → Bool) : Nat :=
  s.cores.countP fun c => c.2.ctxs.any fun x => x.2.card == some n && x.2.status != .free && p x.2.copy

def isCopyB (c : Copy) : Bool := c == .copyB
/-- The index of a copy's first undealt record. -/
def CardRun.nextOf (k : CardRun) (b : Bool) : Nat := if b then k.nextB else k.next
def CardRun.setNext (k : CardRun) (b : Bool) (x : Nat) : CardRun := if b then { k with nextB := x } else { k with next := x }

/-- The chunk of R83 for `a` cores. -/
def chunkOf (k : CardRun) (remaining a : Nat) : Nat := max k.minChunk ((remaining + 2 * a - 1) / (2 * a))

/-- Deal a chunk to a group of cores, each with the shadow of a pair where the card has one (R83, R320). -/
def giveGroup (s : State) (n : Nat) (b : Bool) (a : Nat) (g : List CoreId) (sh : List CoreId) : State :=
  let k := s.card n
  let rem := k.recCount - k.nextOf b
  if rem = 0 then s
  else
    let c := chunkOf k rem a
    let cnt := min (g.length * c) rem
    let place (s : State) (cores : List CoreId) (others : List CoreId) (copy : Copy) : State :=
      let gid := freshKey s.gangs
      let s : State := if cores.length = 1 then s
        else { s with gangs := SMap.put s.gangs gid { members := cores.map fun c => ⟨c, 0⟩, w := k.gw, h := k.gh, fused := true } }
      (cores.zipIdx).foldl (fun s x =>
        let j := x.2
        let first := k.nextOf b + j * c
        startControl s n x.1 copy others[j]? (if cores.length = 1 then none else some gid) j
          (BitVec.ofNat 64 (k.recBase + first * k.recSize)) (BitVec.ofNat 64 (min c (cnt - j * c)))) s
    let s := s.modCard n fun k => k.setNext b (k.nextOf b + cnt)
    let s := place s g sh (if sh ≠ [] then .primary else if k.dup then (if b then .copyB else .copyA) else .only)
    let s := if sh = [] then s else place s sh g .shadow
    g.foldl (fun s c => noteSections s n c) s

/-- The number of a core's parent. -/
def parentIdx (c : CoreId) : Nat := match parentOf c with | some p => p.idx | none => 0

/-- The groups that ask for a chunk, of cores that a test takes as free, in the order of service (R83, R84, R90). -/
def askers (free : CoreId → Bool) (k : CardRun) (b : Bool) : List (List CoreId) :=
  let kind := kindOfLayer k.layer
  if k.layer = 0 then (allRects k.gw k.gh).filter fun r => r.all fun c => free c && (!k.dup || sideB k c == b)
  else
    let all := (List.range (coreCount kind)).map fun i => (⟨kind, i⟩ : CoreId)
    let free := all.filter free
    match k.field 3 6 2 with
    | 2 => if k.layer = 3 then free.map ([·]) else
        (free.mergeSort fun x y => decide (childPos x < childPos y) || (childPos x == childPos y && decide (parentIdx x ≤ parentIdx y))).map ([·])
    | 1 =>
      if k.layer = 3 then (if free.length = 9 then free.map ([·]) else [])
      else
        let ps := (List.range (coreCount (kindOfLayer (k.layer + 1)))).map fun i => (⟨kindOfLayer (k.layer + 1), i⟩ : CoreId)
        (match ps.find? fun p => (List.range 8).all fun i => match childOf p i with | some c => free.contains c | none => false with
        | some p => (List.range 8).filterMap fun i => (childOf p i).map ([·])
        | none => [])
    | _ => free.map ([·])

/-- The place of a core in a card's order of service; queries from another layer go by their FLAT (R83, R84, log 74). -/
def serviceKey (k : CardRun) (c : CoreId) : Nat :=
  if layerOf c.kind ≠ k.layer ∨ k.layer = 0 ∨ k.layer = 3 then c.idx
  else match k.field 3 6 2 with
    | 1 => parentIdx c * 8 + childPos c
    | 2 => childPos c * 2 ^ 16 + parentIdx c
    | _ => c.idx

/-- The groups that a round serves, each with the first shadows that R320 allows it in a redundant pair's card. -/
def plan (free : CoreId → Bool) (k : CardRun) (gs : List (List CoreId)) : List (List CoreId × List CoreId) :=
  if k.paired ∧ k.layer = 0 then
    (gs.foldl (fun (x : List (List CoreId × List CoreId)) g =>
      let used := x.flatMap fun y => y.1 ++ y.2
      let open' (q : List CoreId) : Bool := q.all fun c => free c && !used.contains c
      if !open' g then x
      else match gs.find? fun q => shadows g q && open' q with
        | some q => x ++ [(g, q)]
        | none => x) [])
  else gs.map fun g => (g, [])

/-- A filler card (R274). -/
def CardRun.isFiller (k : CardRun) : Bool := k.filler && !k.phs && !k.paired && !k.dup && k.layers == 1

/-- Refuse a card at placement (R67). -/
def refuseCard (s : State) (n : Nat) (code : Byte) : State :=
  (s.modCard n fun k => { k with refused := some code, status := code, done := true }).due (.completionRecordWrite (s.card n).queue)

/-! Work queries. -/

/-- The number of a context in a domain's tables of answers. -/
def answerKey (a : CtxId) : Nat := a.core.key * 16 + a.ctx

/-- The three fields of an answer, FIRST, COUNT and SEQ, as two doublewords (R86). -/
def answerWords (first count seq : Nat) : List Dword := [BitVec.ofNat 64 first, BitVec.ofNat 64 (seq * 2 ^ 32 + count)]

/-- Records not yet dealt that an answer to a context may hold: none for a context of a higher layer, which receives no records (R30, log
74). -/
def recordsFor (s : State) (a : CtxId) (n : Nat) : Nat :=
  if layerOf a.core.kind = (s.card n).layer then (s.card n).recCount - (s.card n).nextOf (isCopyB (s.ctx a).copy) else 0

/-- The answer to a query in a round that counts `h` cores: a logged one in a replay, the next chunk, or the end-of-work token
(R83, R86, R87). -/
def nextAnswer (s : State) (a : CtxId) (n h : Nat) : List Dword × State :=
  let d := (s.ctx a).dom
  let key := answerKey a
  match SMap.read [] (s.dom d).replays key with
  | w :: t => (w, s.modDom d fun x => { x with replays := SMap.put x.replays key t })
  | [] =>
    let k := s.card n
    let b := isCopyB (s.ctx a).copy
    let first := k.nextOf b
    let rem := recordsFor s a n
    let x : List Dword × State :=
      if rem = 0 then (answerWords 0 0 0xFFFFFFFF, s)
      else
        let c := min (chunkOf k rem h) rem
        (answerWords ((k.recBase + first * k.recSize) % 2 ^ 64) c first, s.modCard n fun k => k.setNext b (first + c))
    if k.phs then (x.1, x.2.modDom d fun y => { y with answers := SMap.put y.answers key (SMap.read [] y.answers key ++ [x.1]) })
    else x

/-- A context's first query without an answer gets one. -/
def noteAnswer (w : List Dword) (l : List Query) : List Query :=
  match l.findIdx? fun q => q.given.isNone with | some i => l.modify i fun q => { q with given := some w } | none => l

/-- A round answers one query of a context, for both members of a pair; the answer's bytes are written in a step of their own (R83, R86). -/
def giveQuery (s : State) (n h : Nat) (a : CtxId) : State :=
  let x := nextAnswer s a n h
  ((withMate s a).foldl (fun s b => s.modCtx b fun c => { c with queries := noteAnswer x.1 c.queries }) x.2).due (.workqAnswer a.core a.ctx)

/-- The contexts of one copy of a card whose queries are due in a round, once for each query, in the order in which they were posted
(R83). -/
def queriesDue (s : State) (n : Nat) (b : Bool) : List CtxId :=
  let as := s.allCtxs.filter fun a => let c := s.ctx a; c.card == some n && c.status != .free && c.copy != .shadow && isCopyB c.copy == b
  let qs : List (CtxId × Nat) := as.flatMap fun a => ((s.ctx a).queries.filter fun q => q.given.isNone).map fun q => (a, q.seq)
  (qs.mergeSort fun x y => decide (x.2 ≤ y.2)).map (·.1)

/-- Cores that a round counts as holding one copy of a card (R83). -/
def holders (s : State) (n : Nat) (b : Bool) : Nat := holdingCores s n fun c => !(s.card n).dup || isCopyB c == b

/-- Answer the due queries of one copy of a card alone, in ascending FLAT (R83). -/
def answerDue (s : State) (n : Nat) (b : Bool) : State :=
  ((queriesDue s n b).mergeSort fun x y => decide (x.core.idx ≤ y.core.idx)).foldl (fun s a => giveQuery s n (max 1 (holders s n b)) a) s

/-- Deal one copy of a card in a round: to the groups that ask for a chunk and to the queries that are due, in one order of service
(R83, R84). -/
def dealCopy (s : State) (n : Nat) (b : Bool) : State :=
  let k := s.card n
  let gs := plan (coreFree s) k (askers (coreFree s) k b)
  let a := holders s n b + (gs.map fun g => g.1.length).sum
  let all : List (Nat × ((List CoreId × List CoreId) ⊕ CtxId)) :=
    gs.map (fun g => (serviceKey k (g.1.headD ⟨.l0, 0⟩), .inl g)) ++ (queriesDue s n b).map fun q => (serviceKey k q.core, .inr q)
  (all.mergeSort fun x y => decide (x.1 ≤ y.1)).foldl (fun s x => match x.2 with
    | .inl g => giveGroup s n b a g.1 g.2
    | .inr q => giveQuery s n a q) s

/-- Whether the defect map leaves a place for the card's chunks, on each copy's side (R77, R90, R320). -/
def placeLeft (s : State) (k : CardRun) : Bool :=
  k.layer != 0 ||
    let rs := (allRects k.gw k.gh).filter fun r => rectLeft s r
    if k.paired then rs.any fun r => rs.any fun q => shadows r q
    else if k.dup then (rs.any fun r => r.all fun c => sideB k c) && rs.any fun r => r.all fun c => !sideB k c
    else rs != []

/-- A card for whose chunks the defect map leaves no place is refused with STATUS 0x15; one of whose records some have been dealt ends so
once its running contexts have ended (R67, R90, log 82). -/
def endUnplaced (s : State) (n : Nat) : State :=
  if (s.card n).begun then (s.modCard n fun k => { k with status := 0x15, next := k.recCount, nextB := k.recCount }).due (.cardRetirement n)
  else refuseCard s n 0x15

/-- Whether a core holds contexts of filler cards only. -/
def fillerCore (s : State) (c : CoreId) : Bool :=
  (s.core c).ctxs.any (fun x => x.2.status != .free) &&
    (s.core c).ctxs.all fun x => x.2.status == .free || x.2.card.any fun m => (s.card m).isFiller

/-- The groups at the head of a list that records last long enough to serve (R83). -/
def served (k : CardRun) (a : Nat) : Nat → List (List CoreId × List CoreId) → List (List CoreId × List CoreId)
  | _, [] => []
  | rem, g :: t => if rem = 0 then [] else g :: served k a (rem - min (g.1.length * chunkOf k rem a) rem) t

/-- Filler contexts leave the cores to which a chunk of a card would be dealt if they were free (R275). -/
def displace (s : State) (n : Nat) (b : Bool) : State :=
  let k := s.card n
  let free (c : CoreId) : Bool := coreFree s c || (coreTakes s c && fillerCore s c)
  let gs := plan free k (askers free k b)
  let out := (served k (holders s n b + (gs.map fun g => g.1.length).sum) (k.recCount - k.nextOf b) gs).flatMap fun g => g.1 ++ g.2
  (out.filter (fillerCore s)).foldl (fun s c => s.due (.fillerDisplacement c)) s

/-- Deal the head card of a mapped slot; a filler card's saved contexts come before its undealt records (R275). -/
def dealCard (s : State) (n : Nat) : State :=
  let k := s.card n
  if k.dealtAll then s
  else if k.isFiller ∧ (¬ s.dev.flr ∨ (s.areas.any fun x => x.card == n)) then s
  else if !placeLeft s k then endUnplaced s n
  else
    let s := dealCopy s n false
    let s := if k.dup then dealCopy s n true else s
    if k.isFiller ∨ k.layer ≠ 0 ∨ !(s.cores.any fun c => fillerCore s (coreOfKey c.1)) then s
    else
      let s := displace s n false
      if k.dup then displace s n true else s

/-- The head cards of a layer's mapped slots in the order of R72, fillers last (R274). Of two of equal PRIO mapped at one time the lower
slot number goes first: the model's choice (log 78). -/
def mappedHeads (s : State) (l : Nat) : List Nat :=
  let hs := (s.layer l).slots.filterMap fun x => (s.headCard x.queue).map fun n => (n, x)
  let before (x y : Nat × Slot) : Bool :=
    let p := (s.card x.1).prio
    let q := (s.card y.1).prio
    decide (q < p) || (p == q && (decide (x.2.since < y.2.since) || (x.2.since == y.2.since && decide (x.2.num ≤ y.2.num))))
  let l := (hs.mergeSort before).map (·.1)
  (l.filter fun n => !(s.card n).isFiller) ++ l.filter fun n => (s.card n).isFiller

/-- Deal from a layer's mapped heads, each card once in a round: the best head first, and the card that follows one wholly dealt in its
turn (R72, R274). -/
def dealHeads (l : Nat) : Nat → List Nat → State → State
  | 0, _, s => s
  | fuel + 1, tried, s =>
    match (mappedHeads s l).find? fun n => !tried.contains n with
    | none => s
    | some n => dealHeads l fuel (n :: tried) (tend (dealCard s n) (s.card n).queue)

/-- Whether a family of cores is left for a card of PLC 1, which a later round serves (R84). -/
def familyLeft (s : State) (n : Nat) : Bool :=
  let k := s.card n
  k.layer != 0 && k.field 3 6 2 == 1 && !k.dealtAll && askers (coreFree s) k false != []

/-- R83: A distributor round deals chunks, answers work queries and places contexts, gangs, pairs or sections; none while images wait
for variant selection (R97). -/
def execDealingRound (layer : Nat) (s : State) : Host.Outcome State Fault Refusal :=
  if selectionDue s then .next ((s.due .variantReselection).due (.dealingRound layer))
  else if sealing s then .next s
  else
    let was := (s.queues.map (·.1)).filter fun q => (s.queue q).layerNo == layer
    let s' := dealHeads layer (s.cards.length + 1) [] (was.foldl tend s)
    let s' := s'.cards.foldl (fun (t : State) k => if k.2.layer = layer then answerDue (answerDue t k.1 false) k.1 true else t) s'
    let s' := was.foldl tend s'
    let s' := was.foldl (syncFrom s) s'
    .next (if (mappedHeads s' layer).any (familyLeft s') then s'.due (.dealingRound layer) else s')

/-- The bytes of an answer, through the context's cluster window (R86). -/
def answerLocs (s : State) (a : CtxId) (q : Query) : List Nat :=
  (span q.addr 16).filterMap fun v => match windowReach s a v with | .loc l => some l | _ => none

/-- Write an answer through a context's cluster window and count its arrival (R86). -/
def giveAnswer (s : State) (w : List Dword) (a : CtxId) (q : Query) : State :=
  let s := applyWrite s a ((answerLocs s a q).zip (w.flatMap fun x => num8 x.toNat)) []
  (s.arrive a.core q.ctr false).modCtx a fun c => { c with queries := c.queries.drop 1 }

/-- Whether a query alone would be dealt records, which waits for a selection of variants and for a seal (R97, R339). -/
def wantsRecords (s : State) (a : CtxId) (n : Nat) : Bool :=
  (SMap.read [] (s.dom (s.ctx a).dom).replays (answerKey a)) == [] && 0 < recordsFor s a n

/-- R86: The distributor writes a chunk or end token answer and counts an arrival; a query that no round has answered is answered in a
round of its own; where its home is reserved for a chunk it waits (R207). The query of a firmware context, which has no card, stays unanswered: the model's choice (log 81). -/
def execWorkqAnswer (core : CoreId) (ctx : Nat) (s : State) : Host.Outcome State Fault Refusal :=
  let a : CtxId := ⟨core, ctx⟩
  match (s.ctx a).queries, (s.ctx a).card with
  | q :: _, some n =>
    if (s.ctx a).copy = .shadow then .next s
    else if q.given.isNone ∧ wantsRecords s a n ∧ selectionDue s then .next ((s.due .variantReselection).due (.workqAnswer core ctx))
    else if q.given.isNone ∧ wantsRecords s a n ∧ sealing s then .next s
    else if (withMate s a).any fun b => s.reserved (answerLocs s b (((s.ctx b).queries.head?).getD q)) then .next (s.holdDue (.workqAnswer core ctx))
    else
      let x := match q.given with | some w => (w, s) | none => nextAnswer s a n (max 1 (holders s n (isCopyB (s.ctx a).copy)))
      let s0 := s
      let s := (withMate s a).foldl (fun s b => giveAnswer s x.1 b (((s.ctx b).queries.head?).getD q)) x.2
      let s := if q.given.isNone then syncFrom s0 (tend s (s.card n).queue) (s.card n).queue else s
      .next ((withMate s a).foldl (fun s b => if (s.ctx b).status = .parking then s.due (.contextEnd b.core b.ctx) else s) s)
  | _, _ => .next s

/-! The allocator. -/

/-- The maximal free blocks below a node of a root, with their orders (R94). -/
def freeIn (l : List Block) : Nat → Nat → List (Nat × Nat)
  | 0, _ => []
  | fuel + 1, off =>
    let order := 12 + fuel
    if (l.all fun b => decide (b.off + 2 ^ b.order ≤ off) || decide (off + 2 ^ order ≤ b.off)) then [(order, off)]
    else freeIn l fuel off ++ freeIn l fuel (off + 2 ^ (order - 1))

/-- All free blocks of a scratchpad, in ascending offset. -/
def freeBlocks (l : List Block) : List (Nat × Nat) := freeIn l 10 0 ++ freeIn l 9 0x200000 ++ freeIn l 8 0x300000

/-- The block an allocation takes: the smallest order not below k, then the lowest offset. -/
def pickBlock (l : List Block) (k : Nat) : Option Nat :=
  ((List.range 10).map (· + 12)).findSome? fun o => if o < k then none else ((freeBlocks l).find? fun b => b.1 == o).map (·.2)

/-- Serve a context's oldest request, where it is of an operation; a squash of a chunk that is open keeps the result (R95). -/
def serveSpalloc (s : State) (a : CtxId) (free : Bool) (act : Nat → Nat → Nat × State) : State :=
  match (s.ctx a).spreqs, clusterOf a.core with
  | x :: _, some cl =>
    if bitOf x.toNat 31 != free then s
    else
      let r := act cl (x.toNat % 2 ^ 22)
      let v : W32 := BitVec.ofNat 32 r.1
      let s := r.2.modCtx a fun c => { c with
        spreqs := c.spreqs.drop 1, r := { c.r with spres := v }, chunk := { c.chunk with ckpt := { c.chunk.ckpt with spres := v } } }
      let s := if r.1 < 2 ^ 30 then s else s.bumpCluster cl 0x25 1
      let s := match (s.ctx a).spreqs with
        | [] => s
        | y :: _ => s.due (if bitOf y.toNat 31 then .spallocFree a.core a.ctx else .spallocAllocate a.core a.ctx)
      if (s.ctx a).status = .parking then s.due (.contextEnd a.core a.ctx) else s
  | _, _ => s

/-- R94: The scratchpad allocator serves an allocate request. -/
def execSpallocAllocate (core : CoreId) (ctx : Nat) (s : State) : Host.Outcome State Fault Refusal :=
  let a : CtxId := ⟨core, ctx⟩
  .next (serveSpalloc s a false fun cl arg =>
    let k := arg % 32
    if k < 12 ∨ 21 < k then (2 * 2 ^ 30, s)
    else match pickBlock (s.cluster cl).blocks k with
      | none => (2 ^ 30, s)
      | some o =>
        let lo := spLoc cl o
        let s : State := { s with dirty := s.dirty.filter fun r => r * 256 < lo || lo + 2 ^ k ≤ r * 256 }
        (o, s.modCluster cl fun c => { c with blocks := c.blocks ++ [⟨o, k, (s.ctx a).card.getD 0, (s.ctx a).dom, true, none⟩] }))

/-- R95: The scratchpad allocator serves a free request, deferred in phased cards. -/
def execSpallocFree (core : CoreId) (ctx : Nat) (s : State) : Host.Outcome State Fault Refusal :=
  let a : CtxId := ⟨core, ctx⟩
  .next (serveSpalloc s a true fun cl arg =>
    match (s.cluster cl).blocks.find? fun b => b.off == arg && some b.card == (s.ctx a).card with
    | none => (2 * 2 ^ 30, s)
    | some b =>
      let later (x : Block) : Block := if x == b && x.pend.isNone then { x with pend := some (s.ctx a).dom } else x
      let out (l : List Block) : List Block := if s.phased a then l.map later else l.erase b
      (arg, s.modCluster cl fun c => { c with blocks := out c.blocks }))

/-- R95: A read of SPALLOC.RES waits for the context's latest request result; it is served once none is outstanding. -/
def execSpallocResRead (core : CoreId) (ctx : Nat) (s : State) : Host.Outcome State Fault Refusal :=
  let a : CtxId := ⟨core, ctx⟩
  if (s.ctx a).status = .waiting .spalloc ∧ spallocResReady s a then .next (s.wake a) else .next s

end Sys2Proof.Machine
end

