-- ==== Sys2Proof/Machine/Retire.lean ====
section
/-! DEFINITION. How work ends: parks and helpers' ends (R81, R93, R124), the final commit and retirement (R77, R364 to R369),
and a card that is killed (R79, R191, R217, R235, R254, R276, R366), with the watchdog's three limits (R78, R79). -/

namespace Sys2Proof.Machine

/-! A core falls free. -/

/-- Work that waits for a free core: sections, saved contexts and undealt chunks, filler last (R30, R81, R275, R332). -/
def coreFreed (s : State) (c : CoreId) : State :=
  let s := s.cards.foldl (fun s k => if k.2.sections.contains (c, false) then s.due (.cycleSectionStart k.1 c) else s) s
  let back (filler : Bool) (s : State) : State :=
    s.areas.foldl (fun s x => if (s.card x.card).isFiller = filler then s.due (.resume x.card c) else s) s
  back true ((back false s).due (.dealingRound (layerOf c.kind)))

/-- Empty a core of its contexts; REQ of an empty cluster is 0, a cluster that quiesces and a seal may go on (R81, R339,
R349, R356). -/
def freeCore (s : State) (c : CoreId) : State :=
  let s := s.modCore c fun k => { k with ctxs := [], holder := 0, leaving := false }
  let s := if sealing s then s.due (.ckpt 1) else s
  let s := if c.kind = .l0 && !clusterHeld s (c.idx / 16) then
      let s := s.modCluster (c.idx / 16) fun k => { k with boostReq := 0 }
      (if (s.cluster (c.idx / 16)).gate = .quiescing then s.due (.quiesceDone (c.idx / 16)) else s)
    else s
  coreFreed s c

/-! The end of a context. -/

/-- Whether every command and copy operation of some contexts has completed (R191, R217). -/
def unitsDone (s : State) (a : CtxId) : Bool := (s.ctx a).ports.all (fun p => p.2.input.isEmpty) && channelsDone s fun b => b == a

/-- Whether a parking context may end: its queries are answered, its requests served, its commands complete, its effects
past the merge router, and a control context's helpers ended (R81, R124, R191, R217). -/
def mayEnd (s : State) (a : CtxId) : Bool :=
  let c := s.ctx a
  c.status == .parking && c.queries.isEmpty && c.spreqs.isEmpty && unitsDone s a && (a.ctx != 0 || a.core.kind != .l0 || helpersEnded s a.core)
    && !(s.merge.any fun x => x.who == a)

/-- The cores a parked control context frees: its own, or those of its gang once every member has parked; none yet in a
phase-structured card (R93, R124, R365). -/
def freedBy (s : State) (a : CtxId) : List CoreId :=
  if s.phased a then []
  else match (s.ctx a).gang with
    | none => [a.core]
    | some g =>
      let ms := (s.gangOf g).members
      if ms.all fun m => (s.ctx m).status == .ended then ms.map (·.core) else []

/-- The end of a control context (R81, R93, R124, R258, R364). -/
def endControl (s : State) (a : CtxId) : State :=
  let c := s.ctx a
  let s := helpers.foldl (fun s h => if (s.ctx ⟨a.core, h⟩).status = .ended then s.setCtx ⟨a.core, h⟩ Ctx.reset else s) s
  let s := s.modCtx a fun c => { c with status := .ended, ports := [] }
  let s := s.modDom c.dom fun d => { d with members := d.members.filter (· != a), anyParked := true }
  let s := (freedBy s a).foldl freeCore s
  let s := match c.gang with
    | some g => if (s.gangOf g).members.all fun m => (s.ctx m).status == .ended || (s.ctx m).status == .free then
        (if (s.dom c.dom).phs then s else { s with gangs := SMap.drop s.gangs g }) else s
    | none => s
  let d := s.dom c.dom
  let s := if d.phs ∧ d.members = [] ∧ ¬ awayFrom s c.dom then s.due (.finalCommit c.dom) else nudge s c.dom
  match c.card with | some n => s.due (.cardRetirement n) | none => s

/-- R124: A parked context ends once its queries, helpers and commands have completed; a helper keeps s1 for join, and a firmware
context leaves the others of its core as they are (R395). -/
def execContextEnd (core : CoreId) (ctx : Nat) (s : State) : Host.Outcome State Fault Refusal :=
  let a : CtxId := ⟨core, ctx⟩
  if !mayEnd s a then .next s
  else if isPriv core.kind then .next (s.modCtx a fun c => { c with status := .ended, ports := [] })
  else if ctx = 0 ∨ core.kind ≠ .l0 then .next (endControl s a)
  else
    let s := s.modCtx a fun c => { c with status := .ended, ports := [] }
    let s := nudge s (s.ctx a).dom
    .next (if (s.ctx ⟨core, 0⟩).status = .parking then s.due (.contextEnd core 0) else s)

/-! Commits. -/

/-- The contexts of a domain: participants and their helpers. -/
def ctxsIn (s : State) (d : Nat) : List CtxId := s.allCtxs.filter fun a => (s.ctx a).dom == d && (s.ctx a).status != .free
/-- The cores on which a domain has contexts. -/
def coresIn (s : State) (d : Nat) : List CoreId := ((ctxsIn s d).map (·.core)).dedup

/-- Conditions 2 and 3 of R259: the domain's copies have completed and its cores' timetables have finished. -/
def exchangesDone (s : State) (d : Nat) : Bool :=
  channelsDone s (fun a => (s.ctx a).dom == d) && (coresIn s d).all fun c => (s.core c).tt.running.isNone

/-- A flag that an exported atomic raises shows in ARITH.STAT of its context, of both members of a pair (R204, R321). -/
def noteFlags (s : State) (a : CtxId) (fl : Nat) : State :=
  if fl = 0 then s
  else (withMate s a).foldl (fun s b => if (s.ctx b).status = .free then s
    else s.modCtx b fun c => { c with r := { c.r with arith := c.r.arith ||| BitVec.ofNat 8 fl } }) s

/-- Perform one export effect of a core (R73, R75, R204, R205, R326). -/
def performExport (s : State) (x : Export) (c : CoreId) : State :=
  match x.fx with
  | .trig k => trigAdd s k
  | .jenq q card table => enterJob s q card table none
  | .hostStore l _ => devWrite s l
  | .hostAmo loc op fmt sat b cmp _ =>
    let n := if fmt = 0 then 8 else 4
    let old := s.number ((List.range n).map (loc + ·))
    let new := amoNew op fmt sat old (b.toNat % 2 ^ (8 * n))
    if op = 9 ∧ old ≠ cmp.toNat % 2 ^ (8 * n) then s
    else devWrite (noteFlags s ⟨c, x.ctx⟩ new.2) ((List.range n).map fun i => (loc + i, BitVec.ofNat 8 (new.1 / 256 ^ i)))
  | _ => s

/-! The leases of buffered exports (R231, R232): an export is performed through a mapping whose lease runs; one whose lease has ended misses
again, as an access of its core's control context, before its domain commits (log 53). -/

/-- Whether an export may be performed at a tick. -/
def Export.live (x : Export) (now : Nat) : Bool := match x.lease with | some t => decide (now < t) | none => true

/-- Whether the exports of some cores may all be performed now. -/
def exportsLive (s : State) (cs : List CoreId) : Bool := cs.all fun c => (s.core c).exports.all fun x => x.live s.ticks

/-- The addresses of an export's bytes and the permission they need. -/
def Effect.accesses : Effect → List Dword × Nat
  | .hostStore _ vas => (vas, 1)
  | .hostAmo _ _ fmt _ _ _ va => (span va (if fmt = 0 then 8 else 4), 3)
  | _ => ([], 0)

/-- An export at the locations to which its addresses lead now. -/
def Effect.moved (locs : List Nat) : Effect → Effect
  | .hostStore l vas => .hostStore (locs.zip (l.map (·.2))) vas
  | .hostAmo _ op fmt sat b cmp va => .hostAmo (locs.headD 0) op fmt sat b cmp va
  | x => x

/-- The first export of some cores whose lease has ended, with where its addresses lead now. -/
def staleExport (s : State) (cs : List CoreId) : Option (CoreId × Export × Except Reach (List Nat)) :=
  cs.findSome? fun c => ((s.core c).exports.find? fun x => !x.live s.ticks).map fun x =>
    (c, x, reachAll s ⟨c, 0⟩ 0 x.fx.accesses.2 false x.fx.accesses.1)

/-- Whether a step can do something for it: not while its miss is out. -/
def exportMoves (s : State) (cs : List CoreId) : Bool :=
  match staleExport s cs with
  | some (c, _, .error (.miss _)) => (s.ctx ⟨c, 0⟩).misses.all fun m => m.unit != 0
  | some _ => true
  | none => false

/-- An export whose lease has ended takes a new one, or its miss is sent; where its mapping is gone its domain rolls back, so that its
instruction meets the fault when it is executed again. -/
def renewExport (s : State) (d : Nat) (cs : List CoreId) : State :=
  match staleExport s cs with
  | none => s
  | some (c, x, r) =>
    let a : CtxId := ⟨c, 0⟩
    match r with
    | .ok locs =>
      let y : Export := { x with fx := x.fx.moved locs, lease := leaseOver s a x.fx.accesses.1 }
      (s.modCore c fun k => { k with exports := k.exports.map fun z => if z = x then y else z }).useOnce a 0
    | .error (.miss va) => if (s.ctx a).misses.all fun m => m.unit != 0 then sendMiss s a 0 x.fx.accesses.2 va else s
    | .error _ => (s.modCore c fun k => { k with exports := k.exports.filter (· != x) }).due (.rollback d)

/-- Cores in ascending FLAT, then layer (R326). -/
def flatOrder (l : List CoreId) : List CoreId :=
  l.mergeSort fun x y => decide (x.idx < y.idx) || (x.idx == y.idx && decide (layerOf x.kind ≤ layerOf y.kind))

/-- Release the export buffers of some cores in staging order, core by core in ascending FLAT (R326). -/
def releaseExports (s : State) (cs : List CoreId) : State :=
  let l := (flatOrder cs).flatMap fun c => (s.core c).exports.map fun x => (c, x)
  l.foldl (fun s x => performExport s x.2 x.1) (cs.foldl (fun s c => s.modCore c fun k => { k with exports := [] }) s)

/-- The blocks' side of a domain's commit: its pending frees take effect and its allocations stand (R95). -/
def commitBlocks (s : State) (d : Nat) : State :=
  let one (b : Block) : Block := if b.dom = d then { b with fresh := false } else b
  { s with clus := s.clus.map fun c => (c.1, { c.2 with
      blocks := (c.2.blocks.filter fun b => b.pend != some d).map one
      chans := c.2.chans.map fun x => (x.1, { x.2 with prior := x.2.prior.filter fun p => p.1 != d }) }) }

/-- What every commit of a phase-structured domain does: exports leave, journals and the answer log go, frees take effect,
and the cores of its parked contexts fall free (R95, R259, R364, R365). -/
def commitDomain (s : State) (d : Nat) : State :=
  let cs := coresIn s d
  let s := releaseExports s cs
  let s := commitBlocks s d
  let s := s.modDom d fun x => { x with journal := [], answers := [], replays := [], tangled := [], saved := [] }
  let s : State := { s with dev := { s.dev with errUnits := s.dev.errUnits.filter fun u => u.1 != d } }
  let gone := cs.filter fun c => (s.ctx ⟨c, 0⟩).status == .ended && (s.ctx ⟨c, 0⟩).dom == d
  let gs := (gone.filterMap fun c => (s.ctx ⟨c, 0⟩).gang).dedup
  let whole (g : Nat) : Bool := (s.gangOf g).members.all fun m => (s.ctx m).status == .ended
  let out := gone.filter fun c => match (s.ctx ⟨c, 0⟩).gang with | none => true | some g => whole g
  let s := out.foldl freeCore s
  { s with gangs := s.gangs.filter fun g => !(gs.contains g.1 && g.2.members.all fun m => out.contains m.core) }

/-- R364: The last park of a phased domain's contexts discards journals and releases exports; nothing else of a barrier
happens, and an armed slot is disarmed. -/
def execFinalCommit (dom : Nat) (s : State) : Host.Outcome State Fault Refusal :=
  let d := s.dom dom
  if !d.phs || d.members ≠ [] || awayFrom s dom || !exchangesDone s dom || ctxsIn s dom = [] then .next s
  else
    let cs := coresIn s dom
    if !exportsLive s cs then .next (renewExport s dom cs) else
    let s := cs.foldl (fun s c => s.modTt c fun t => { t with armed := none }) s
    .next ((commitDomain s dom).due (.cardRetirement d.card))

/-! Retirement. -/

/-- Whether every context of every layer a card targets has ended and its domains have committed (R366). -/
def cardOver (s : State) (n : Nat) : Bool :=
  let k := s.card n
  !k.done && (k.killed || (k.recCount ≤ k.next && (!k.dup || decide (k.recCount ≤ k.nextB)) && k.sections.all Prod.snd))
    && (s.ctxsOf n).isEmpty && !(s.areas.any fun x => x.card == n)

/-- The first 64 bits of SHA3-256 over a region (R77). -/
def regionSig (s : State) (locs : List Nat) : Nat := leNat ((sha3 (locs.map fun l => Memory.byte s.mem l)).take 8)

/-- Whether the two copies' output regions differ (R77). -/
def copiesDiffer (s : State) (k : CardRun) : Bool :=
  let n := k.field 6 0 40
  regionSig s ((List.range n).map fun i => distLoc k.asid.toNat (k.field 5 0 56 + i))
    != regionSig s ((List.range n).map fun i => k.shadowBase + i)

/-- The compare's reads of HBM count (R77, R378). -/
def compareRead (s : State) (k : CardRun) : State :=
  let n := k.field 6 0 40
  (s.noteHbm 0x41 ((List.range n).map fun i => distLoc k.asid.toNat (k.field 5 0 56 + i))).noteHbm 0x41 ((List.range n).map fun i => k.shadowBase + i)

/-- Free and zero the blocks of a card (R367). -/
def freeBlocksOf (s : State) (n : Nat) : State :=
  s.clus.foldl (fun (s : State) c =>
    let gone := c.2.blocks.filter fun b => b.card == n
    if gone = [] then s
    else
      let s := s.modCluster c.1 fun k => { k with blocks := k.blocks.filter fun b => b.card != n }
      gone.foldl (fun (s : State) b =>
        let lo := spLoc c.1 b.off
        let hi := lo + 2 ^ b.order
        { s with mem := Memory.zero s.mem lo hi, poison := s.poison.filter fun l => l * 64 < lo || hi ≤ l * 64 }) s) s

/-- R366: Once every context ends, the card's commits, compare, frees and record run in order; a killed card skips the first. -/
def execCardRetirement (card : Nat) (s : State) : Host.Outcome State Fault Refusal :=
  if !cardOver s card then .next s
  else
    let k := s.card card
    let status : Byte := if k.killed || k.status ≠ 0 || !k.dup then k.status else if copiesDiffer s k then 0x21 else 0
    let s := if k.killed || k.status ≠ 0 || !k.dup then s else compareRead s k
    let s := freeBlocksOf s card
    let s : State := { s with
      doms := s.doms.filter (fun d => d.1 == 0 || d.2.card != card)
      dev := { s.dev with errUnits := s.dev.errUnits.filter fun u => u.1 != 2 ^ 32 + card } }
    let s := s.modCard card fun k => { k with done := true, status := status }
    let s := if k.dup then tendAll s else tend s k.queue
    .next ((s.due (.completionRecordWrite k.queue)).due (.dealingRound k.layer))

/-! Kill. -/

/-- Remove some contexts' operations from a channel; the shadow set takes the place of a removed active one (R210, R217). -/
def Channel.dropOps (c : Channel) (dom : CtxId → Nat) (p : ChanOp → Bool) : Channel :=
  let rest := (c.shadow.toList ++ c.waiting).filter fun o => !p o
  match c.active with
  | some o =>
    if p o then
      let c' := { c with active := rest.head?, shadow := rest[1]?, waiting := rest.drop 2 }
      (match rest.head? with | some n => if n.cmd.outcome.isSome then c' else c'.begin (dom n.owner) n | none => c')
    else { c with shadow := rest.head?, waiting := rest.drop 1 }
  | none => { c with shadow := rest.head?, waiting := rest.drop 1 }

/-- Remove operations from every channel; what then stands active goes on. -/
def dropChannelOps (s : State) (p : ChanOp → Bool) : State :=
  let hit (c : Channel) : Bool := (c.active.toList ++ c.shadow.toList ++ c.waiting).any p
  let at' := s.clus.flatMap fun c => (c.2.chans.filter fun x => hit x.2).map fun x => (c.1, x.1)
  at'.foldl (fun (s : State) x =>
    let dom (b : CtxId) : Nat := (s.ctx b).dom
    let s := s.modChan x.1 x.2 fun c => c.dropOps dom p
    match (s.chan x.1 x.2).active with
    | some o => s.due (if o.cmd.outcome.isSome then .completion o.owner.core o.owner.ctx o.port else .channel x.1 x.2)
    | none => s) s

/-- Quekin words on their way to a core's running entries (R276). -/
def dropFlits (s : State) (c : CoreId) : State :=
  let es := (runningEntries (s.core c).tt).filter fun e => e.kind == 1 && e.din == 5
  { s with quekin := s.quekin.filter fun x => !(es.any fun e => e.qport == x.1 && e.peer == x.2.1 && e.stream == x.2.2.1) }

/-- End a card now: its contexts stop and are freed, its commands, operations, timetables, offers and staged exports go, its
journals are dropped without being restored, and no more of it is dealt (R79, R191, R217, R235, R254, R276, R366). -/
def killCard (s : State) (n : Nat) (status : Byte) : State :=
  let k := s.card n
  if k.done ∨ k.killed then s
  else
    let as := s.ctxsOf n
    let cs := (as.map (·.core)).dedup
    let saved := (s.areas.filter fun x => x.card == n).flatMap fun x => x.cores.filterMap fun y => (SMap.read Ctx.reset y.data.ctxs 0).gang
    let gs := as.filterMap (fun a => (s.ctx a).gang) ++ saved
    let s := dropChannelOps s fun o => as.contains o.owner
    let s : State := { s with
      merge := s.merge.filter fun x => !as.contains x.who
      gangs := s.gangs.filter fun g => !(gs.contains g.1)
      areas := s.areas.filter fun x => x.card != n
      doms := s.doms.map fun d => if d.1 != 0 && d.2.card == n then (d.1, { d.2 with members := [], journal := [], saved := [], release := none }) else d }
    let s := cs.foldl (fun (s : State) c =>
      let s := dropFlits s c
      (s.modCore c fun y => { y with exports := [], tt := { y.tt with running := none, armed := none } })) s
    let s := syncFrom s (tend (s.modCard n fun k => { k with killed := true, status := status }) k.queue) k.queue
    (cs.foldl freeCore s).due (.cardRetirement n)

/-- A card's first context has started, and its last domain has not begun its final commit; of a duplicate card, the later copy's
(R78, R369). -/
def watched (s : State) (n : Nat) : Bool :=
  let k := s.card n
  !k.done && !k.killed && k.begun
    && !((s.ctxsOf n).all (fun a => (s.ctx a).status == .ended) && !(s.areas.any fun x => x.card == n)
        && k.recCount ≤ k.next && (!k.dup || decide (k.recCount ≤ k.nextB)) && k.sections.all Prod.snd)

/-- Whether a card's watchdog class is enabled (R78). -/
def limited (s : State) (n : Nat) : Bool := bits ((s.layer (s.card n).layer).wd[(s.card n).wdClass]?.getD 0).toNat 0 16 != 0

/-- Whether a card's watchdog counts device time: its class is enabled, and no seal has stopped the count (R78, R339). -/
def timed (s : State) (n : Nat) : Bool := limited s n && !sealing s && !(s.areas.any fun x => x.card == n && x.timeless)

/-- Have every context of a card stop and be saved (R331). -/
def requestPreempt (s : State) (n : Nat) : State :=
  s.due (.preemption n)

/-- R79: LIM1 reached: request pre-emption of the card. -/
def execWatchdogPreempt (card : Nat) (s : State) : Host.Outcome State Fault Refusal :=
  .next (if timed s card && watched s card then requestPreempt s card else s)

/-- R79: LIM2 reached: stop and free the card with STATUS 0x20. A card that is already over, or killed, is left alone, and so is one of a
disabled class (R78) or one whose count a seal has stopped (R339), unless a miss's answer has asked for the kill (R226). -/
def execWatchdogKill (card : Nat) (s : State) : Host.Outcome State Fault Refusal :=
  .next (if (timed s card || (s.card card).doomed) && watched s card then killCard s card 0x20 else s)

/-! The defect map. -/

/-- An entry of the defect map (R34). -/
def defectEntry (kind die unit : Nat) (detail : Nat) : List Byte :=
  [BitVec.ofNat 8 kind, BitVec.ofNat 8 die, 0, 0] ++ (List.range 4).map (fun i => BitVec.ofNat 8 (unit / 256 ^ i))
    ++ (List.range 8).map fun i => BitVec.ofNat 8 (detail / 256 ^ i)

/-- Bytes compared as unsigned strings. -/
def bytesLe : List Byte → List Byte → Bool
  | [], _ => true
  | _ :: _, [] => false
  | x :: a, y :: b => decide (x.toNat < y.toNat) || (x == y && bytesLe a b)

/-- Enter a defect, in order and once; a lost cluster is no longer ready; DEFECT.SIG changes, so variant selection runs again
(R34, R37, R372). -/
def addDefect (s : State) (e : List Byte) : State :=
  if s.dev.defects.contains e then s
  else
    let d := (e.getD 1 0).toNat
    let s := s.addDev fun x => { x with
      defects := (x.defects ++ [e]).mergeSort bytesLe
      readyCl := if e.getD 0 0 = 4 then SMap.put x.readyCl d (SMap.read 0 x.readyCl d &&& ~~~(BitVec.ofNat 64 (2 ^ leNat ((e.drop 4).take 4)))) else x.readyCl }
    s.due .variantReselection

/-- Fence a core out of placement, with its KIND 2 entry (R34, R79, R329). -/
def fenceCore (s : State) (c : CoreId) : State :=
  addDefect (s.modCore c fun k => { k with fenced := true }) (defectEntry 2 (dieOf c) c.idx 0)

/-- R79: LIM3 reached: fence the cores still holding the card's contexts; its completion record follows. -/
def execWatchdogFence (card : Nat) (s : State) : Host.Outcome State Fault Refusal :=
  if timed s card && !(s.card card).done && (s.ctxsOf card ≠ []) && (watched s card || (s.card card).killed) then
    let cs := ((s.ctxsOf card).map (·.core)).dedup
    .next (killCard (cs.foldl fenceCore s) card 0x20)
  else .next s

end Sys2Proof.Machine
end

