-- ==== Sys2Proof/Machine/Sections.lean ====
section
/-! DEFINITION. The coded sections of a save area (R333). -/

namespace Sys2Proof.Machine

/-- The header of a record: its kind and n − 1. -/
def recordHead (kind n : Nat) : List Byte :=
  let x := kind * 2 ^ 14 + (n - 1)
  [BitVec.ofNat 8 x, BitVec.ofNat 8 (x / 256)]

/-- How many leading words satisfy a test, at most 16,384. -/
def leadRun (p : Dword → Bool) (l : List Dword) : Nat := min 16384 (l.takeWhile p).length

/-- The words after the first that go on its literal record. -/
def literalRun : Nat → List Dword → Nat
  | 0, _ => 0
  | _, [] => 0
  | fuel + 1, x :: t => if x = 0 ∨ t.head? = some x then 0 else 1 + literalRun fuel t

/-- The greedy coding of R333; the number bounds the records. -/
def encodeWords : Nat → List Dword → List Byte
  | 0, _ => []
  | _, [] => recordHead 3 1
  | fuel + 1, x :: t =>
    if x = 0 then let n := leadRun (· == 0) (x :: t); recordHead 0 n ++ encodeWords fuel ((x :: t).drop n)
    else if t.head? = some x then let n := leadRun (· == x) (x :: t); recordHead 1 n ++ num8 x.toNat ++ encodeWords fuel ((x :: t).drop n)
    else
      let n := 1 + literalRun 16383 t
      recordHead 2 n ++ ((x :: t).take n).flatMap (fun w => num8 w.toNat) ++ encodeWords fuel ((x :: t).drop n)

/-- The words of a coded stream. -/
def decodeWords : Nat → List Byte → List Dword
  | 0, _ => []
  | fuel + 1, l =>
    let h := leNat (l.take 2)
    let n := h % 2 ^ 14 + 1
    let r := l.drop 2
    match h / 2 ^ 14 with
    | 0 => List.replicate n 0 ++ decodeWords fuel r
    | 1 => List.replicate n (BitVec.ofNat 64 (leNat (r.take 8))) ++ decodeWords fuel (r.drop 8)
    | 2 => ((List.range n).map fun i => BitVec.ofNat 64 (leNat ((r.drop (8 * i)).take 8))) ++ decodeWords fuel (r.drop (8 * n))
    | _ => []

/-- A section: BASE, RAWLEN, CODELEN, and the stream padded to a multiple of 8. -/
def encodeSection (base : Nat) (raw : List Byte) : List Byte :=
  let ws : List Dword := (List.range (raw.length / 8)).map fun i => BitVec.ofNat 64 (leNat ((raw.drop (8 * i)).take 8))
  let code := encodeWords (ws.length + 1) ws
  numW 8 base ++ numW 4 raw.length ++ numW 4 code.length ++ code ++ List.replicate ((8 - code.length % 8) % 8) 0

/-- The bytes that a section restores. -/
def decodeSection (l : List Byte) : List Byte :=
  ((decodeWords (l.length + 1) (l.drop 16)).flatMap fun w => num8 w.toNat).take (leNat ((l.drop 8).take 4))

/-- Maximal runs of consecutive numbers of a rising list, each as its first number and its length. -/
def runsOf : List Nat → List (Nat × Nat)
  | [] => []
  | x :: t =>
    match runsOf t with
    | (y, n) :: r => if y = x + 1 then (x, n + 1) :: r else (x, 1) :: (y, n) :: r
    | [] => [(x, 1)]

/-- The sections of some dirty regions, with their first locations. -/
def sectionsOf (s : State) (regions : List Nat) : List (Nat × List Byte) :=
  (runsOf (regions.mergeSort fun x y => decide (x ≤ y))).map fun r =>
    (r.1 * 256, encodeSection (windowOf (r.1 * 256)) (Memory.getBytes s.mem (r.1 * 256) (r.2 * 256)))

end Sys2Proof.Machine
end

