-- ==== Sys2Proof/Machine/Recovery.lean ====
section
/-! DEFINITION. Errors, mismatches and what undoes or moves work: poison (R318), failed units (R329), redundant pairs (R322),
rollback (R323, R327, R328) and pre-emption (R331, R332). -/

namespace Sys2Proof.Machine

/-! Rollback. -/

/-- Whether two domains hold open-epoch entries for one line (R325). -/
def shareLine (x y : Domain) : Bool := x.journal.any fun e => y.journal.any fun f => f.line == e.line

/-- The domains that a rollback of one takes with it, of phase-structured cards (R254, R276, R312, R325). -/
def entangled (s : State) (d : Nat) : List Nat :=
  (s.doms.filter fun e => e.2.phs && (e.1 == d || (s.dom d).tangled.contains e.1 || shareLine (s.dom d) e.2)).map (·.1)

/-- The closed set of a rollback (R328 step 1). -/
def closure (s : State) : Nat → List Nat → List Nat
  | 0, l => l
  | fuel + 1, l => let l' := (l ++ l.flatMap (entangled s)).dedup; if l'.length = l.length then l else closure s fuel l'

/-- A core as it returns to a saved state: what no rollback or resume restores stays as it is (R125, R126, R184, R189, R225, R235, R318,
R379). -/
def mergeCore (now old : Core) : Core :=
  { old with
    tlb := now.tlb, icache := now.icache, fetchLine := now.fetchLine, missNo := now.missNo, mxSlots := now.mxSlots
    mxSlotLen := now.mxSlotLen, mxStaged := now.mxStaged, mxStart := now.mxStart, mxLent := now.mxLent, engTurn := now.engTurn
    icacheDrop := now.icacheDrop, errRollback := now.errRollback, errUncorr := now.errUncorr
    errCorr := now.errCorr, evc := now.evc, parked := now.parked, fenced := now.fenced, mailbox := now.mailbox
    ctxRes := now.ctxRes, shoot := now.shoot, gated := now.gated, stackLog := now.stackLog, leaving := now.leaving }

/-- The registers with what the access half had read ahead discarded (R128). -/
def RegState.noLoads (r : RegState) : RegState := { r with ldq := [], ldqDue := [] }

/-- A control context at its restored point, live, with its rendezvous before its first chunk; commands queued or running at the barrier
are discarded with those since (R191, R328 steps 3 and 6). -/
def Ctx.restored (c : Ctx) : Ctx :=
  { c with
    status := .live, arrival := none, link := none, ahead := [], misses := [], waitWord := none, pendFault := none, msgDue := false
    shot := false, perm := false, ports := c.ports.map fun p => (p.1, { p.2 with input := [] })
    r := c.r.noLoads, chunk := { Chunk.empty with ckpt := c.r.noLoads } }

/-- The journal entries of some domains, in the reverse of their order of recording: the one recorded first is written last. -/
def undoList (s : State) (ds : List Nat) : List JEntry :=
  (ds.flatMap fun d => (s.dom d).journal).mergeSort fun x y => decide (y.seq ≤ x.seq)

/-- The pre-image of an entry as its journal holds it. -/
def entryPre (s : State) (e : JEntry) : List Byte := match e.loc with | some l => Memory.getBytes s.mem (l + 8) 64 | none => e.pre

/-- Whether a pre-image is uncorrectable: its line was poisoned as it was recorded, or its entry is (R318, R328 step 4). -/
def entryBad (s : State) (e : JEntry) : Bool :=
  e.poisoned || (match e.loc with | some l => (List.range 72).any fun i => s.poison.contains ((l + i) / 64) | none => false)

/-- Write a pre-image back; its line is poisoned only where the pre-image is uncorrectable (R328 step 4). -/
def undoOne (s : State) (e : JEntry) : State :=
  let lo := e.line * 64
  let rest := s.poison.filter (· != e.line)
  ({ s with mem := Memory.putBytes s.mem lo (entryPre s e), poison := if entryBad s e then rest ++ [e.line] else rest } : State).noteHbm
    0x42 ((List.range 64).map (lo + ·))

/-- A channel on which the set began operations: WPTR takes back its value before the first of them, unless an operation of a domain
outside the set has begun since (R217). -/
def Channel.unbegin (c : Channel) (ds : List Nat) : Channel :=
  let c' := { c with prior := c.prior.filter fun p => !ds.contains p.1 }
  match c.prior.find? fun p => ds.contains p.1 with
  | some p => if p.2.2.2.all fun d => ds.contains d then { c' with tag := p.2.1, done := p.2.2.1 } else c'
  | none => c'

/-- The blocks' side of a rollback: allocations since the barrier are freed, frees asked for since are dropped (R95). -/
def undoBlocks (s : State) (ds : List Nat) : State :=
  let keep (b : Block) : Bool := !(b.fresh && ds.contains b.dom)
  let clear (b : Block) : Block := match b.pend with | some d => if ds.contains d then { b with pend := none } else b | none => b
  { s with clus := s.clus.map fun c => (c.1, { c.2 with
      blocks := (c.2.blocks.filter keep).map clear
      chans := c.2.chans.map fun x => (x.1, x.2.unbegin ds) }) }

/-- Restore one core of a domain, with what its contexts had outstanding at the barrier. -/
def restoreCore (s : State) (x : Saved) : State :=
  let s := s.modCore x.core fun k =>
    let y := mergeCore k x.data
    { y with exports := [], errRollback := if k.errRollback = 0xFFFF then k.errRollback else k.errRollback + 1
             ctxs := y.ctxs.map fun c => (c.1, if c.2.status = .live then c.2.restored else c.2) }
  let s := match (s.ctx ⟨x.core, 0⟩).gang with
    | some g => { s with gangs := SMap.put s.gangs g { s.gangOf g with fused := x.fused, solo := none, trace := [], limit := 256 } }
    | none => s
  (s.core x.core).ctxs.foldl (fun (s : State) c =>
    let a : CtxId := ⟨x.core, c.1⟩
    let s := match c.2.spreqs with
      | [] => s
      | y :: _ => s.due (if bitOf y.toNat 31 then .spallocFree a.core a.ctx else .spallocAllocate a.core a.ctx)
    c.2.queries.foldl (fun s _ => s.due (.workqAnswer a.core a.ctx)) s) s

/-- Stop a restored control context with cause 0x19 (R327). -/
def stopTooLarge (s : State) (m : CtxId) (info : W32) (who : Option (CtxId × VAddr)) : State :=
  let pc := (s.ctx m).r.pc
  let addr := match who with | some x => if x.1 = m then x.2 else pc | none => pc
  (s.modCtx m fun c => { c with
    r := { c.r with code := 0x19, info := info, faddr := addr.setWidth 64, epc := pc }
    status := .stopped, msgDue := true }).due (.faultMessage m.core m.ctx)

/-- Contexts wait for the release of their domain. -/
def holdBack (s : State) (ms : List CtxId) : State :=
  ms.foldl (fun s m => if (s.ctx m).status = .live then s.modCtx m fun c => { c with status := .waiting .rendezvous } else s) s

/-- All control contexts of a domain that stand at its restored barrier go on together, and where an exchange phase is open the slots
that began at its release begin again; none does while a part of the domain is saved (R276, R328 step 6, R332). -/
def letGo (s : State) (d : Nat) : State :=
  let ms := (s.dom d).members
  if awayFrom s d then holdBack s ms
  else
    let s := ms.foldl (fun s m => if (s.ctx m).status = .waiting .rendezvous && (s.ctx m).arrival.isNone then s.wake m else s) s
    if (s.dom d).exch then ((coresIn s d).filter fun c => c.kind == .l0).foldl startSlot s else s

/-- Release one domain of a rolled-back set, or hold it where its card is to be saved from its barrier (R276, R328 step 6, R331). -/
def releaseDomain (hold : List Nat) (s : State) (d : Nat) : State :=
  let x := s.dom d
  let ms := (x.saved.map fun y => (⟨y.core, 0⟩ : CtxId)).filter fun m => (s.ctx m).dom == d && (s.ctx m).status == .live
  let s := s.modDom d fun x => { x with
    members := ms, journal := [], tangled := [], release := none, replays := x.answers, anyParked := x.parkedBefore
    tokensSent := x.tokensSent, tooLarge := none }
  let s : State := { s with areas := s.areas.map fun y =>
    if (y.cores.any fun k => (SMap.read Ctx.reset k.data.ctxs 0).dom == d) then { y with replays := y.answers } else y }
  let s := match x.tooLarge with
    | none => s
    | some (info, who) =>
      (ms.foldl (fun s m => stopTooLarge s m info who) s).modCard x.card fun k => { k with flags := k.flags ||| 1 }
  if hold.contains x.card then holdBack s ms else letGo s d

/-- The chunks that a rollback squashes count (R328 step 2, R378). -/
def bumpSquashed (s : State) (as : List CtxId) : State :=
  as.foldl (fun s a => if (s.ctx a).chunk.base < (s.ctx a).chunk.count then s.bump a 0x04 else s) s

/-- Roll back a closed set of domains: stop, discard, restore memory, restore state, release (R328); `hold` names the cards that are to be
saved from their barriers. A poisoned pre-image ends every card of the set with STATUS 0x22. -/
def rollbackSet (s : State) (ds hold : List Nat) : State :=
  let inSet (a : CtxId) : Bool := ds.contains (s.ctx a).dom
  let as := s.allCtxs.filter inSet
  let cs := (as.map (·.core)).dedup
  let s := bumpSquashed s as
  let s := dropChannelOps s fun o => inSet o.owner
  let s := cs.foldl (fun (s : State) c => dropFlits s c) s
  let s : State := { s with merge := s.merge.filter fun x => !inSet x.who }
  let s := undoBlocks s ds
  let undo := undoList s ds
  let bad := undo.any (entryBad s)
  let s := undo.foldl undoOne s
  let s := ((cs.map dieOf).dedup).foldl (fun s d => s.bumpDie d 0x47 1) s
  if bad then
    ((ds.map fun d => (s.dom d).card).dedup).foldl (fun s n => killCard s n 0x22) s
  else
    let s := (ds.flatMap fun d => (s.dom d).saved).foldl restoreCore s
    ds.foldl (releaseDomain hold) s

/-- R328: The rollback controllers close, stop, discard, restore and release a set of domains. -/
def execRollback (dom : Nat) (s : State) : Host.Outcome State Fault Refusal :=
  if (s.dom dom).phs ∧ (s.dom dom).saved ≠ [] then .next (rollbackSet s (closure s s.doms.length [dom]) []) else .next s

/-! Errors. -/

/-- The number of a memory, which the spec does not give: an HBM stack's, 8 and the die of a shared SRAM, 1,000 and the cluster of a
scratchpad, 100,000 and the key of a TCM's core (R34, R329, log 89). -/
def memoryNo (l : Nat) : Nat := if isSram l then 8 + homeOf l else homeOf l
/-- The bank of a word as the table of spares numbers it: the 64 banks of a scratchpad each hold spare rows of their own (R15, R329); the spec
names no banks of the other memories, each of which is taken as one (log 28). -/
def bankNo (l : Nat) : Nat := if isSp l then 2 ^ 40 + memoryNo l * 64 + l / 4 % 64 else memoryNo l
/-- The die of a memory. -/
def memDie (l : Nat) : Nat :=
  if isSp l then (l - 2 ^ 54) / 2 ^ 32 / 36
  else if isTcm l then dieOf (coreOfKey ((l - 2 ^ 53) / 2 ^ 32))
  else min 8 (homeOf l)

/-- The 16 L0 cores of a cluster, and those with its service core. -/
def l0Of (cl : Nat) : List CoreId := (List.range 16).map fun i => ⟨.l0, cl * 16 + i⟩
def coresOf (cl : Nat) : List CoreId := l0Of cl ++ [⟨.service, cl⟩]

/-- Memory from `lo` up to `hi` reads 0 and holds no poison. -/
def zeroRange (s : State) (lo hi : Nat) : State :=
  { s with
    mem := Memory.zero s.mem lo hi, poison := s.poison.filter fun l => l * 64 < lo || hi ≤ l * 64
    dirty := s.dirty.filter fun r => r * 256 < lo || hi ≤ r * 256 }

/-- The memories of a cluster read 0, and context 0 of its service core runs its firmware from address 0 (R372, log 38). -/
def bootCluster (s : State) (cl : Nat) : State :=
  let c : CoreId := ⟨.service, cl⟩
  let s := (coresOf cl).foldl (fun s c => zeroRange s (tcmLoc c 0) (tcmLoc c 0 + 2 ^ 32)) s
  let s := zeroRange s (spLoc cl 0) (spLoc cl 0 + 2 ^ 32)
  let r := RegState.zero.wrS 30 (stackTop (tcmSize .service) (stackLogOf s ⟨c, 0⟩) 0)
  s.modCtx ⟨c, 0⟩ fun _ => { Ctx.reset with r := r, status := .live }

/-- The cards with contexts on some cores. -/
def cardsOn (s : State) (cs : List CoreId) : List Nat :=
  ((s.allCtxs.filter fun a => cs.contains a.core && (s.ctx a).status != .free).filterMap fun a => (s.ctx a).card).dedup

/-- Cards roll back and then end with STATUS 0x22 (R329). -/
def abandon (s : State) (ns : List Nat) : State :=
  let ds := (s.doms.filter fun d => ns.contains d.2.card && d.2.phs && d.2.saved != []).map (·.1)
  ns.foldl (fun s n => killCard s n 0x22) (if ds = [] then s else rollbackSet s (closure s s.doms.length ds) [])

/-- A physical cluster takes the place of a failed one under its logical number: it starts anew; fences by logical number stand
(R16, R34, R329). -/
def freshCluster (s : State) (cl : Nat) : State :=
  let s := (coresOf cl).foldl (fun (s : State) c => s.setCore c { Core.reset with fenced := (s.core c).fenced, stackLog := (s.core c).stackLog }) s
  bootCluster { s with clus := SMap.put s.clus cl Cluster.reset } cl

/-- A unit of a kind without a spare left is lost: a memory's 4 KiB block is retired, a core is fenced, a die loses a cluster, with their
entries of the defect map (R16, R34, R329). -/
def loseUnit (s : State) (u : ErrUnit) : State :=
  match u with
  | .memory l => addDefect s (defectEntry 3 (memDie l) (memoryNo l) (if isTcm l || isSp l then l % 2 ^ 32 / 4096 * 4096 else l / 4096 * 4096))
  | .lane c => fenceCore s c
  | .logic c => fenceCore s c
  | .cluster cl => addDefect s (defectEntry 4 (cl / 36) (cl % 36) 0)
  | .code _ _ => s

/-- The cores of a unit, whose cards end with it. -/
def unitCores : ErrUnit → List CoreId | .memory _ => [] | .lane c => [c] | .logic c => [c] | .cluster cl => coresOf cl | .code _ _ => []

/-- A unit declared failed by an error of a card: a row or a lane spare replaces it; a spare cluster of its die substitutes for it, with its
entry of the defect map; else it is lost. Without a row or a lane spare the running cards roll back and end with STATUS 0x22 (R329). -/
def failUnit (s : State) (x : ErrUnit × Nat) : State :=
  let s := s.addDev fun d => { d with failing := d.failing.filter (·.1 != x.1), errUnits := d.errUnits.filter fun u => u.2 != x.1 }
  let ended (s : State) : State := abandon s ((x.2 :: cardsOn s (unitCores x.1)).dedup)
  match x.1 with
  | .memory l =>
    let n := SMap.read 0 s.dev.spares (bankNo l)
    if n < 16 then s.addDev fun d => { d with spares := SMap.put d.spares (bankNo l) (n + 1) } else ended (loseUnit s x.1)
  | .lane c =>
    let n := SMap.read 0 s.dev.laneSpares c.key
    if n < 4 then s.addDev fun d => { d with laneSpares := SMap.put d.laneSpares c.key (n + 1) } else ended (loseUnit s x.1)
  | .logic _ => ended (loseUnit s x.1)
  | .cluster cl =>
    let s := ended s
    match (s.die (cl / 36)).spare with
    | p :: t => addDefect (freshCluster (s.modDie (cl / 36) fun d => { d with spare := t }) cl) (defectEntry 1 (cl / 36) (cl % 36) p)
    | [] => loseUnit s x.1
  | .code _ _ => s

/-- The contexts' registers as a chunk began, where one is open (R207). -/
def atCheckpoint (s : State) (a : CtxId) : State :=
  s.modCtx a fun c => if c.chunk.count = 0 then { c with chunk := { c.chunk with ckpt := c.r } } else c

/-- An error of a core's matrix unit or logic: it is counted and noted for the card that holds the core, a message is posted for the control
context, and the other members of a gang stop; a phase-structured domain rolls back, in any other card the context stops as at an error
that it consumes, with INFO 0, since no memory is at fault (R314, R318, R329, R330; its code is the model's choice, log 70). -/
def coreError (u : ErrUnit) (s : State) (c : CoreId) : State :=
  let a : CtxId := ⟨c, 0⟩
  let s := countUncorr s c
  let runs := match (s.ctx a).status with | .live => true | .waiting _ => true | .parking => s.phased a | .ended => s.phased a | _ => false
  if (s.ctx a).card = none ∨ (s.ctx a).status = .free then s
  else
    let s := gangStop (noteUnit (atCheckpoint s a) a u) a
    let pc := (s.ctx a).r.pc
    if !runs then (if s.phased a then s.due (.rollback (s.ctx a).dom) else s)
    else if s.phased a then consumePoison s a ⟨0x17, 0, pc.setWidth 64, false⟩ pc
    else (((stopAt s a 0x17 0).modCtx a fun x => { x with msgDue := true, pendFault := none }).bump a 0x08).due (.faultMessage c 0)

/-! The instruction cache (R125, R126). -/

/-- Why a halfword cannot be fetched. -/
inductive FetchStop where
  | trap (code : Byte) (info : W32) (addr : Dword)
  | miss (va : VAddr)
  /-- an uncorrectable line: its location -/
  | poison (loc : Nat) (line : Dword)
  deriving DecidableEq, Repr

/-- A byte of code as a core's instruction cache holds it, else as memory does (R125). -/
def codeByte (s : State) (c : CoreId) (l : Nat) : Byte :=
  match (s.core c).icache.find? fun x => x.1 == l / 64 with
  | some x => x.2.getD (l % 64) 0
  | none => Memory.byte s.mem l

/-- Whether a core's cache holds a line. -/
def hasCode (s : State) (c : CoreId) (line : Nat) : Bool := (s.core c).icache.any fun x => x.1 == line

/-- The halfword at an address, read through translation with execute permission; a window is never fetched from (R125, log 51). A
poisoned line that the cache does not hold fails its fetch (R126). -/
def fetchHalf (s : State) (a : CtxId) (pc : VAddr) : Except FetchStop Half :=
  let va : Dword := pc.setWidth 64
  if isWindow va then .error (.trap 0x06 0 va)
  else match reachByte s a 0 2 false va, reachByte s a 0 2 false (va + 1) with
    | .loc l, .loc h =>
      if s.poison.contains (l / 64) && !hasCode s a.core (l / 64) then .error (.poison l (va &&& ~~~63#64))
      else .ok (BitVec.ofNat 16 ((codeByte s a.core l).toNat + 256 * (codeByte s a.core h).toNat))
    | .miss v, _ => .error (.miss v)
    | .trap c i _, _ => .error (.trap c i va)
    | _, .miss v => .error (.miss v)
    | _, .trap c i _ => .error (.trap c i va)

/-- The halfwords of a chain: up to its base word or its fifth prefix (R46). -/
def fetchHalves (s : State) (a : CtxId) : Nat → VAddr → Except FetchStop (List Half)
  | 0, _ => .ok []
  | fuel + 1, pc =>
    match fetchHalf s a pc with
    | .error e => .error e
    | .ok h => if isBase h then .ok [h] else (fetchHalves s a fuel (pc + 2)).map (h :: ·)

/-- A line that is discarded before an instruction of it would issue is counted (R126). -/
def dropLine (s : State) (a : CtxId) : State :=
  (s.modCore a.core fun k => { k with icacheDrop := if k.icacheDrop = 0xFFFFFFFF then k.icacheDrop else k.icacheDrop + 1 }).bump a 0x0B

/-- Whether the next instruction of a core's holder has a halfword in a line. -/
def nextIn (s : State) (a : CtxId) (line : Nat) : Bool :=
  match fetchHalves s a 5 (s.ctx a).r.pc with
  | .ok hs => (span ((s.ctx a).r.pc.setWidth 64) (2 * hs.length)).any fun v => match reachByte s a 0 2 false v with | .loc l => l / 64 == line | _ => false
  | .error _ => false

/-- An uncorrectable error in a line of a core's instruction cache: the line is discarded, so that its next fetch reads memory. It counts as
dropped unless the instruction that would issue now lies in it, which refetches it (R126, log 94). -/
def codeError (s : State) (c : CoreId) (line : Nat) : State :=
  if !hasCode s c line then s
  else
    let a : CtxId := ⟨c, (s.core c).holder⟩
    let now := s.readyCtx a && nextIn s a line
    let s := s.modCore c fun k => { k with icache := k.icache.filter fun x => x.1 != line }
    if now then s else dropLine s a

/-- R318: A unit gives an uncorrectable error: a memory word fails correction and its line is marked poisoned, to be consumed where a party
reads it; a line of an instruction cache is discarded (R126); an error of a matrix unit, of a core's logic or of a cluster strikes the cores
it serves. A unit that was declared failed is replaced or lost (R329, R330). -/
def execUncorrectableError (u : ErrUnit) (s : State) : Host.Outcome State Fault Refusal :=
  match s.dev.failing.find? fun x => x.1 == unitKey u with
  | some x => .next (failUnit s x)
  | none => .next (match u with
    | .memory l => s.poisonLines [l]
    | .code c line => codeError s c line
    | _ => ((unitCores u).filter fun c => c.kind != .service).foldl (coreError u) s)

/-- Count an error corrected in a core's TCM or cache (R318). -/
def countCorr (s : State) (c : CoreId) : State :=
  s.modCore c fun k => { k with errCorr := if k.errCorr = 0xFFFF then k.errCorr else k.errCorr + 1 }

/-- R318: A memory or a cache corrects a single-bit error in place and counts it, in ERR.CNT.CORR of the core whose TCM or cache it is and on
the die; matrix units and logic correct none. -/
def execCorrectedError (u : ErrUnit) (s : State) : Host.Outcome State Fault Refusal :=
  .next (match u with
    | .memory l => (if isTcm l then countCorr s (coreOfKey ((l - 2 ^ 53) / 2 ^ 32)) else s).bumpDie (memDie l) 0x45 1
    | .code c _ => (countCorr s c).bumpDie (dieOf c) 0x45 1
    | _ => s)

/-! Redundant pairs. -/

/-- Both members of a pair stop with cause 0x18 and post their messages; the domain rolls back, or the card ends with STATUS
0x23 where it cannot or where the superstep mismatched before (R322). -/
def pairStop (s : State) (a : CtxId) (addr : Dword) : State :=
  let s := (withMate s a).foldl (fun s b =>
    let s := (bumpSquashed s [b]).modCtx b fun c => { c with
      r := { c.chunk.ckpt with code := 0x18, info := 0, faddr := addr, epc := c.chunk.ckpt.pc }
      status := .stopped, ahead := [], link := none, chunk := { Chunk.empty with ckpt := c.chunk.ckpt }, msgDue := false }
    postMsg s b 0 (mailTo s b.core) (faultMsg s b)) s
  let d := (s.ctx a).dom
  match (s.ctx a).card with
  | none => s
  | some n =>
    if !(s.dom d).phs || (s.dom d).mismatches.contains (s.dom d).superstep then killCard s n 0x23
    else (s.modDom d fun x => { x with mismatches := x.mismatches ++ [x.superstep] }).due (.rollback d)

/-- R322: Redundant copies differ at the merge router; nothing of the message leaves, both stop, and the domain rolls back. -/
def execPairMismatch (entry : Nat) (s : State) : Host.Outcome State Fault Refusal :=
  match (match s.merge[entry]? with | some x => if x.bad then some x else s.merge.find? MergeEntry.bad | none => s.merge.find? MergeEntry.bad) with
  | none => .next s
  | some x =>
    let s : State := { s with merge := s.merge.erase x }
    .next (pairStop ((withMate s x.who).foldl atCheckpoint s) x.who x.target)

/-- Whether the partner's copy of an effect stands at the merge router too. -/
def partnerStands (s : State) (x : MergeEntry) : Bool :=
  match (s.ctx x.who).mate with | some m => s.merge.any fun y => y.who == ⟨m, x.who.ctx⟩ && y.chan == x.chan | none => false

/-- R321: An effect waits 4,096 cycles alone at the merge router and counts as a mismatch; one that has been merged, or whose partner's copy
has come, waits no more. -/
def execMergeTimeout (entry : Nat) (s : State) : Host.Outcome State Fault Refusal :=
  match s.merge[entry]? with
  | none => .next s
  | some x =>
    if x.passed || partnerStands s x then .next s else
    let s : State := { s with merge := s.merge.eraseIdx entry }
    .next (pairStop ((withMate s x.who).foldl atCheckpoint s) x.who x.target)

/-! Pre-emption. -/

/-- The cores saved together with a core: its gang's, and their pairs' other members. -/
def groupOf (s : State) (c : CoreId) : List CoreId :=
  let a := primaryOf s ⟨c, 0⟩
  let own : List CoreId := match (s.ctx a).gang with | some g => (s.gangOf g).members.map CtxId.core | none => [a.core]
  let mates := own.filterMap fun c => (s.ctx ⟨c, 0⟩).mate
  (own ++ mates).dedup

/-- Whether a group stands at an instruction boundary with its chunks committed, its copies and its timetables done and nothing
outstanding; a link form that waits has no effect and is executed again, and a work query is saved with its context (R217, R254, R331,
R339). -/
def mayLeave (s : State) (g : List CoreId) : Bool :=
  let as := (s.allCtxs.filter fun a => g.contains a.core && (s.ctx a).status != .free)
  (as.all fun a =>
    let c := s.ctx a
    c.chunk.count ≤ c.chunk.base && c.chunk.effects.isEmpty && c.spreqs.isEmpty && (s.dom c.dom).release.isNone)
  && (g.all fun c => (s.core c).tt.running.isNone)
  && !(s.merge.any fun x => as.contains x.who && x.chan != 200)
  && s.clus.all fun k => k.2.chans.all fun x => !((x.2.active.toList ++ x.2.shadow.toList ++ x.2.waiting).any fun o =>
      as.contains o.owner && o.cmd.outcome.isNone)

/-- A context as it is saved: what it waited for is tried again at resume, with the part of a link form that is done done; one stopped by a
trap posts its message again, which a gang stop has none of (R254, R330, R331). -/
def Ctx.saved (c : Ctx) : Ctx :=
  { c with
    status := match c.status with | .waiting _ => .live | x => x
    arrival := none, link := c.withdrawn.link, ahead := [], misses := [], waitWord := none, pendFault := none, shot := false
    msgDue := c.status == .stopped && c.r.code != 0x1A, r := c.r.noLoads, chunk := { Chunk.empty with ckpt := c.r.noLoads } }

/-- Undelivered completions of a context's copy operations, as they are saved with it (R217). -/
def stowChannel (s : State) (a : CtxId) : State :=
  let os := s.clus.flatMap fun k => k.2.chans.flatMap fun x => (x.2.active.toList ++ x.2.shadow.toList ++ x.2.waiting).filter fun o => o.owner == a
  let s := dropChannelOps s fun o => o.owner == a
  os.foldl (fun s o => s.modPort a o.port fun p => { p with input := p.input ++ [o.cmd] }) s

/-- The blocks that leave with a group: those of its card in its clusters, where no other context of the card stays in the cluster. -/
def blocksWith (s : State) (g : List CoreId) (card : Nat) : List (Nat × Block) :=
  ((g.filterMap clusterOf).dedup).flatMap fun cl =>
    if s.allCtxs.any fun a => !g.contains a.core && clusterOf a.core == some cl && (s.ctx a).card == some card && (s.ctx a).status != .free then []
    else ((s.cluster cl).blocks.filter fun b => b.card == card).map fun b => (cl, b)

/-- Whether a location lies in a saved 256-byte region of a group (R331). -/
def savedLoc (s : State) (g : List CoreId) (bs : List (Nat × Block)) (l : Nat) : Bool :=
  s.dirty.contains (l / 256) &&
    ((g.any fun c => tcmLoc c 0 ≤ l && l < tcmLoc c 0 + 2 ^ 32) || bs.any fun b => spLoc b.1 b.2.off ≤ l && l < spLoc b.1 b.2.off + 2 ^ b.2.order)

/-- The first location of the boot core's pool of save areas (R331; the spec places it nowhere, log 95). -/
def savePool : Nat := Config.savePool % (640 * 2 ^ 30) / 4096 * 4096
/-- The saves as words after their number. -/
def saveWords (s : State) : List Dword :=
  let l := savesCodec.enc ⟨s.areas, s.cards, s.doms, s.gangs, s.queues⟩
  BitVec.ofNat 64 l.length :: l
/-- The save areas are written to the pool as they stand (R331). -/
def writeSaves (s : State) : State := devWrite s (dwordBytes savePool (saveWords s))
/-- What the pool holds. -/
def readSaves (s : State) : Option Saves :=
  (savesCodec.dec ((List.range (s.dword savePool).toNat).map fun i => s.dword (savePool + 8 + 8 * i))).map (·.1)

/-- Save a group and free its cores (R331). -/
def saveGroup (s : State) (g : List CoreId) (card : Nat) : State :=
  let as := s.allCtxs.filter fun a => g.contains a.core && (s.ctx a).status != .free
  let s := as.foldl stowChannel s
  let bs := blocksWith s g card
  let cores := g.map fun c =>
    let k := s.core c
    (⟨c, { k with ctxs := k.ctxs.map fun x => (x.1, x.2.saved), leaving := false, exports := [] }, gangFused s c⟩ : Saved)
  let mine (k : Nat) : Bool := g.contains (coreOfKey (k / 16))
  let logs (f : Domain → SMap (List (List Dword))) : SMap (List (List Dword)) :=
    ((as.map fun a => (s.ctx a).dom).dedup.flatMap fun d => (f (s.dom d)).filter fun e => mine e.1).foldl (fun m e => SMap.put m e.1 e.2) []
  let area : SaveArea :=
    { card := card, cores := cores, blocks := bs, sections := sectionsOf s (s.dirty.filter fun r => savedLoc s g bs (r * 256))
      poison := s.poison.filter (fun l => savedLoc s g bs (l * 64)), answers := logs (·.answers), replays := logs (·.replays), held := false, timeless := false, pins := [] }
  let s : State := { s with
    areas := s.areas ++ [area]
    merge := s.merge.filter fun x => !as.contains x.who
    clus := s.clus.map fun k => (k.1, { k.2 with blocks := k.2.blocks.filter fun b => !bs.contains (k.1, b) })
    doms := s.doms.map fun d => (d.1, { d.2 with members := d.2.members.filter fun m => !g.contains m.core
                                                 saved := d.2.saved.filter fun y => !g.contains y.core
                                                 answers := d.2.answers.filter fun e => !mine e.1
                                                 replays := d.2.replays.filter fun e => !mine e.1 }) }
  writeSaves (g.foldl freeCore s)

/-- Save every group of a card that may leave. -/
def saveReady (s : State) (card : Nat) : List CoreId → State
  | [] => s
  | c :: t =>
    let g := groupOf s c
    if (s.core c).leaving && (s.ctx ⟨c, 0⟩).card == some card && mayLeave s g then saveReady (saveGroup s g card) card t
    else saveReady s card t

/-- Mark cores to be left at their next instruction boundary; an open chunk ends there, and one that a gang executes member by member goes
back to its start (R331). -/
def markLeaving (s : State) (cs : List CoreId) : State :=
  cs.foldl (fun s c =>
    let s := if (s.solo ⟨c, 0⟩).isSome then squashGroup s (s.lockstep ⟨c, 0⟩) else s
    let s := s.modCore c fun k => { k with leaving := true }
    (s.core c).ctxs.foldl (fun s x => s.modCtx ⟨c, x.1⟩ fun y =>
      if y.chunk.base < y.chunk.count then { y with chunk := { y.chunk with ended := true } } else y) s) s

/-- R331: A card's contexts stop and their state is saved; a phase-structured card is rolled back to its barrier first and saved from
there, no slot of it begun again (R276). -/
def execPreemption (card : Nat) (s : State) : Host.Outcome State Fault Refusal :=
  let k := s.card card
  let cs := ((s.ctxsOf card).map (·.core)).dedup
  if k.done || k.killed || cs = [] then .next s
  else if k.phs ∧ ¬ (cs.any fun c => (s.core c).leaving) then
    let ds := (s.doms.filter fun d => d.2.card == card && d.2.phs && d.2.saved != []).map (·.1)
    let s := rollbackSet s (closure s s.doms.length ds) [card]
    if (s.card card).killed then .next s
    else
      let cs := ((s.ctxsOf card).map (·.core)).dedup
      .next (saveReady (markLeaving s cs) card cs)
  else
    let s := if (cs.any fun c => (s.core c).leaving) then s else markLeaving s cs
    .next (saveReady s card cs)

/-- R275: A non-filler chunk pre-empts the filler contexts on a core. -/
def execFillerDisplacement (core : CoreId) (s : State) : Host.Outcome State Fault Refusal :=
  match (s.ctx ⟨core, 0⟩).card with
  | none => .next s
  | some n =>
    if (s.card n).isFiller ∧ (s.ctx ⟨core, 0⟩).status ≠ .free then
      let g := groupOf s core
      .next (saveReady (if (s.core core).leaving then s else markLeaving s g) n g)
    else .next s

/-- The cores of one cluster on which a group stands when its first core moves. -/
def movedCores (cs : List CoreId) (base to' : CoreId) : List CoreId := cs.map fun c => ⟨c.kind, to'.idx + c.idx - base.idx⟩

/-- Whether cores of one cluster are all free. -/
def freeTogether (s : State) (cs : List CoreId) : Bool :=
  cs.all fun c => c.idx < coreCount c.kind && coreFree s c && c.idx / 16 == (cs.headD c).idx / 16

/-- The cluster that now stands for one that a saved group's windows reached. -/
def SaveArea.reach (x : SaveArea) (cl : Nat) : Nat := match x.pins.find? fun p => p.1 == cl with | some p => p.2 | none => cl

/-- The clusters of a saved group, each with the one to which it moves. -/
def clusterMoves (x : SaveArea) (new : List CoreId) : List (Nat × Nat) :=
  (((x.cores.map (·.core)).zip new).filterMap fun z => match clusterOf z.1, clusterOf z.2 with | some o, some n => some (x.reach o, n) | _, _ => none).dedup

/-- The saved blocks of a card that stand for a cluster, which its groups there share. -/
def blocksOf (s : State) (card cl : Nat) : List Block :=
  (s.areas.filter fun y => y.card == card).flatMap fun y => (y.blocks.filter fun b => y.reach b.1 == cl).map (·.2)

/-- Whether a saved group's windows keep their meaning where it would move: blocks of its card that stand in a cluster of its stay there and it
with them; those that are saved, with it or with another group that shares them, find their offsets free (R332). -/
def blocksFree (s : State) (x : SaveArea) (new : List CoreId) : Bool :=
  (clusterMoves x new).all fun m =>
    (m.2 == m.1 || !((s.cluster m.1).blocks.any fun b => b.card == x.card)) &&
      (blocksOf s x.card m.1).all fun b => (s.cluster m.2).blocks.all fun y => decide (y.off + 2 ^ y.order ≤ b.off) || decide (b.off + 2 ^ b.order ≤ y.off)

/-- The cores on which a saved group may resume with its first core on a given one: any core of its layer above L0, else a rectangle of
one cluster as R90 allows, and for a pair the first shadows that R320 allows; all free, with the group's blocks free (R332). -/
def resumeCores (s : State) (x : SaveArea) (core : CoreId) : Option (List CoreId) :=
  let isMate (y : Saved) : Bool := (SMap.read Ctx.reset y.data.ctxs 0).copy == .shadow
  let own := (x.cores.filter fun y => !isMate y).map (·.core)
  let mates := (x.cores.filter isMate).map (·.core)
  let first := own.headD core
  let g := match x.cores.head? with
    | some y => (match (SMap.read Ctx.reset y.data.ctxs 0).gang with | some n => ((s.gangOf n).w, (s.gangOf n).h) | none => (1, 1))
    | none => (1, 1)
  if core.kind ≠ first.kind then none
  else if core.kind ≠ .l0 then (if core.idx < coreCount core.kind && coreFree s core && blocksFree s x [core] then some [core] else none)
  else
    let shape := movedCores own first core
    if core.idx % 4 % g.1 ≠ 0 ∨ core.idx / 4 % 4 % g.2 ≠ 0 ∨ !freeTogether s shape then none
    else if mates = [] then (if blocksFree s x shape then some shape else none)
    else
      let cands := (allRects g.1 g.2).map fun r => movedCores mates (mates.headD first) (r.headD core)
      (cands.find? fun q => freeTogether s q && shadows shape q && blocksFree s x (shape ++ q)).map fun q => shape ++ q

/-- The first core on which a saved group may resume. -/
def placeFor (s : State) (x : SaveArea) : Option CoreId :=
  let k := (x.cores.map fun y => y.core.kind).headD .l0
  ((List.range (coreCount k)).map fun i => (⟨k, i⟩ : CoreId)).find? fun c => (resumeCores s x c).isSome

/-- Where a core of a group has moved. -/
def movedTo (old new : List CoreId) (c : CoreId) : CoreId := ((old.zip new).find? fun z => z.1 == c).elim c Prod.snd

/-- A location of a saved region after a move of the clusters: window offsets are kept; none for a scratchpad that does not move now (R332). -/
def movedLoc (x : SaveArea) (old new : List CoreId) (moves : List (Nat × Nat)) (l : Nat) : Option Nat :=
  if isTcm l then (if old.contains (coreOfKey ((l - 2 ^ 53) / 2 ^ 32)) then some (tcmLoc (movedTo old new (coreOfKey ((l - 2 ^ 53) / 2 ^ 32))) (l % 2 ^ 32)) else none)
  else (moves.find? fun m => m.1 == x.reach ((l - 2 ^ 54) / 2 ^ 32)).map fun m => spLoc m.2 (l % 2 ^ 32)

/-- Put back what a save area holds of the cores and the clusters that move. -/
def putBack (old new : List CoreId) (moves : List (Nat × Nat)) (s : State) (x : SaveArea) : State :=
  let go (l : Nat) : Option Nat := movedLoc x old new moves l
  let s := x.blocks.foldl (fun s b => match moves.find? fun m => m.1 == x.reach b.1 with
    | some m => (zeroRange s (spLoc m.2 b.2.off) (spLoc m.2 b.2.off + 2 ^ b.2.order)).modCluster m.2 fun k => { k with blocks := k.blocks ++ [b.2] }
    | none => s) s
  let regions := x.sections.flatMap fun e => match go e.1 with
    | some l => (List.range (leNat ((e.2.drop 8).take 4) / 256)).map fun i => l / 256 + i
    | none => []
  { s with
    mem := x.sections.foldl (fun (m : Memory) e => match go e.1 with | some l => Memory.putBytes m l (decodeSection e.2) | none => m) s.mem
    poison := (s.poison ++ x.poison.filterMap fun l => (go (l * 64)).map (· / 64)).dedup
    dirty := (s.dirty ++ regions).dedup }

/-- A save area whose shared blocks have moved with another group: it resumes where they are (R332). -/
def SaveArea.follow (x : SaveArea) (moves : List (Nat × Nat)) : SaveArea :=
  let out (cl : Nat) : Bool := moves.any fun m => m.1 == x.reach cl
  let outLoc (l : Nat) : Bool := isSp l && out ((l - 2 ^ 54) / 2 ^ 32)
  let cls := (x.cores.filterMap fun y => clusterOf y.core).dedup
  { x with
    blocks := x.blocks.filter fun b => !out b.1
    sections := x.sections.filter fun e => !outLoc e.1
    poison := x.poison.filter fun l => !outLoc (l * 64)
    pins := cls.filterMap fun cl => match moves.find? fun m => m.1 == x.reach cl with
      | some m => some (cl, m.2)
      | none => (x.pins.find? fun p => p.1 == cl) }

/-- A core that another address space held last is cleared before a saved context is put on it, and one that another card held last begins
with the matrix unit's reset values (R184, R368). -/
def readyCore (s : State) (c : CoreId) (asid : Option (BitVec 16)) (card : Nat) : State :=
  let s := match (s.core c).lastAsid with | some x => if some x = asid then s else clearCore s c | none => s
  if (s.core c).lastCard = some card then s else firstOfCard s c

/-- Put one saved core on its new place: a rollback of the present epoch restores it as it now stands (R332). -/
def placeSaved (old new : List CoreId) (s : State) (y : Saved) : State :=
  let c := movedTo old new y.core
  let k := mergeCore (s.core c) { y.data with ctxs := y.data.ctxs.map fun x => (x.1, { x.2 with mate := x.2.mate.map (movedTo old new) }) }
  let s := s.setCore c { k with leaving := false }
  let a : CtxId := ⟨c, 0⟩
  let d := (s.ctx a).dom
  s.modDom d fun x => { x with
    members := if (s.ctx a).status = .ended then x.members else x.members ++ [a]
    saved := if x.phs then x.saved ++ [⟨c, { k with leaving := false }, y.fused⟩] else x.saved }

/-- The workq logs of a resumed group go on under its contexts' new numbers (R87). -/
def placeLogs (old new : List CoreId) (x : SaveArea) (s : State) : State :=
  let key (k : Nat) : CtxId := ⟨movedTo old new (coreOfKey (k / 16)), k % 16⟩
  let s := x.answers.foldl (fun (s : State) e => s.modDom (s.ctx (key e.1)).dom fun d => { d with answers := SMap.put d.answers (answerKey (key e.1)) e.2 }) s
  x.replays.foldl (fun (s : State) e => s.modDom (s.ctx (key e.1)).dom fun d => { d with replays := SMap.put d.replays (answerKey (key e.1)) e.2 }) s

/-- Let what a resumed context had outstanding go on: its message, its park, its link form in a fused gang, its work queries, its
engines and its held completions. -/
def wakeSaved (s : State) (a : CtxId) : State :=
  let s := reoffer s a
  let c := s.ctx a
  let s := if c.msgDue then s.due (.faultMessage a.core a.ctx) else s
  let s := if c.status = .parking then s.due (.contextEnd a.core a.ctx) else s
  let s := c.queries.foldl (fun (s : State) _ => s.due (.workqAnswer a.core a.ctx)) s
  c.ports.foldl (fun (s : State) p =>
    p.2.input.foldl (fun (s : State) h => s.due (if h.outcome.isSome then .completion a.core a.ctx p.1 else .engine a.core a.ctx p.1)) s) s

/-- Whether a mapped card that is no filler would be dealt a chunk on one of some cores now (R274). -/
def wanted (s : State) (cs : List CoreId) : Bool :=
  (mappedHeads s 0).any fun n =>
    let k := s.card n
    let side (b : Bool) : Bool := k.nextOf b < k.recCount && ((plan (coreFree s) k (askers (coreFree s) k b)).any fun g => (g.1 ++ g.2).any fun c => cs.contains c)
    !k.isFiller && (side false || (k.dup && side true))

/-- The cores on which a saved group may resume now with its first core on a given one; filler only while it is dealt and no other card
wants its cores, and none while it is held or a seal runs (R274, R275, R332, R337, R339). -/
def mayResume (s : State) (x : SaveArea) (core : CoreId) : Option (List CoreId) :=
  if x.held || sealing s then none
  else match resumeCores s x core with
    | none => none
    | some new => if (s.card x.card).isFiller ∧ (¬ s.dev.flr ∨ wanted s new) then none else some new

/-- The first saved group that may resume now, with its first core; filler last (R275, R332). -/
def resumeNext (s : State) : Option (Nat × CoreId) :=
  if s.areas = [] then none
  else
    let filler (x : SaveArea) : Bool := (s.card x.card).isFiller
    ((s.areas.filter fun x => !filler x) ++ s.areas.filter filler).findSome? fun x =>
      if x.held || sealing s || (filler x && !s.dev.flr) then none
      else (placeFor s x).bind fun c => (mayResume s x c).map fun _ => (x.card, c)

/-- R332: A saved card is resumed once a core and its blocks are free; unsaved regions read 0; filler resumes where filler is
dealt (R274, R275); a phase-structured domain goes on once all of it is back. -/
def execPreemptionResume (card : Nat) (core : CoreId) (s : State) : Host.Outcome State Fault Refusal :=
  match (s.areas.filter fun x => x.card == card).findSome? fun x => (mayResume s x core).map fun p => (x, p) with
  | none => .next s
  | some (x, new) =>
      let old := x.cores.map (·.core)
      let moves := clusterMoves x new
      let s := x.cores.foldl (fun s y => readyCore s (movedTo old new y.core) y.data.lastAsid card) s
      let s := new.foldl (fun s c => zeroRange s (tcmLoc c 0) (tcmLoc c 0 + 2 ^ 32)) s
      let s := (s.areas.filter fun y => y.card == card && y != x).foldl (putBack [] [] moves) (putBack old new moves s x)
      let s : State := { s with
        areas := (s.areas.erase x).map fun y => if y.card = card then y.follow moves else y
        gangs := s.gangs.map fun g => (g.1, { g.2 with members := g.2.members.map fun m => if old.contains m.core && (x.cores.any fun y => (SMap.read Ctx.reset y.data.ctxs 0).gang == some g.1) then ⟨movedTo old new m.core, m.ctx⟩ else m }) }
      let s := placeLogs old new x (x.cores.foldl (placeSaved old new) s)
      let s := (s.allCtxs.filter fun a => new.contains a.core && (s.ctx a).status != .free).foldl wakeSaved s
      let ds := (new.map fun c => (s.ctx ⟨c, 0⟩).dom).dedup
      let s := (ds.filter fun d => (s.dom d).phs).foldl (fun s d => letGo (holdBack s ((new.map fun c => ⟨c, 0⟩).filter fun a => (s.ctx a).dom == d)) d) s
      .next (writeSaves ((ds.foldl nudge s).due (.dealingRound (s.card card).layer)))

end Sys2Proof.Machine
end

