-- ==== Sys2Proof/Machine/Power.lean ====
section
/-! DEFINITION. Time, power and readiness: device time (R346), the interval boundary (R350, R351), telemetry (R347, R354),
cluster gating (R355 to R358), reset and bring-up (R372 to R374). -/

namespace Sys2Proof.Machine

/-! Device time (R346). -/

/-- One reference cycle of 0.8 ns of the local oscillator: the count advances, slewed by at most 1 ns in 10,000 (100 ppm), or
stands while it is frozen. -/
def tickTime (s : State) : State :=
  let t := s.ticks
  let inc := 4 * (t + 1) / 5 - 4 * t / 5
  let d := s.dev
  if d.freeze ≠ 0 then { s with ticks := t + 1, dev := { d with freeze := d.freeze - inc, devTime := d.devTime + BitVec.ofNat 64 (inc - d.freeze) } }
  else
    let step : Int := if d.slew ≠ 0 ∧ 4 * t / 5 / 10000 < 4 * (t + 1) / 5 / 10000 then (if 0 < d.slew then 1 else -1) else 0
    { s with ticks := t + 1, dev := { d with slew := d.slew - step, devTime := d.devTime + BitVec.ofInt 64 (inc + step) } }

/-- A reference cycle in the counters of every die (R378). -/
def dieTick (s : State) : State := (List.range 9).foldl (fun s d => s.bumpDie d 0x40 1) s

/-- R346: An IEEE 1588 message disciplines device time: an offset below 1 ms is slewed, a larger one forward is stepped, a
larger one backward freezes the count. -/
def execPtpMessage (time : Dword) (domain : Byte) (s : State) : Host.Outcome State Fault Refusal :=
  let off : Int := (time.toNat : Int) - s.dev.devTime.toNat
  let s := s.addDev fun d => { d with ptpStat := BitVec.ofNat 32 (2 ^ 30 + domain.toNat) }
  .next (if off.natAbs < 1000000 then s.addDev fun d => { d with slew := off, freeze := 0 }
    else if 0 < off then s.addDev fun d => { d with slew := 0, freeze := 0, devTime := time }
    else s.addDev fun d => { d with slew := 0, freeze := off.natAbs })

/-- R346: Device time loses its master: a locked clock is in holdover. -/
def execHoldoverEntry (s : State) : Host.Outcome State Fault Refusal :=
  .next (if bits s.dev.ptpStat.toNat 30 2 = 1 then
      s.addDev fun d => { d with ptpStat := BitVec.ofNat 32 (2 * 2 ^ 30 + bits d.ptpStat.toNat 0 8), slew := 0, freeze := 0 }
    else s)

/-! The interval boundary. -/

/-- The governed power of an interval in µW: the first measured value, then the demand within the slew limit and the two
bounds (R351). -/
def governed (d : Dev) (meas demand : Nat) : Nat :=
  let w := 1000000
  let cap := bits d.pwrCfg.toNat 48 16 * w
  let floor := bits d.pwrCfg.toNat 32 16 * w
  let rate := bits d.pwrCfg.toNat 0 16 * 4096
  if d.intervals = 0 then meas * w
  else min cap (max floor (min (max demand (d.gov - rate)) (d.gov + rate)))

/-- A cluster's request as the walk sees it: 0 where it is gated or holds no context (R349, R357). -/
def boostNeed (s : State) (cl : Nat) : Nat :=
  if (s.cluster cl).gate = .on && clusterHeld s cl then (s.cluster cl).boostReq.toNat else 0

/-- One cluster's part of the walk: its new step and fall, and the permits it takes (R350). -/
def boostStep (prev : Nat) (wasfall thr : Bool) (req pool : Nat) : Nat × Bool × Nat :=
  if wasfall ∨ req = 0 then (0, false, 0)
  else
    let need := if thr then 0 else req
    if 0 < need ∧ need ≤ pool then (need, false, need)
    else if need = 2 ∧ pool = 1 then (1, false, 1)
    else if prev = 2 then (1, true, 0)
    else (0, false, 0)

/-- The walk's visit of a cluster of a die. -/
def boostVisit (thr : Bool) (d : Nat) (s : State) (c : Nat) : State :=
  let cl := d * 36 + c
  let k := s.cluster cl
  let r := boostStep k.boostCur.toNat (k.boostFall != 0) thr (boostNeed s cl) (s.die d).pool
  if k.boostCur = 0 ∧ k.boostFall = 0 ∧ r.1 = 0 then s
  else
    let s := s.modCluster cl fun k => { k with boostCur := BitVec.ofNat 2 r.1, boostFall := if r.2.1 then 1 else 0 }
    let s := s.modDie d fun x => { x with pool := x.pool - r.2.2 }
    if r.2.2 = 0 then s else s.bumpDie d 0x4A r.2.2

/-- A base die's steps at an interval boundary: the refill, then the walk (R350); the cycles that its clusters ran boosted are
counted, 5,632 of step 1 or 6,144 of step 2 in an interval of 4.096 µs (R348, R378). -/
def boostDie (thr : Bool) (s : State) (d : Nat) : State :=
  let cs := (List.range 36).map fun c => d * 36 + c
  let ran := cs.filter fun cl => (s.cluster cl).boostCur != 0
  let s := ran.foldl (fun s cl => s.bumpCluster cl 0x24 (if (s.cluster cl).boostCur = 1 then 5632 else 6144)) s
  let s := if ran ≠ [] then s
    else s.modDie d fun x => if x.idle + 1 = 8 then { x with idle := 0, pool := min (x.pool + 1) 64 } else { x with idle := x.idle + 1 }
  let rr := (s.die d).rr
  let s := ((List.range 36).map fun i => (rr + i) % 36).foldl (boostVisit thr d) s
  s.modDie d fun x => { x with rr := (x.rr + 1) % 36 }

/-- Saved cards for which there is now a place may resume (R275, R332). -/
def resumeSaved (s : State) : State :=
  s.areas.foldl (fun s x => match placeFor s x with | some c => s.due (.resume x.card c) | none => s) s

/-- The clusters above step 0. -/
def boosted (s : State) : Nat := s.clus.countP fun c => c.2.boostCur != 0

/-- A telemetry record of the boundary that has just closed an interval (R354). -/
def telemetryBytes (s : State) : List Byte :=
  let n (w x : Nat) : List Byte := (List.range w).map fun i => BitVec.ofNat 8 (x / 256 ^ i)
  n 8 s.dev.energyStamp.toNat ++ n 8 s.dev.telEnergy.toNat ++ n 2 s.dev.meas ++ n 2 (s.dev.gov / 1000000)
    ++ n 2 ((if s.dev.flr then 1 else 0) + (if s.dev.thr then 2 else 0) + (if bits s.dev.ptpStat.toNat 30 2 = 2 then 4 else 0))
    ++ n 2 (boosted s) ++ n 8 0

/-- The events whose numbers the spec leaves to the device are counted for the ending interval, where a counter stands for them: idle rows of
the matrix units of L0 cores, none where the interval ran without the power floor, and bank-conflict retries of clusters (R198, R353, R378,
log 72). -/
def countFree (floor : Bool) (s : State) : State :=
  let s := (s.cores.filter fun k => floor && (coreOfKey k.1).kind == .l0 && k.2.evc != []).foldl (fun (s : State) k =>
    { s.modCore (coreOfKey k.1) fun c => { c with evc := bumpCtrs c.evc 0x0A none (Config.idleRows s.free) } with free := s.free + 1 }) s
  (s.clus.filter fun k => k.2.evc != []).foldl (fun (s : State) k =>
    { s.bumpCluster k.1 0x20 (Config.bankRetries s.free) with free := s.free + 1 }) s

/-- R350, R351: At each accounting interval the governor sets G, THR and FLR, and each base die refills and walks its boost
permits; every 256th closes a telemetry record. The boundary comes first on its reference edge, whose device time it stamps (R361). The
measured power in W, the demand in µW and the energy in µJ are inputs. -/
def execIntervalBoundary (meas demand energy : Nat) (s : State) : Host.Outcome State Fault Refusal :=
  let d := s.dev
  let g := governed d meas demand
  let thr := decide (g < demand)
  let flr := decide (demand < g)
  let s := s.addDev fun d => { d with
    gov := g, meas := meas, thr := thr, flr := flr, telEnergy := d.telEnergy + BitVec.ofNat 64 energy, energyStamp := (tickTime s).dev.devTime
    intervals := d.intervals + 1 }
  let s := countFree d.flr ((List.range 8).foldl (boostDie thr) s)
  let s := (List.range 9).foldl (fun s x =>
    let s := if thr then s.bumpDie x 0x48 1 else s
    if flr then s.bumpDie x 0x49 1 else s) s
  let s := if flr ∧ ¬ d.flr then resumeSaved (s.due (.dealingRound 0)) else s
  .next (if s.dev.intervals % 256 = 0 then (s.addDev fun d => { d with telRecord := some (telemetryBytes s) }).due .telemetry else s)

/-! Telemetry. -/

/-- R354: Every 256 intervals a telemetry datagram is sent, with what its closing boundary left; none before the management port is ready,
and none is kept for later (R374). -/
def execTelemetryRecord (s : State) : Host.Outcome State Fault Refusal :=
  let s' := s.addDev fun d => { d with telRecord := none }
  .next (match s.dev.telRecord with
    | some r => if bitOf s.dev.ready.toNat 29 then { s' with out := s.out ++ [.record r] } else s'
    | none => s)

/-- R347: A read of TEL.ENERGY also latches the matching TEL.STAMP. -/
def execTelEnergyRead (core : CoreId) (ctx : Nat) (s : State) : Host.Outcome State Fault Refusal :=
  .next (s.modCtx ⟨core, ctx⟩ fun c => { c with r := { c.r with telStamp := s.dev.energyStamp } })

/-! Cluster gating. -/

def setGate (s : State) (cl : Nat) (g : Gate) : State := s.modCluster cl fun k => { k with gate := g }
def clusterError (s : State) : State := s.addDev fun d => { d with clErr := 1 }

/-- A cluster is ON again: its wake leaves L0 TLBs empty and its event counters clear, and it may be dealt to (R356, R357, R379). -/
def clusterOn (s : State) (cl : Nat) : State :=
  let s := s.modCluster cl fun k => { k with gate := .on, wakeLatched := false, retained := [], evc := [] }
  let s := (l0Of cl).foldl (fun (s : State) c =>
    if (s.core c).tlb.slots = [] then s else s.modCore c fun k => { k with tlb := invalidate (fun _ => true) k.tlb }) s
  resumeSaved (s.due (.dealingRound 0))

/-- Whether a cluster's QUIESCING conditions hold: no context, not even one that has parked in an epoch that a rollback may take back; idle
channels, an empty mailbox (R356, R358, R365). -/
def quiet (s : State) (cl : Nat) : Bool :=
  ((l0Of cl).all fun c => (s.core c).ctxs.all fun x => x.2.status == .free)
    && ((s.cluster cl).chans.all fun x => x.2.active.isNone && x.2.shadow.isNone && x.2.waiting.isEmpty)
    && (s.core ⟨.service, cl⟩).mailbox == ⟨[], []⟩

/-- A command of CL.CTL on the selected cluster: where it does not fit the state, or none is selected, ERR is set (R355, R356). -/
def clCommand (s : State) (fits : Gate → Bool) (act : State → Nat → State) : State :=
  match selCluster s with
  | none => clusterError s
  | some cl => if fits (s.cluster cl).gate then act s cl else clusterError s

/-- CMD 1 QUIESCE: ON to QUIESCING. -/
def quiesceCmd (s : State) : State := clCommand s (· == .on) fun s cl => (setGate s cl .quiescing).due (.quiesceDone cl)
/-- CMD 2 SAVE: QUIESCED to SAVING, the service core's and the configuration registers copied. -/
def saveCmd (s : State) : State :=
  clCommand s (· == .quiesced) fun s cl =>
    (s.modCluster cl fun k => { k with gate := .saving, retained := (coresOf cl).map fun c => (c, s.core c) }).due (.saveDone cl)
/-- CMD 3 CLKOFF: SAVED to CLKOFF. -/
def clkoffCmd (s : State) : State := clCommand s (· == .saved) fun s cl => (setGate s cl .clkStopping).due (.clockStopped cl)
/-- CMD 4 RAILOFF: CLKOFF to RAILOFF. -/
def railoffCmd (s : State) : State :=
  clCommand s (fun g => g == .clkStopping || g == .clkOff) fun s cl => (setGate s cl .railStopping).due (.railOff cl)
/-- A write of CL.CTL (R355). -/
def clCtl (s : State) (cmd : Nat) : State :=
  match cmd with | 1 => quiesceCmd s | 2 => saveCmd s | 3 => clkoffCmd s | 4 => railoffCmd s | _ => clusterError s

/-- A WAKE of the selected cluster (R356). -/
def wakeCmd (s : State) : State :=
  match selCluster s with
  | none => clusterError s
  | some cl =>
    match (s.cluster cl).gate with
    | .on => s
    | .quiescing => clusterOn s cl
    | .quiesced => clusterOn s cl
    | .saved => clusterOn s cl
    | .clkStopping => (setGate s cl .restarting).due (.clockRestart cl)
    | .clkOff => (setGate s cl .restarting).due (.clockRestart cl)
    | .railOff => (setGate s cl .waking).due (.wakeDone cl)
    | .restarting => s
    | .saving => s.modCluster cl fun k => { k with wakeLatched := true }
    | .railStopping => s.modCluster cl fun k => { k with wakeLatched := true }
    | .waking => s.modCluster cl fun k => { k with wakeLatched := true }

/-- R356: CL.CTL command 1 starts quiescing a cluster. -/
def execClQuiesce (s : State) : Host.Outcome State Fault Refusal := .next (quiesceCmd s)

/-- R356: CL.CTL command 2 saves the cluster's registers to retention. -/
def execClSave (s : State) : Host.Outcome State Fault Refusal := .next (saveCmd s)

/-- R356: CL.CTL command 3 stops the cluster clock. -/
def execClClkoff (s : State) : Host.Outcome State Fault Refusal := .next (clkoffCmd s)

/-- R356: CL.CTL command 4 turns the cluster rail off. -/
def execClRailoff (s : State) : Host.Outcome State Fault Refusal := .next (railoffCmd s)

/-- R356: A CL.WAKE write returns the cluster toward ON or is latched. -/
def execClWake (s : State) : Host.Outcome State Fault Refusal := .next (wakeCmd s)

/-- R358: The quiescing conditions hold and the cluster becomes QUIESCED. -/
def execQuiesceDone (clus : Nat) (s : State) : Host.Outcome State Fault Refusal :=
  .next (if (s.cluster clus).gate = .quiescing ∧ quiet s clus then setGate s clus .quiesced else s)

/-- R356: The save ends and the cluster becomes SAVED; a latched WAKE then acts. -/
def execSaveDone (clus : Nat) (s : State) : Host.Outcome State Fault Refusal :=
  .next (if (s.cluster clus).gate = .saving then (if (s.cluster clus).wakeLatched then clusterOn s clus else setGate s clus .saved) else s)

/-- R358: The cluster clock has stopped. -/
def execClockStopped (clus : Nat) (s : State) : Host.Outcome State Fault Refusal :=
  .next (if (s.cluster clus).gate = .clkStopping then setGate s clus .clkOff else s)

/-- R358: The cluster rail is off; a WAKE accepted before then begins. -/
def execRailOff (clus : Nat) (s : State) : Host.Outcome State Fault Refusal :=
  .next (if (s.cluster clus).gate = .railStopping then
      (if (s.cluster clus).wakeLatched then
        (s.modCluster clus fun k => { k with gate := .waking, wakeLatched := false }).due (.wakeDone clus) else setGate s clus .railOff)
    else s)

/-- R356: The restarted cluster clock reaches ON. -/
def execClockRestart (clus : Nat) (s : State) : Host.Outcome State Fault Refusal :=
  .next (if (s.cluster clus).gate = .restarting then clusterOn s clus else s)

/-- A core after its rail came back: a service core as it was retained, an L0 core with its retained configuration; a fence
stands (R356). -/
def retainedCore (now old : Core) (service : Bool) : Core :=
  if service then { old with icache := [], fetchLine := none }
  else { Core.reset with mxSlots := old.mxSlots, mxSlotLen := old.mxSlotLen, stackLog := old.stackLog, fenced := now.fenced }

/-- R356: Ramp, retention restore and zeroing end and the cluster is ON. -/
def execWakeDone (clus : Nat) (s : State) : Host.Outcome State Fault Refusal :=
  if (s.cluster clus).gate ≠ .waking then .next s
  else
    let s := (s.cluster clus).retained.foldl (fun (s : State) x =>
      let s := s.setCore x.1 (retainedCore (s.core x.1) x.2 (x.1.kind == .service))
      zeroRange s (tcmLoc x.1 0) (tcmLoc x.1 0 + 2 ^ 32)) s
    .next (clusterOn (zeroRange s (spLoc clus 0) (spLoc clus 0 + 2 ^ 32)) clus)

/-! The start and the end of a checkpoint operation (R336). -/

/-- Dealing, sections and saved cards go on after a seal (R339). -/
def restartDealing (s : State) : State :=
  let s := (List.range 4).foldl (fun s l => s.due (.dealingRound l)) s
  let s := s.cards.foldl (fun s k => k.2.sections.foldl (fun s x => if x.2 then s else s.due (.cycleSectionStart k.1 x.1)) s) s
  resumeSaved s

/-- An operation ends with a CODE: BUSY 0, DONE 1; a seal lets cards go on, and the watchdogs of those it saved wait until they resume
(R336, R339). -/
def ckptEnd (s : State) (code : Nat) : State :=
  let x := s.dev.ckptStat.toNat
  let s := s.addDev fun d => { d with ckptStat := BitVec.ofNat 64 (2 ^ 30 + code % 256 * 2 ^ 16 + x % 256), ckptNeed := 0 }
  if x % 16 = 1 then restartDealing { s with areas := s.areas.map fun y => { y with timeless := true } } else s

/-- An accepted operation starts once ROT is ready (R374); an unassigned OP ends with CODE 0x01 (R336). -/
def ckptGo (s : State) : State :=
  let op := bits s.dev.ckptStat.toNat 0 4
  if !bitOf s.dev.ckptStat.toNat 31 || !bitOf s.dev.ready.toNat 30 then s
  else if 1 ≤ op ∧ op ≤ 4 then s.due (.ckpt op) else ckptEnd s 1

/-- A write of CKPT.CTL at its commit: ignored while BUSY (R336). -/
def ckptWrite (s : State) (ctx : Nat) (v : Dword) : State :=
  if bitOf s.dev.ckptStat.toNat 31 then s
  else ckptGo (s.addDev fun d => { d with
    ckptCtl := v, ckptCtx := ctx, ckptNeed := 0, ckptProg := 0, ckptStat := BitVec.ofNat 64 (2 ^ 31 + v.toNat % 16) })

/-! Reset and readiness. -/

/-- R372: Reset: only the boot core runs and no function is ready. What the root of trust's MRAM and the defect map hold
stays (R34, R334), as do memories outside the device; the boot core loads its firmware anew (R334); the schedule of steps, what was sent, and
the model's counters go on. -/
def execDeviceReset (s : State) : Host.Outcome State Fault Refusal :=
  let r := State.reset
  .next { r with
    turns := s.turns, out := s.out, free := s.free, jseq := s.jseq, tier := s.tier
    mem := s.mem.filter fun e => isHost e.1
    cores := (s.cores.filter fun c => c.2.fenced).foldl (fun m c => SMap.put m c.1 { Core.reset with fenced := true }) r.cores
    dev := { r.dev with tenants := s.dev.tenants, defects := s.dev.defects, spares := s.dev.spares, laneSpares := s.dev.laneSpares, fw := s.dev.fw + 1 }
    dies := (s.dies.filter fun d => d.2.spare != (State.die r d.1).spare).foldl (fun m d => SMap.put m d.1 { State.die r d.1 with spare := d.2.spare }) [] }

/-- Set a bit of READY. -/
def setReady (s : State) (b : Nat) : State := s.addDev fun d => { d with ready := d.ready ||| BitVec.ofNat 64 (2 ^ b) }
def isReady (s : State) (b : Nat) : Bool := bitOf s.dev.ready.toNat b

/-- What waited for readiness is tried again (R374). -/
def readyAgain (s : State) : State :=
  (List.range 4).foldl (fun s l => s.due (.dealingRound l)) (tendAll s)

/-- The boot core sets QTAB.BASE, gives the boot queues' descriptors their LAYER and DEVFED = 1, and enables the doorbell block
(R37, R65, R373, log 5). -/
def openQueues (s : State) (qtab : Nat) : State :=
  (List.range 4).foldl (fun s l => putBits s (4092 + l) 0xC8 (BitVec.ofNat 8 (l * 64 + 8))) (s.addDev fun d => { d with qtabBase := qtab })

/-- A cluster is ready: its service-core firmware is loaded, context 0 of the service core runs from address 0 (log 38), and its
memories read 0 (R372). -/
def startCluster (s : State) (cl : Nat) : State :=
  let d := cl / 36
  let s := (bootCluster s cl).addDev fun x => { x with readyCl := SMap.put x.readyCl d (SMap.read 0 x.readyCl d ||| BitVec.ofNat 64 (2 ^ (cl % 36))) }
  setReady s (17 + d)

/-- R372, R373: A function finishes bring-up and sets its readiness bit, after those it waits for; a bit goes to 1 once. A step
that names no function of the device faults. -/
def execFunctionReady (fn : Function) (s : State) : Host.Outcome State Fault Refusal :=
  let bring (b : Nat) (after : Bool) (act : State → State) : Host.Outcome State Fault Refusal :=
    .next (if isReady s b || !after then s else readyAgain (setReady (act s) b))
  match fn with
  | .hbm k => if 8 ≤ k then .fault .noSuchUnit else bring k true fun s => zeroRange s (k * (80 * 2 ^ 30)) ((k + 1) * (80 * 2 ^ 30))
  | .sram d => if 9 ≤ d then .fault .noSuchUnit else bring (8 + d) true fun s => zeroRange s (sramLoc d 0) (sramLoc d 0 + sramSize d)
  | .upper l =>
    if l = 0 ∨ 4 ≤ l then .fault .noSuchUnit
    else
      bring (24 + l) (if l = 3 then isReady s 16 else (List.range 8).all fun d => isReady s (8 + d)) fun s =>
        (s.cores.filter fun c => layerOf (coreOfKey c.1).kind == l && !isPriv (coreOfKey c.1).kind).foldl
          (fun s c => zeroRange s (tcmLoc (coreOfKey c.1) 0) (tcmLoc (coreOfKey c.1) 0 + 2 ^ 32)) s
  | .l0die d =>
    if 8 ≤ d then .fault .noSuchUnit else bring (17 + d) (SMap.read (0 : Dword) s.dev.readyCl d != 0) id
  | .cluster cl =>
    if 288 ≤ cl then .fault .noSuchUnit
    else .next (if bitOf (SMap.read (0 : Dword) s.dev.readyCl (cl / 36)).toNat (cl % 36) || !isReady s (8 + cl / 36) || clusterLost s cl then s
      else readyAgain (startCluster s cl))
  | .host qtab => bring 28 true fun s => openQueues s qtab
  | .mgmt => bring 29 true id
  | .rot => .next (if isReady s 30 then s else readyAgain (ckptGo (setReady s 30)))
  | .quekin p =>
    if 36 ≤ p then .fault .noSuchUnit
    else .next (if bitOf s.dev.readyQl.toNat p then s
      else readyAgain (s.addDev fun d => { d with readyQl := d.readyQl ||| BitVec.ofNat 64 (2 ^ p) }))

end Sys2Proof.Machine
end

