-- ==== Sys2Proof/Machine/Sealed.lean ====
section
/-! DEFINITION. Sealed checkpoints (R334 to R344): seal, restore, bind and quote, commits and their acknowledgements. SHA3-256, KMAC256,
AES-256-GCM and ML-KEM-768 are computed; ML-DSA-44's signatures are opaque constants of Config (log 85). -/

namespace Sys2Proof.Machine

/-! Reads and writes of an operation. -/

/-- The bytes of a name. -/
def nameBytes (x : String) : List Byte := x.toList.map fun c => BitVec.ofNat 8 c.toNat

/-- The context that wrote CKPT.CTL, through whose translation an operation reads (R337). -/
def ckptAt (s : State) : CtxId := ⟨⟨.boot, 0⟩, s.dev.ckptCtx⟩

/-- Where a byte of the boot core's address space leads, through the boot core's own translation; none where its TLB holds no entry that
gives the permission, or the address reaches nothing (log 45). -/
def ckptReach (s : State) (acc : Nat) (va : Dword) : Option Nat :=
  match reachByte s (ckptAt s) 0 acc false va with
  | .loc l => some l
  | _ => none

/-- Bytes read by an operation, none where an address reaches nothing. -/
def ckptRead (s : State) (va : Dword) (n : Nat) : Option (List Byte) :=
  (span va n).mapM fun v => (ckptReach s 0 v).map fun l => Memory.byte s.mem l

/-- Bytes written by an operation, all or, where an address reaches nothing, none. -/
def ckptPut (s : State) (va : Dword) (l : List Byte) : Option State :=
  ((span va l.length).mapM (ckptReach s 1)).map fun locs => devWrite s (locs.zip l)

/-- The descriptor's eight doublewords (R337). -/
def ckptDesc (s : State) : Option (List Dword) :=
  (ckptRead s (BitVec.ofNat 64 (bits s.dev.ckptCtl.toNat 6 50 * 64)) 64).map fun l =>
    (List.range 8).map fun i => BitVec.ofNat 64 (leNat ((l.drop (8 * i)).take 8))

/-- Reserved bits, and the fields that are 0 for an operation: DW0 63:52 but for seal and restore, DW1 but for seal. -/
def descOk (op : Nat) (d : List Dword) : Bool :=
  bits (d.getD 2 0).toNat 9 55 == 0 && !bitOf (d.getD 2 0).toNat 6 && (op ≤ 2 || bits (d.getD 0 0).toNat 52 12 == 0)
    && (op == 1 || d.getD 1 0 == 0)

def Tenant.none : Tenant := ⟨[], [], 0⟩
/-- A bound slot. -/
def slotOf (s : State) (n : Nat) : Option Tenant :=
  if SMap.has s.dev.tenants n then some (SMap.read Tenant.none s.dev.tenants n) else none
def setCtr (s : State) (n : Nat) (v : Dword) : State :=
  s.addDev fun d => { d with tenants := SMap.put d.tenants n { SMap.read Tenant.none d.tenants n with ctr := v } }
/-- The slot that holds a measurement. -/
def slotWith (s : State) (tm : List Byte) : Option Nat := (s.dev.tenants.find? fun t => t.2.tm == tm).map (·.1)

/-- The firmware measurement: the digest of the boot firmware image as the boot core loaded it (R334). -/
def fwMeasure (s : State) : List Byte := sha3 (Config.firmware s.dev.fw)

/-- The seed of the device's ML-KEM pair (R335). -/
def kemSeed (s : State) : List Byte := kmac256 Config.dss.toList (fwMeasure s) 512 (nameBytes "ZV7 kem")
/-- Its encapsulation key. -/
def ekBytes (s : State) : List Byte := kemPublic (kemSeed s)

/-- The certificate of this device's attestation key: the vendor root's signature over DEVID and AKPUB (R335, R338). -/
def akCert : List Byte := (Config.vendorSign (num8 Config.devId.toNat ++ Config.akPub.toList)).toList

/-- ML-DSA-44 verification: what the vendor root and this device's key signed verifies under their keys. -/
def sigOk (pub msg sig : List Byte) : Bool :=
  (pub == Config.vendorRoot.toList && sig == (Config.vendorSign msg).toList)
    || (pub == Config.akPub.toList && sig == (Config.dsaSign msg).toList) || Config.dsaVerify pub msg sig

/-- An operation runs: it was accepted and the root of trust is ready. -/
def running (s : State) (op : Nat) : Bool :=
  bitOf s.dev.ckptStat.toNat 31 && bits s.dev.ckptStat.toNat 0 4 == op && bitOf s.dev.ready.toNat 30 && s.dev.ckptNeed == 0

/-! Bind (R334). -/

/-- Whether bytes are a policy record. -/
def policyOk (r : List Byte) : Bool :=
  let nfw := (r.getD 6 0).toNat
  r.take 4 == [0x5A, 0x56, 0x54, 0x50] && leNat ((r.drop 4).take 2) == 1 && 1 ≤ nfw && nfw ≤ 8 && r.getD 7 0 == 0

/-- R334: Bind operation fills a tenant slot from a policy record; a measurement that fills a slot already reuses it. -/
def execCkptBind (s : State) : Host.Outcome State Fault Refusal :=
  if !running s 3 then .next s
  else match ckptDesc s with
    | none => .next (ckptEnd s 0x01)
    | some d =>
      if !descOk 3 d then .next (ckptEnd s 0x01)
      else
        let va := BitVec.ofNat 64 (bits (d.getD 0 0).toNat 0 52)
        match ckptRead s va 8 with
        | none => .next (ckptEnd s 0x12)
        | some h =>
          match (if policyOk h then ckptRead s va (40 + 32 * (h.getD 6 0).toNat) else none) with
          | none => .next (ckptEnd s 0x12)
          | some r =>
            let tm := sha3 r
            match slotWith s tm, (List.range 64).find? fun i => !SMap.has s.dev.tenants i with
            | some _, _ => .next (ckptEnd s 0)
            | none, some i => .next (ckptEnd (s.addDev fun x => { x with tenants := SMap.put x.tenants i ⟨tm, r, 0⟩ }) 0)
            | none, none => .next (ckptEnd s 0x12)

/-! Quotes (R338, R340). -/

/-- Bytes 0 to 1,303 of a quote, which SIG covers. -/
def quoteBody (s : State) (t : Tenant) (nonce : List Byte) : List Byte :=
  [0x5A, 0x56, 0x51, 0x54] ++ numW 2 1 ++ numW 2 0 ++ num8 Config.devId.toNat ++ fwMeasure s ++ t.tm ++ num8 t.ctr.toNat ++ nonce ++ ekBytes s
/-- A quote of a slot for a nonce. -/
def quoteBytes (s : State) (t : Tenant) (nonce : List Byte) : List Byte :=
  quoteBody s t nonce ++ Config.akPub.toList ++ akCert ++ (Config.dsaSign (quoteBody s t nonce)).toList

/-- R338: Quote operation writes a signed attestation quote. -/
def execCkptQuote (s : State) : Host.Outcome State Fault Refusal :=
  if !running s 4 then .next s
  else match ckptDesc s with
    | none => .next (ckptEnd s 0x01)
    | some d =>
      match (if descOk 4 d then slotOf s (bits (d.getD 2 0).toNat 0 6) else none), ckptRead s (d.getD 7 0) 32 with
      | some t, some nonce =>
        match ckptPut s (BitVec.ofNat 64 (bits (d.getD 0 0).toNat 0 52)) (quoteBytes s t nonce) with
        | some s => .next (ckptEnd s 0)
        | none => .next (ckptEnd s 0x01)
      | _, _ => .next (ckptEnd s 0x01)

/-- The CODE of a quote: its certificate and signature, its nonce, its TM and its FWM; 0 where it is valid (R340). -/
def quoteCode (t : Tenant) (nonce q : List Byte) : Nat :=
  let devid := (q.drop 8).take 8
  let akpub := (q.drop 1304).take 1312
  let fws := (List.range (t.policy.getD 6 0).toNat).map fun i => (t.policy.drop (40 + 32 * i)).take 32
  if !(sigOk Config.vendorRoot.toList (devid ++ akpub) ((q.drop 2616).take 2420)
      && sigOk akpub (q.take 1304) ((q.drop 5036).take 2420)) then 0x03
  else if (q.drop 88).take 32 != nonce then 0x04
  else if (q.drop 48).take 32 != t.tm then 0x06
  else if !fws.contains ((q.drop 16).take 32) then 0x05
  else 0

/-! The image (R342). -/

/-- A segment: its KIND and ID, its first location, its OFFSET in its unit and its LENGTH. -/
structure Segment where
  kind : Nat
  id : Nat
  loc : Nat
  off : Nat
  len : Nat
  deriving DecidableEq, Repr

/-- The first location and size of a unit of memory, none where the device has no such unit. -/
def unitOf (kind id : Nat) : Option (Nat × Nat) :=
  match kind with
  | 1 => if id < 8 then some (id * (80 * 2 ^ 30), 80 * 2 ^ 30) else none
  | 2 => if id < 9 then some (sramLoc id 0, sramSize id) else none
  | 3 => if id < 288 then some (spLoc id 0, 0x400000) else none
  | 4 =>
    let k := kindOfLayer (bits id 30 2)
    let c : CoreId := ⟨k, bits id 0 13⟩
    if coreExists c && coreIdWord c == id then some (tcmLoc c 0, tcmSize k) else none
  | _ => none

/-- The 4 KiB blocks retired here, by location (R34, R329). -/
def retiredAt (s : State) : List Nat :=
  (s.dev.defects.filter fun e => e.getD 0 0 == 3).map fun e =>
    let unit := leNat ((e.drop 4).take 4)
    let det := leNat ((e.drop 8).take 8)
    if 100000 ≤ unit then 2 ^ 53 + (unit - 100000) * 2 ^ 32 + det
    else if 1000 ≤ unit then spLoc (unit - 1000) det
    else det

/-- A unit cut around the retired blocks in it, which rise. -/
def cutUnit (kind id base : Nat) : Nat → Nat → List Nat → List Segment
  | lo, hi, [] => if lo < hi then [⟨kind, id, base + lo, lo, hi - lo⟩] else []
  | lo, hi, x :: t =>
    (if lo < x - base then [⟨kind, id, base + lo, lo, x - base - lo⟩] else []) ++ cutUnit kind id base (x - base + 4096) hi t

def unitSegs (s : State) (kind id : Nat) : List Segment :=
  match unitOf kind id with
  | none => []
  | some (base, n) =>
    cutUnit kind id base 0 n ((((retiredAt s).filter fun x => base ≤ x && x < base + n).mergeSort fun x y => decide (x ≤ y)).dedup)

/-- Every core of the four layers, by layer and then by FLAT. -/
def layerCores : List CoreId := (List.range 4).flatMap fun l => (List.range (coreCount (kindOfLayer l))).map fun i => ⟨kindOfLayer l, i⟩

/-- The cluster in which a core loses power. -/
def coreLost (s : State) (c : CoreId) : Bool := (s.core c).fenced || (c.kind == .l0 && clusterLost s (c.idx / 16))

/-- The memory segments of a seal, in their order; fenced cores, lost clusters and retired blocks have none (log 47). -/
def memorySegs (s : State) : List Segment :=
  (List.range 8).flatMap (unitSegs s 1) ++ (List.range 9).flatMap (unitSegs s 2)
    ++ ((List.range 288).filter fun c => !clusterLost s c).flatMap (unitSegs s 3)
    ++ (layerCores.filter fun c => !coreLost s c).flatMap fun c => unitSegs s 4 (coreIdWord c)

/-- Whether a location lies in a gated cluster's TCMs or scratchpad, which a seal reads as zero bytes (R357). -/
def inGated (s : State) (l : Nat) : Bool :=
  let cl := if isSp l then some ((l - 2 ^ 54) / 2 ^ 32)
    else if isTcm l then (let c := coreOfKey ((l - 2 ^ 53) / 2 ^ 32); if c.kind = .l0 then some (c.idx / 16) else none) else none
  match cl with | some c => (s.cluster c).gate != .on | none => false

/-- The plaintext of a memory segment: poisoned lines and gated clusters read as zero bytes. -/
def segBytes (s : State) (g : Segment) : List Byte :=
  (List.range g.len).map fun i =>
    let l := g.loc + i
    if s.poison.contains (l / 64) || inGated s l then 0 else Memory.byte s.mem l

/-- The poisoned lines that segments cover. -/
def segPoison (s : State) (gs : List Segment) : List Nat :=
  s.poison.filter fun l => !inGated s (l * 64) && gs.any fun g => g.loc ≤ l * 64 && l * 64 < g.loc + g.len

/-! Device state: the trigger counters, the queues' device-written fields and the registers that only the boot core may write, in
an encoding of the model's own (log 47). -/

/-- The boot core's registers, in the order of the segment. -/
def regWords (s : State) : List Nat :=
  [s.dev.bootTgt.toNat, s.dev.leaseMax.toNat, s.dev.pwrCfg.toNat, s.dev.clSel.toNat]
    ++ (List.range 9).flatMap (fun d => [(s.die d).jrnSram.toNat, (s.die d).jrnHbm.toNat])
    ++ (List.range 4).flatMap (fun l => (s.layer l).quantum.toNat :: (s.layer l).wd.toList.map (·.toNat))
    ++ (List.range 64).map (fun i => (SMap.read (0 : Dword) s.dev.fab i).toNat)
    ++ (List.range 9).flatMap (fun d => (List.range 32).map fun i => (evcRead (s.die d).evc 16 i).toNat)
    ++ layerCores.map fun c => (s.core c).stackLog.toNat
def queueWords (s : State) (q : Nat) : List Nat :=
  let x := s.queue q
  [x.head.toNat * 2 ^ 32 + x.tail.toNat, (if x.en then 1 else 0) + (if x.err = 0 then 0 else 4), (s.dealt q).toNat * 2 ^ 32 + x.chead.toNat]
def deviceBytes (s : State) : List Byte :=
  (List.range 4096).flatMap (fun k => numW 4 (SMap.read (0 : W32) s.dev.trig k).toNat)
    ++ ((List.range 4096).flatMap (queueWords s) ++ regWords s).flatMap num8

/-- Word i of a device-state segment after the trigger counters. -/
def devWord (l : List Byte) (i : Nat) : Nat := leNat ((l.drop (16384 + 8 * i)).take 8)

/-- Put a device-state segment back. DEALT counts the queue's own cards, which come back with the saved ones (log 47). -/
def putDevice (s : State) (l : List Byte) : State :=
  let s := s.addDev fun d => { d with trig := (List.range 4096).map fun k => (k, BitVec.ofNat 32 (leNat ((l.drop (4 * k)).take 4))) }
  let s := (List.range 4096).foldl (fun s q =>
    let a := devWord l (3 * q)
    let b := devWord l (3 * q + 1)
    let c := devWord l (3 * q + 2)
    s.modQueue q fun x => { x with
      head := BitVec.ofNat 32 (a / 2 ^ 32), tail := BitVec.ofNat 32 a, en := bitOf b 0, err := if bitOf b 2 then 1 else 0
      chead := BitVec.ofNat 32 c }) s
  let r (i : Nat) : Nat := devWord l (3 * 4096 + i)
  let s := s.addDev fun d => { d with
    bootTgt := BitVec.ofNat 32 (r 0), leaseMax := BitVec.ofNat 32 (r 1), pwrCfg := BitVec.ofNat 64 (r 2), clSel := BitVec.ofNat 32 (r 3)
    fab := (List.range 64).map fun i => (i, BitVec.ofNat 64 (r (58 + i))) }
  let s := (List.range 9).foldl (fun s k => s.modDie k fun x => { x with
    jrnSram := BitVec.ofNat 64 (r (4 + 2 * k)), jrnHbm := BitVec.ofNat 64 (r (5 + 2 * k)) }) s
  let s := (List.range 4).foldl (fun s k => s.modLayer k fun x => { x with
    quantum := BitVec.ofNat 16 (r (22 + 9 * k)), wd := Vector.ofFn fun i => BitVec.ofNat 64 (r (23 + 9 * k + i.val)) }) s
  let s := (List.range 9).foldl (fun s k => s.modDie k fun x => { x with
    evc := (List.range 16).map fun i => (i, EventCtr.ofWords (r (122 + 32 * k + i)) (r (138 + 32 * k + i))) }) s
  (layerCores.zipIdx).foldl (fun s x =>
    let v := r (410 + x.2)
    if (s.core x.1).stackLog.toNat = v then s else s.modCore x.1 fun k => { k with stackLog := BitVec.ofNat 4 v }) s

/-! Layout. -/

def mib : Nat := 2 ^ 20
def chunksOf (n : Nat) : Nat := (n + mib - 1) / mib

/-- The segment table, each with its first chunk. -/
def segTable : Nat → List (Nat × Nat × Nat × Nat) → List Byte
  | _, [] => []
  | first, (kind, id, off, len) :: t =>
    numW 1 kind ++ numW 3 0 ++ numW 4 id ++ num8 off ++ num8 len ++ numW 4 first ++ numW 4 0 ++ segTable (first + chunksOf len) t

/-- Bytes of an image before its ciphertext. -/
def headBytes (nenv nseg npois nchunk : Nat) : Nat := (128 + 1144 * nenv + 32 * nseg + 8 * npois + 16 * nchunk + 4095) / 4096 * 4096

def headerBytes (nenv : Nat) (tm : List Byte) (counter sig nseg npois nchunk total : Nat) (srcid : Nat) (salt : List Byte) : List Byte :=
  [0x5A, 0x56, 0x43, 0x4B] ++ numW 2 1 ++ numW 2 nenv ++ num8 srcid ++ tm ++ num8 counter ++ num8 sig ++ numW 4 nseg ++ numW 4 npois
    ++ numW 4 nchunk ++ numW 4 0 ++ num8 total ++ salt ++ num8 0

/-- Cut a plaintext into chunks of 1 MiB. -/
def chunkList : Nat → List Byte → List (List Byte)
  | 0, _ => []
  | fuel + 1, l => if l = [] then [] else l.take mib :: chunkList fuel (l.drop mib)

/-- The keys of R341. -/
def sealKey (tm : List Byte) (counter srcid : Nat) (salt : List Byte) : List Byte :=
  kmac256 Config.dss.toList (tm ++ num8 counter ++ num8 srcid ++ salt) 256 (nameBytes "ZV7 checkpoint seal")
def wrapKey (ss h : List Byte) (devid : Nat) : List Byte := kmac256 ss (h ++ num8 devid) 256 (nameBytes "ZV7 checkpoint wrap")
/-- The IV of chunk j. -/
def chunkIv (j : Nat) : List Byte := numW 4 j ++ num8 0

/-- An envelope for a device: its number, CT and WRAP (R341). -/
def envelope (k h : List Byte) (devid : Nat) (ek : List Byte) (draw : Nat) : List Byte :=
  let c := kemEncaps ek (Config.salt draw).toList
  let w := gcmSeal (wrapKey c.1 h devid) (List.replicate 12 0) h k
  num8 devid ++ c.2 ++ w.1 ++ w.2

/-! Seal (R339). -/

/-- The devices an image is for, each with its encapsulation key: this one where SELF is 1, and those of the quotes. -/
def envTargets (s : State) (self : Bool) (qs : List (Nat × List Byte)) : List (Nat × List Byte) :=
  (if self then [(Config.devId.toNat, ekBytes s)] else [])
    ++ (qs.filter fun q => !(self && q.1 == 0)).map fun q => (leNat ((q.2.drop 8).take 8), (q.2.drop 120).take 1184)

/-- The cards with a context on some core, whose pre-emption is step 1. -/
def liveCards (s : State) : List Nat :=
  ((s.allCtxs.filter fun a => (s.ctx a).status != .free).filterMap fun a => (s.ctx a).card).dedup

/-- The saved cards stay saved where HALT is 1; else they may resume, those of an earlier seal with HALT as well (R337, R339 step 7). -/
def holdSaved (s : State) (halt : Bool) : State := { s with areas := s.areas.map fun x => { x with held := halt } }

/-- Steps 3 to 6 of a seal with valid quotes. A write of the safe tier that fails ends it with CODE 0x09 before the commit: the slot's CTR
and every peer's record stand (R339, R344). -/
def sealImage (s : State) (d : List Dword) (slot : Nat) (t : Tenant) (targets : List (Nat × List Byte)) (self : Bool) : State :=
  let halt := bitOf (d.getD 2 0).toNat 7
  let s := writeSaves s
  let segs := memorySegs s
  let dev := deviceBytes s
  let rows := segs.map (fun g => (g.kind, g.id, g.off, g.len)) ++ [(5, 0, 0, dev.length)]
  let pois := segPoison s segs
  let plain := segs.flatMap (fun g => chunkList (chunksOf g.len) (segBytes s g)) ++ chunkList (chunksOf dev.length) dev
  let bytes := (plain.map List.length).sum
  let nenv := targets.length
  let head := headBytes nenv rows.length pois.length plain.length
  let total := head + bytes
  if (d.getD 1 0).toNat < total then ckptEnd (holdSaved s halt) 0x08
  else
    let counter := t.ctr.toNat + 1
    let salt := (Config.salt s.free).toList
    let header := headerBytes nenv t.tm counter (defectSig s).toNat rows.length pois.length plain.length total Config.devId.toNat salt
    let table := segTable 0 rows
    let ptab := pois.flatMap fun l => num8 (l * 64)
    let h := sha3 (header ++ table ++ ptab)
    let k := sealKey t.tm counter Config.devId.toNat salt
    let envs := (targets.zipIdx).flatMap fun x => envelope k h x.1.1 x.1.2 (s.free + 1 + x.2)
    let boxes := (plain.zipIdx).map fun x => gcmSeal k (chunkIv x.2) h x.1
    let front := header ++ envs ++ table ++ ptab ++ boxes.flatMap Prod.snd
    let image := front ++ List.replicate (head - front.length) 0 ++ boxes.flatMap Prod.fst
    let base := bits (d.getD 0 0).toNat 52 12 * 2 ^ 52 + bits (d.getD 0 0).toNat 0 52
    let signed := t.tm ++ num8 counter ++ h ++ num8 Config.devId.toNat
    let msg := signed ++ (Config.dsaSign signed).toList ++ Config.akPub.toList ++ akCert
    let sent := (targets.drop (if self then 1 else 0)).map fun x => Out.commit x.1 msg
    let acks := if self then 16 else 0
    let need := (2 ^ nenv - 1) * 16 - acks
    let s := (segs.filter fun g => g.kind == 1).foldl (fun (s : State) g => s.bumpDie g.id 0x41 g.len) s
    match Config.tierStop s.free with
    | some n =>
      let s : State := { s with free := s.free + 1 + nenv, tier := Memory.putBytes s.tier base (image.take n) }
      ckptEnd (holdSaved (s.addDev fun x => { x with ckptProg := BitVec.ofNat 64 (min bytes (n - head)) }) halt) 0x09
    | none =>
    let s : State := { s with
      free := s.free + 1 + nenv, tier := Memory.putBytes s.tier base image, out := s.out ++ sent }
    let s := setCtr s slot (BitVec.ofNat 64 counter)
    let s := (holdSaved s halt).addDev fun x => { x with
      ckptProg := BitVec.ofNat 64 bytes, ckptNeed := need, ckptStat := BitVec.ofNat 64 (x.ckptStat.toNat + acks) }
    if need = 0 then ckptEnd s 0 else s

/-- R339: Seal operation pre-empts, checks quotes, streams and commits an encrypted image. It goes on from step 1 as cores
fall free. -/
def execCkptSeal (s : State) : Host.Outcome State Fault Refusal :=
  if !running s 1 then .next s
  else if liveCards s ≠ [] then .next ((liveCards s).foldl (fun s n => s.due (.preemption n)) s)
  else match ckptDesc s with
    | none => .next (ckptEnd (holdSaved s false) 0x01)
    | some d =>
      let self := bitOf (d.getD 2 0).toNat 8
      let slot := bits (d.getD 2 0).toNat 0 6
      let halt := bitOf (d.getD 2 0).toNat 7
      let asked := (List.range 4).filter fun i => d.getD (3 + i) 0 != 0 && !(self && i == 0)
      let fail (code : Nat) : Host.Outcome State Fault Refusal := .next (ckptEnd (holdSaved s halt) code)
      match (if descOk 1 d && (self || asked != []) then slotOf s slot else none), ckptRead s (d.getD 7 0) 32,
          asked.mapM (fun i => (ckptRead s (d.getD (3 + i) 0) 7456).map fun q => (i, q)) with
      | some t, some nonce, some qs =>
        if t.ctr = 0xFFFFFFFFFFFFFFFF then fail 0x07
        else match (qs.map fun q => quoteCode t nonce q.2).find? (· != 0) with
          | some code => fail code
          | none => .next (sealImage s d slot t (envTargets s self qs) self)
      | _, _, _ => fail 0x01

/-! The commit (R343). -/

/-- R343: A peer receives a signed commit, verifies it, records the counter and acknowledges; without a slot for TM it does neither. -/
def execCkptCommitMessage (tm : List Byte) (counter : Dword) (signed sig akpub akcert : List Byte) (s : State) :
    Host.Outcome State Fault Refusal :=
  let srcid := (signed.drop 72).take 8
  match slotWith s tm with
  | none => .next s
  | some n =>
    if signed.length = 80 && signed.take 40 == tm ++ num8 counter.toNat && sigOk Config.vendorRoot.toList (srcid ++ akpub) akcert
        && sigOk akpub signed sig then
      let old := (SMap.read Tenant.none s.dev.tenants n).ctr
      let s := setCtr s n (if old.toNat < counter.toNat then counter else old)
      .next { s with out := s.out ++ [.acknowledge (leNat srcid) counter.toNat] }
    else .next s

/-- R343: A peer's acknowledgement of a seal commit arrives; once every one has come, DONE is set with CODE 0x00. -/
def execCommitAcknowledgement (env : Nat) (s : State) : Host.Outcome State Fault Refusal :=
  let bit := 2 ^ (4 + env)
  if env < 4 ∧ bitOf s.dev.ckptNeed (4 + env) then
    let s := s.addDev fun d => { d with ckptNeed := d.ckptNeed - bit, ckptStat := BitVec.ofNat 64 (d.ckptStat.toNat + bit) }
    .next (if s.dev.ckptNeed = 0 then ckptEnd s 0 else s)
  else .next s

/-- R343: Missing commit acknowledgements after 1 s end the seal with CODE 0x13. -/
def execCkptAckTimeout (s : State) : Host.Outcome State Fault Refusal :=
  .next (if s.dev.ckptNeed ≠ 0 then ckptEnd s 0x13 else s)

/-! Restore (R344). -/

/-- A row of the segment table as read. -/
structure Row where
  kind : Nat
  id : Nat
  off : Nat
  len : Nat
  first : Nat
  zero : Bool
  deriving DecidableEq, Repr

def rowAt (s : State) (l : Nat) : Row :=
  let n (o w : Nat) := leNat (Memory.getBytes s.tier (l + o) w)
  ⟨n 0 1, n 4 4, n 8 8, n 16 8, n 24 4, n 1 3 == 0 && n 28 4 == 0⟩

/-- Whether rows are a good table: known units, lengths within them, and chunks in order from a number on. -/
def rowsOk (dev : Nat) : Nat → List Row → Bool
  | _, [] => true
  | first, r :: t =>
    r.zero && r.first == first && r.len != 0 &&
      (if r.kind = 5 then r.id == 0 && r.off == 0 && r.len == dev
       else match unitOf r.kind r.id with | some u => decide (r.off + r.len ≤ u.2) | none => false)
      && rowsOk dev (first + chunksOf r.len) t

/-- The first location of a row's bytes. -/
def Row.loc (r : Row) : Nat := match unitOf r.kind r.id with | some u => u.1 + r.off | none => 0

/-- Whether a row names a core, cluster or block that is fenced, lost or retired here. -/
def rowGone (s : State) (r : Row) : Bool :=
  match r.kind with
  | 5 => false
  | 3 => clusterLost s r.id || (retiredAt s).any fun x => r.loc < x + 4096 && x < r.loc + r.len
  | 4 => coreLost s ⟨kindOfLayer (bits r.id 30 2), bits r.id 0 13⟩ || (retiredAt s).any fun x => r.loc < x + 4096 && x < r.loc + r.len
  | _ => (retiredAt s).any fun x => r.loc < x + 4096 && x < r.loc + r.len

/-- The lengths of the chunks of a segment. -/
def chunkLens (n : Nat) : List Nat := (List.range (chunksOf n)).map fun i => min mib (n - i * mib)

/-- Decrypt chunks in order: their plaintexts, and whether every tag held. -/
def openChunks (s : State) (k h : List Byte) (tags : Nat) : Nat → Nat → List Nat → List (List Byte) × Bool
  | _, _, [] => ([], true)
  | j, at', n :: t =>
    match gcmOpen k (chunkIv j) h (Memory.getBytes s.tier at' n) (Memory.getBytes s.tier (tags + 16 * j) 16) with
    | none => ([], false)
    | some x => let r := openChunks s k h tags (j + 1) (at' + n) t; (x :: r.1, r.2)

/-- Wake a gated cluster at once (R357). -/
def wakeNow (s : State) (cl : Nat) : State :=
  match (s.cluster cl).gate with
  | .on => s
  | .railStopping | .railOff | .waking =>
    let s := (s.cluster cl).retained.foldl (fun (s : State) x =>
      zeroRange (s.setCore x.1 (retainedCore (s.core x.1) x.2 (x.1.kind == .service))) (tcmLoc x.1 0) (tcmLoc x.1 0 + 2 ^ 32)) s
    clusterOn (zeroRange s (spLoc cl 0) (spLoc cl 0 + 2 ^ 32)) cl
  | _ => clusterOn s cl

/-- The clusters that rows name. -/
def rowClusters (rs : List Row) : List Nat :=
  (rs.filterMap fun r => match r.kind with
    | 3 => some r.id
    | 4 => if bits r.id 30 2 = 0 then some (bits r.id 0 13 / 16) else none
    | _ => none).dedup

/-- Write bytes back to a unit: a line written whole loses its poison. -/
def writeBack' (s : State) (loc : Nat) (l : List Byte) : State :=
  let hit (x : Nat) : Bool := loc ≤ x * 64 && x * 64 + 64 ≤ loc + l.length
  { s with mem := Memory.putBytes s.mem loc l, poison := s.poison.filter fun x => !hit x }

/-- The saved cards that the pool holds come back; their watchdogs count from their resumption (R339, R344). -/
def takeSaves (s : State) : State :=
  match readSaves s with
  | none => s
  | some v => { s with
      areas := v.areas.map fun x => { x with held := false, timeless := true }
      cards := v.cards, doms := v.doms, gangs := v.gangs, queues := v.queues
      nextCard := max s.nextCard ((v.cards.map (·.1)).foldl max 0 + 1) }

/-- A restore that fails once it may have written: the memories of its segments are undefined, and the lines it wrote poisoned. -/
def spoil (s : State) (rs : List Row) (written : Nat) : State :=
  let ls := (rs.filter fun r => r.kind != 5).flatMap fun r => (List.range r.len).map (r.loc + ·)
  let s : State := { s with
    mem := (ls.zipIdx).foldl (fun (m : Memory) x => Memory.setByte m x.1 (Config.freeByte (s.free + x.2))) s.mem, free := s.free + ls.length }
  s.poisonLines (ls.take written)

/-- Bytes of an image that are read before its ciphertext: its header, and where that is good its envelopes and tables (R342). -/
def frontBytes (s : State) (base : Nat) : Nat :=
  let n (o w : Nat) : Nat := leNat (Memory.getBytes s.tier (base + o) w)
  let good := Memory.getBytes s.tier base 4 == [0x5A, 0x56, 0x43, 0x4B] && n 4 2 == 1 && 1 ≤ n 6 2 && n 6 2 ≤ 4 && n 76 4 == 0 && n 120 8 == 0
  if good then 128 + 1144 * n 6 2 + 32 * n 64 4 + 8 * n 68 4 + 16 * n 72 4 else 128

/-- The image a restore names, where its header and tables are good: header, digest H, tenant's measurement, counter, DEFSIG,
NENV, rows, poisoned lines, and where its tags and its ciphertext stand. -/
structure ImageHead where
  h : List Byte
  tm : List Byte
  counter : Nat
  srcid : Nat
  sig : Nat
  nenv : Nat
  rows : List Row
  pois : List Nat
  tags : Nat
  body : Nat
  deriving DecidableEq, Repr

/-- The bytes of ciphertext that a restore reads which opens n chunks: theirs, and those of the one after them, whose tag fails. -/
def bytesRead (i : ImageHead) (n : Nat) : Nat := ((i.rows.flatMap fun r => chunkLens r.len).take (n + 1)).sum

def readHead (s : State) (base : Nat) : Option ImageHead :=
  let g (o n : Nat) : List Byte := Memory.getBytes s.tier (base + o) n
  let n (o w : Nat) : Nat := leNat (g o w)
  let nenv := n 6 2
  let nseg := n 64 4
  let npois := n 68 4
  let nchunk := n 72 4
  let segs := 128 + 1144 * nenv
  let pts := segs + 32 * nseg
  let rows := (List.range nseg).map fun i => rowAt s (base + segs + 32 * i)
  let pois := (List.range npois).map fun i => n (pts + 8 * i) 8
  let head := headBytes nenv nseg npois nchunk
  let covered (l : Nat) : Bool := l % 64 == 0 && rows.any fun r => r.kind != 5 && r.loc ≤ l && decide (l + 64 ≤ r.loc + r.len)
  if g 0 4 != [0x5A, 0x56, 0x43, 0x4B] || n 4 2 != 1 || nenv < 1 || 4 < nenv || n 76 4 != 0 || n 120 8 != 0
      || !rowsOk (deviceBytes s).length 0 rows || nchunk != (rows.map fun r => chunksOf r.len).sum
      || n 80 8 != head + (rows.map Row.len).sum || !pois.all covered then none
  else some {
    h := sha3 (g 0 128 ++ g segs (32 * nseg) ++ g pts (8 * npois)), tm := g 16 32, counter := n 48 8, srcid := n 8 8, sig := n 56 8
    nenv := nenv, rows := rows, pois := pois.map (· / 64), tags := base + pts + 8 * npois, body := base + head }

/-- The key K, from the first envelope of this device that opens. -/
def openEnvelope (s : State) (base : Nat) (i : ImageHead) : Option (List Byte) :=
  (List.range i.nenv).findSome? fun e =>
    let x := Memory.getBytes s.tier (base + 128 + 1144 * e) 1144
    if leNat (x.take 8) ≠ Config.devId.toNat then none
    else
      let ss := kemDecaps (kemSeed s) ((x.drop 8).take 1088)
      gcmOpen (wrapKey ss i.h Config.devId.toNat) (List.replicate 12 0) i.h ((x.drop 1096).take 32) ((x.drop 1128).take 16)

/-- Write every segment back: memories, the saved cards that they carry, and the device's own state. -/
def putSegments (s : State) (rows : List Row) (plain : List (List Byte)) : State :=
  let data (r : Row) : List Byte := ((plain.drop r.first).take (chunksOf r.len)).flatten
  let s := (rows.filter fun r => r.kind != 5).foldl (fun s r => writeBack' (if r.kind = 1 then s.bumpDie r.id 0x42 r.len else s) r.loc (data r)) s
  (rows.filter fun r => r.kind == 5).foldl (fun s r => putDevice s (data r)) (takeSaves s)

/-- R344: Restore operation opens, checks and writes back a sealed image. -/
def execCkptRestore (s : State) : Host.Outcome State Fault Refusal :=
  if !running s 2 then .next s
  else match ckptDesc s, Config.tierStop s.free with
    | none, _ => .next (ckptEnd s 0x01)
    | some d, stop =>
      let s : State := { s with free := s.free + 1 }
      let base := bits (d.getD 0 0).toNat 52 12 * 2 ^ 52 + bits (d.getD 0 0).toNat 0 52
      if !descOk 2 d then .next (ckptEnd s 0x01)
      else if liveCards s ≠ [] ∨ s.areas ≠ [] then .next (ckptEnd s 0x11)
      else if stop.any (decide <| · < frontBytes s base) then .next (ckptEnd s 0x09)
      else match readHead s base with
        | none => .next (ckptEnd s 0x0A)
        | some i =>
          match openEnvelope s base i, slotWith s i.tm with
          | none, _ => .next (ckptEnd s 0x0B)
          | some _, none => .next (ckptEnd s 0x0C)
          | some k, some slot =>
            let r := (SMap.read Tenant.none s.dev.tenants slot).ctr.toNat
            if i.counter < r then .next (ckptEnd s 0x0D)
            else if r < i.counter then .next (ckptEnd s 0x0E)
            else if i.rows.any (rowGone s) then .next (ckptEnd s 0x10)
            else
              let s := (rowClusters i.rows).foldl wakeNow s
              let x := openChunks s k i.h i.tags 0 i.body (i.rows.flatMap fun r => chunkLens r.len)
              let done := (x.1.map List.length).sum
              let stop := stop.filter fun n => i.body - base ≤ n && n < i.body - base + bytesRead i x.1.length
              let s := s.addDev fun y => { y with
                ckptProg := BitVec.ofNat 64 (match stop with | some n => min done (n - (i.body - base)) | none => done) }
              match stop with
              | some n => .next (ckptEnd (spoil s i.rows (min done (n - (i.body - base)))) 0x09)
              | none =>
              if !x.2 then .next (ckptEnd (spoil s i.rows done) 0x0F)
              else
                let s := putSegments s i.rows x.1
                let s : State := { s with poison := (s.poison ++ i.pois).dedup }
                let s := if i.sig = (defectSig s).toNat then s else s.due .variantReselection
                .next (restartDealing (ckptEnd s 0))

end Sys2Proof.Machine
end

