-- ==== Sys2Proof/Machine/Firmware.lean ====
section
/-! DEFINITION. The actions of firmware on a context through CTX.ACT (R315, R316). -/

namespace Sys2Proof.Machine

/-- The target of a CTX.ACT write (R315). -/
def actTarget (t : W32) : CtxId := ⟨coreAt (bits t.toNat 30 2) (bits t.toNat 12 4) (bits t.toNat 20 10), bits t.toNat 16 4⟩

/-- The members of a fused gang stand where the one that runs on does; one at a link form completes it first (R92, R254). -/
def syncGang (s : State) (a : CtxId) : State :=
  if (s.ctx a).link.isSome then s
  else (s.lockstep a).foldl (fun s m =>
    if m == a || (s.ctx m).link.isSome then s else s.modCtx m fun c => { c with r := { c.r with pc := (s.ctx a).r.pc } }) s

/-- A stopped context runs on at an address; members that stopped with it for its error run with it, and link forms of a fused gang whose
offers were withdrawn are offered again (R92, R254, R330). -/
def runOn (s : State) (a : CtxId) (g : RegState → RegState) : State :=
  let s := (s.modCtx a fun c => let r := g c.r; { c with r := r, chunk := { Chunk.empty with ckpt := r } }).wake a
  let ms := match (s.ctx a).gang with | some g => (s.gangOf g).members | none => []
  let s := ms.foldl (fun (s : State) m =>
    if m ≠ a ∧ (s.ctx m).status = .stopped ∧ (s.ctx m).r.code = 0x1A ∧ (s.ctx m).r.info.toNat = (s.ctx a).gpos then s.wake m else s) s
  (s.lockstep a).foldl reoffer (syncGang s a)

/-- 1 RESUME: a context stopped by a precise trap, its message in the mailbox, continues at TRAP.EPC. -/
def actResume (s : State) (a : CtxId) : Nat × State :=
  let c := s.ctx a
  if c.status ≠ .stopped ∨ c.msgDue ∨ ctxHeld s a ∨ c.r.code = 0x02 ∨ c.r.code = 0x18 ∨ c.r.code = 0x1A then (1, s)
  else (0, runOn s a fun r => { r with pc := r.epc })

/-- 2 DELIVER: a stopped context, its message in the mailbox, enters its software-trap handler; the FAULT registers and EPC are kept. It
leaves a link form at which it stopped. -/
def actDeliver (s : State) (a : CtxId) : Nat × State :=
  let c := s.ctx a
  if c.status ≠ .stopped ∨ c.msgDue ∨ ctxHeld s a then (1, s)
  else if c.r.tvec = 0 ∨ c.r.active then (3, s)
  else (0, runOn (s.modCtx a fun c => { c with link := none }) a fun r => { r with active := true, pc := r.tvec })

/-- Whether a context of a card is live: neither free nor ended. -/
def actLive (s : State) (a : CtxId) : Option Nat :=
  if (s.ctx a).status = .free ∨ (s.ctx a).status = .ended then none else (s.ctx a).card

/-- 3 KILL: the card ends as at LIM2, with STATUS 0x25, or 0x24 where the context consumed an uncorrectable error in a card that
cannot roll back (R317). -/
def actKill (s : State) (a : CtxId) : Nat × State :=
  match actLive s a with
  | none => (1, s)
  | some n =>
    if (s.card n).killed ∨ (s.card n).done then (1, s)
    else (0, killCard s n (if (s.ctx a).status = .stopped && (s.ctx a).r.code == 0x17 && !s.phased a then 0x24 else 0x25))

/-- 4 UNPARK: every context of a parked core but the one that met the reserved code goes on. -/
def actUnpark (s : State) (a : CtxId) : Nat × State :=
  if (s.core a.core).parked.isNone then (1, s) else (0, s.modCore a.core fun c => { c with parked := none })

/-- 5 ROLLBACK: the context's domain rolls back, unless the card's last context has ended (R369). -/
def actRollback (s : State) (a : CtxId) : Nat × State :=
  match (s.ctx a).card with
  | none => (1, s)
  | some n =>
    if (s.ctx a).status = .free then (1, s)
    else if !s.phased a then (3, s)
    else if (s.dom (s.ctx a).dom).saved = [] ∨ !watched s n then (1, s)
    else (0, rollbackSet s (closure s s.doms.length [(s.ctx a).dom]) [])

/-- 6 PREEMPT: the context's card is pre-empted. -/
def actPreempt (s : State) (a : CtxId) : Nat × State :=
  match actLive s a with | none => (1, s) | some n => (0, requestPreempt s n)

/-- A write of CTX.ACT by a firmware core: its checks, its action, and its RESULT (R315). -/
def ctxAct (s : State) (fw : CoreId) (act : Nat) (target : W32) : State :=
  let t := target.toNat
  let a := actTarget target
  let r : Nat × State :=
    if bits t 0 12 ≠ 0 ∨ 8 < bits t 12 4 ∨ act = 0 ∨ 6 < act then (3, s)
    else if !targetExists t (bits t 12 4) a.core || !serves fw a.core then (2, s)
    else match act with
      | 1 => actResume s a | 2 => actDeliver s a | 3 => actKill s a | 4 => actUnpark s a | 5 => actRollback s a | _ => actPreempt s a
  r.2.modCore fw fun c => { c with ctxRes := BitVec.ofNat 2 r.1 }

/-- R316: A trapped context continues at TRAP.EPC. -/
def execCtxResume (firmware : CoreId) (target : W32) (s : State) : Host.Outcome State Fault Refusal := .next (ctxAct s firmware 1 target)

/-- R316: A stopped context enters its software-trap handler. -/
def execCtxDeliver (firmware : CoreId) (target : W32) (s : State) : Host.Outcome State Fault Refusal := .next (ctxAct s firmware 2 target)

/-- R316: A context's card ends with STATUS 0x25. -/
def execCtxKill (firmware : CoreId) (target : W32) (s : State) : Host.Outcome State Fault Refusal := .next (ctxAct s firmware 3 target)

/-- R316: A parked core's contexts except the offender become ready. -/
def execCtxUnpark (firmware : CoreId) (target : W32) (s : State) : Host.Outcome State Fault Refusal := .next (ctxAct s firmware 4 target)

/-- R316: Firmware rolls back a context's domain. -/
def execCtxRollback (firmware : CoreId) (target : W32) (s : State) : Host.Outcome State Fault Refusal := .next (ctxAct s firmware 5 target)

/-- R316: Firmware pre-empts a context's card. -/
def execCtxPreempt (firmware : CoreId) (target : W32) (s : State) : Host.Outcome State Fault Refusal := .next (ctxAct s firmware 6 target)

end Sys2Proof.Machine
end

