-- ==== Sys2Proof/Machine/FormRows.lean ====
section
/-! DEFINITION. The operand form of each opcode, in the order of the opcode map (R51 to R58). -/

namespace Sys2Proof

def formPage0a (f : Fields) : List (Nat × Form) := [
  (0x00, Forms.aluFmt),
  (0x01, Forms.aluFmt),
  (0x02, Forms.alu),
  (0x03, Forms.alu),
  (0x04, Forms.alu),
  (0x05, Forms.alu),
  (0x06, Forms.alu),
  (0x07, Forms.alu),
  (0x08, Forms.alu),
  (0x09, Forms.aluFmt),
  (0x0A, Forms.alu),
  (0x0B, Forms.alu),
  (0x0C, Forms.alu),
  (0x0D, Forms.alu),
  (0x0E, Forms.alu),
  (0x0F, Forms.alu),
  (0x10, Forms.alu),
  (0x11, Forms.alu),
  (0x12, Forms.alu),
  (0x13, Forms.alu),
  (0x14, Forms.aluImmFmt),
  (0x15, Forms.aluImm),
  (0x16, Forms.aluImm),
  (0x17, Forms.aluImm)]
def formPage0b (f : Fields) : List (Nat × Form) := [
  (0x18, Forms.shiftImm),
  (0x19, Forms.shiftImm),
  (0x1A, Forms.shiftImm),
  (0x1B, Forms.aluImmFmt),
  (0x1C, Forms.unary),
  (0x1D, Forms.moviF),
  (0x1E, Forms.movhiF),
  (0x1F, Forms.leaF),
  (0x20, Forms.selF),
  (0x21, Forms.shiftImm),
  (0x22, Forms.shiftImm),
  (0x23, Forms.field),
  (0x24, Forms.field),
  (0x25, Forms.field),
  (0x26, Forms.unary),
  (0x27, Forms.unary),
  (0x28, Forms.unary),
  (0x29, Forms.cmp),
  (0x2A, Forms.cmp),
  (0x2B, Forms.cmp),
  (0x2C, Forms.cmp),
  (0x2D, Forms.cmp),
  (0x2E, Forms.cmp),
  (0x2F, Forms.cmp)]
def formPage0c (f : Fields) : List (Nat × Form) := [
  (0x30, Forms.pred2),
  (0x31, Forms.pred2),
  (0x32, Forms.pred2),
  (0x33, Forms.pred2),
  (0x34, Forms.pred1),
  (0x35, Forms.pred0),
  (0x36, Forms.pred0),
  (0x37, Forms.pred1),
  (0x38, Forms.branch),
  (0x39, Forms.jump),
  (0x3A, Forms.branch),
  (0x3B, Forms.jump),
  (0x3C, Forms.bare),
  (0x3D, Forms.enterF),
  (0x3E, Forms.bare),
  (0x3F, Forms.loopF),
  (0x40, Forms.branchOn),
  (0x41, Forms.branchOn),
  (0x42, Forms.jump),
  (0x43, Forms.bare),
  (0x44, Forms.bare),
  (0x48, Forms.fop2),
  (0x49, Forms.fop2),
  (0x4A, Forms.fop2)]
def formPage0d (f : Fields) : List (Nat × Form) := [
  (0x4B, Forms.fop2),
  (0x4C, Forms.fop1),
  (0x4D, Forms.fmaF),
  (0x4E, Forms.fop2n),
  (0x4F, Forms.fop2n),
  (0x50, Forms.fsign),
  (0x51, Forms.fsign),
  (0x52, Forms.fop2n),
  (0x53, Forms.fcmp),
  (0x54, Forms.fcmp),
  (0x55, Forms.fcmp),
  (0x56, Forms.fclassF),
  (0x57, Forms.fmovF),
  (0x58, Forms.fcvtF),
  (0x59, Forms.fcvtiF),
  (0x5A, Forms.icvtfF),
  (0x5B, Forms.fmvfsF),
  (0x5C, Forms.fmvsfF),
  (0x5D, Forms.fselF),
  (0x5E, Forms.fop1)]
/-- Page 0 of the opcode map. -/
def formPage0 (f : Fields) : List (Nat × Form) := formPage0a f ++ formPage0b f ++ formPage0c f ++ formPage0d f

def formPage1a (f : Fields) : List (Nat × Form) := [
  (0x00, Forms.vint2s),
  (0x01, Forms.vint2s),
  (0x02, Forms.vint2s),
  (0x03, Forms.vint2),
  (0x04, Forms.vint2),
  (0x05, Forms.vint2),
  (0x06, Forms.vint1),
  (0x07, Forms.vint1),
  (0x08, Forms.vbit2),
  (0x09, Forms.vbit2),
  (0x0A, Forms.vbit2),
  (0x0B, Forms.vbit2),
  (0x0C, Forms.vint2),
  (0x0D, Forms.vint2),
  (0x0E, Forms.vint2),
  (0x0F, Forms.vbit1),
  (0x10, Forms.vflt2),
  (0x11, Forms.vflt2),
  (0x12, Forms.vflt2),
  (0x13, Forms.vflt2),
  (0x14, Forms.vflt3),
  (0x15, Forms.vflt3),
  (0x16, Forms.vflt2n),
  (0x17, Forms.vflt2n)]
def formPage1b (f : Fields) : List (Nat × Form) := [
  (0x18, Forms.vflt1n),
  (0x19, Forms.vflt1n),
  (0x1A, Forms.vflt1),
  (0x1B, Forms.vflt1),
  (0x1C, Forms.vflt1),
  (0x1D, Forms.vtrans),
  (0x1E, Forms.vtrans),
  (0x1F, Forms.vselF),
  (0x20, Forms.vcmp),
  (0x21, Forms.vcmp),
  (0x22, Forms.vcmp),
  (0x23, Forms.vfcmp),
  (0x24, Forms.vfcmp),
  (0x25, Forms.vfcmp),
  (0x26, Forms.vredS),
  (0x27, Forms.vredM),
  (0x28, Forms.vredM),
  (0x29, Forms.vfredS),
  (0x2A, Forms.vfredM),
  (0x2B, Forms.vfredM),
  (0x2C, Forms.vbit2),
  (0x2D, Forms.vslideF),
  (0x2E, Forms.vzipF),
  (0x2F, Forms.vzipF)]
def formPage1c (f : Fields) : List (Nat × Form) := [
  (0x30, Forms.vbit1),
  (0x31, (Forms.vsplatF f)),
  (0x32, (Forms.vextF f)),
  (0x33, (Forms.vinsF f))]
/-- Page 1 of the opcode map. -/
def formPage1 (f : Fields) : List (Nat × Form) := formPage1a f ++ formPage1b f ++ formPage1c f

def formPage2a (f : Fields) : List (Nat × Form) := [
  (0x00, Forms.pushF),
  (0x01, Forms.popF),
  (0x02, Forms.popqF),
  (0x03, Forms.engstF),
  (0x04, Forms.engabortF),
  (0x05, Forms.slotldF),
  (0x06, Forms.rowprogF),
  (0x07, Forms.cbloadF),
  (0x08, Forms.build),
  (0x09, Forms.build),
  (0x0A, Forms.build),
  (0x0B, Forms.build),
  (0x0C, Forms.build),
  (0x0D, Forms.cmdsetF),
  (0x0E, Forms.cmdvcF),
  (0x0F, Forms.cmdadrF),
  (0x10, Forms.mtmem),
  (0x11, Forms.mtmem),
  (0x12, (Forms.mtmmaF f)),
  (0x13, Forms.mtzeroF),
  (0x14, (Forms.mtaddF f)),
  (0x15, (if f.aux.toNat = 1 then Forms.mtmovInF else if f.aux.toNat = 2 then Forms.mtmovOutF else Forms.mtmovF)),
  (0x16, Forms.mtcvtF),
  (0x17, (Forms.mtredF f))]
/-- Page 2 of the opcode map. -/
def formPage2 (f : Fields) : List (Nat × Form) := formPage2a f

def formPage4a (f : Fields) : List (Nat × Form) := [
  (0x00, Forms.ld),
  (0x01, Forms.ld),
  (0x02, Forms.ld),
  (0x03, Forms.ld),
  (0x04, Forms.ld),
  (0x05, Forms.ld),
  (0x06, Forms.ld),
  (0x07, Forms.ldfF),
  (0x08, Forms.st),
  (0x09, Forms.st),
  (0x0A, Forms.st),
  (0x0B, Forms.st),
  (0x0C, Forms.stfF),
  (0x0D, Forms.vldF),
  (0x0E, Forms.vstF),
  (0x0F, Forms.vldsF),
  (0x10, Forms.vstsF),
  (0x11, Forms.pfF),
  (0x12, Forms.pfF),
  (0x13, Forms.qldF),
  (0x14, Forms.qstF),
  (0x15, Forms.qvldF),
  (0x16, Forms.chunkEndF),
  (0x17, Forms.fenceF)]
def formPage4b (f : Fields) : List (Nat × Form) := [
  (0x18, (Forms.amo [0, 11, 12] [0, 1] f)),
  (0x19, (Forms.amo [0, 11, 12] [0] f)),
  (0x1A, (Forms.amo [0, 11, 12] [0] f)),
  (0x1B, (Forms.amo [0, 11, 12] [0] f)),
  (0x1C, (Forms.amo [0, 11] [0] f)),
  (0x1D, (Forms.amo [0, 11] [0] f)),
  (0x1E, (Forms.amo [0, 12] [0] f)),
  (0x1F, (Forms.amo [0, 12] [0] f)),
  (0x20, (Forms.amo [0, 11, 12] [0] f)),
  (0x21, (Forms.amo [0, 11, 12] [0] f))]
/-- Page 4 of the opcode map. -/
def formPage4 (f : Fields) : List (Nat × Form) := formPage4a f ++ formPage4b f

def formPage5a (f : Fields) : List (Nat × Form) := [
  (0x00, Forms.markF),
  (0x01, Forms.cutF),
  (0x02, Forms.graftF),
  (0x03, Forms.slfreeF),
  (0x04, Forms.slinfoF),
  (0x05, Forms.unmarkF),
  (0x08, Forms.barF),
  (0x09, Forms.voteF),
  (0x0A, Forms.voteF),
  (0x0B, Forms.voteSumF),
  (0x0C, Forms.waitF),
  (0x0D, Forms.arriveF),
  (0x0E, Forms.trigF),
  (0x0F, Forms.ttselF),
  (0x10, Forms.ttldF),
  (0x11, Forms.ttgoF),
  (0x12, Forms.ttstF),
  (0x13, Forms.cclrF),
  (0x14, Forms.splitF),
  (0x15, Forms.fuseF),
  (0x18, Forms.trapF),
  (0x19, Forms.rteF),
  (0x1A, Forms.csrrF),
  (0x1B, Forms.csrwF)]
def formPage5b (f : Fields) : List (Nat × Form) := [
  (0x1C, Forms.csrsF),
  (0x1D, Forms.csrsF),
  (0x1E, Forms.tlbwF),
  (0x1F, Forms.tlbinvF),
  (0x20, Forms.startF),
  (0x21, Forms.joinF),
  (0x22, Forms.parkF),
  (0x23, Forms.jenqF),
  (0x24, Forms.workqF),
  (0x25, Forms.trapF)]
/-- Page 5 of the opcode map. -/
def formPage5 (f : Fields) : List (Nat × Form) := formPage5a f ++ formPage5b f

def formPage6a (f : Fields) : List (Nat × Form) := [
  (0x00, (if f.aux.toNat % 4 = 0 then Forms.restrPutF else Forms.restrCollectF)),
  (0x01, (if f.aux.toNat % 4 = 0 then Forms.prolgAddF else Forms.prolgPutF)),
  (0x02, Forms.restrfF),
  (0x03, Forms.prolgfF),
  (0x04, Forms.wldF),
  (0x05, Forms.wldF),
  (0x06, Forms.wselF),
  (0x07, Forms.layqF)]
/-- Page 6 of the opcode map. -/
def formPage6 (f : Fields) : List (Nat × Form) := formPage6a f

/-- Page 3: class and pair code (R55). -/
def formPage3 (opc : Nat) (f : Fields) : Option Form :=
  let code := opc % 32
  match opc / 32 with
  | 0 => if code < 20 then some (Forms.vdotF code f) else none
  | 1 => if 20 ≤ code then some (Forms.vcvtnF code) else none
  | 2 => if 20 ≤ code then some (Forms.vcvtwF code) else none
  | 3 => if code < 20 then some (Forms.mmaF code) else none
  | _ => none

/-- The form of an opcode with its fields; none where the opcode is not allocated. -/
def formAt (page opc : Nat) (f : Fields) : Option Form :=
  match page with
  | 0 => rowAt opc (formPage0 f)
  | 1 => rowAt opc (formPage1 f)
  | 2 => rowAt opc (formPage2 f)
  | 3 => formPage3 opc f
  | 4 => rowAt opc (formPage4 f)
  | 5 => rowAt opc (formPage5 f)
  | 6 => rowAt opc (formPage6 f)
  | _ => none

/-- The form of an instruction; none for a device step, a reserved code and a malformed chain. -/
def Instr.form (i : Instr) : Option Form := i.key.bind fun k => formAt k.1 k.2.1 k.2.2

end Sys2Proof
end

