-- ==== Sys2Proof/Machine/Fetch.lean ====
section
/-! DEFINITION. Fetching a chain (R46 to R48, R125, R126), and the access half of an L0 core (R127, R128). -/

namespace Sys2Proof.Machine

/-! Fetch. -/

/-- The chain at an address: what it decodes to with `read`, or why it cannot be fetched. -/
def fetchAs {α : Type} (read : Nat → Nat → Fields → Option α) (s : State) (a : CtxId) (pc : VAddr) : Except FetchStop (Decoded α) :=
  (fetchHalves s a 5 pc).map (decodeAs read)

/-- An allocated opcode with its fields and its form. -/
def formedAt (page opc : Nat) (f : Fields) : Option (Nat × Nat × Fields × Form) := (formAt page opc f).map fun fm => (page, opc, f, fm)

/-- A chain that cannot be fetched: a miss, or a trap at the instruction's address; an uncorrectable line stops the other members of a gang,
whose domain rolls back (R48, R126, R224, R330). -/
def fetchStop (s : State) (a : CtxId) (e : FetchStop) : State :=
  let pc := (s.ctx a).r.pc
  let go (x : Issued) : State := match x with | .ran s => s | .first s => s | .waits s => s | .trapped s => s
  match e with
  | .miss va => stallMiss s a 2 va
  | .trap c i va => go (issueTrap s a ⟨c, i, va, false⟩ pc pc)
  | .poison l line =>
    if (s.ctx a).chunk.count ≠ 0 then s.modCtx a fun c => { c with chunk := { c.chunk with ended := true } }
    else
      let s := noteUncorr (gangStop (takeTrap s a ⟨0x16, 0, line, false⟩ pc pc) a) a (some l)
      if s.phased a && s.inGang a then s.due (.rollback (s.ctx a).dom) else s

/-! The instruction cache (R125, R126). Which lines are fetched ahead, and which leave a full cache, the spec leaves open: the model
fetches ahead to the whole distance when fetch comes to another line, and the oldest line leaves (log 51). -/

/-- Lines a cache holds, and how far fetch runs ahead (R125); the boot and service cores as L1 (R395, log 14). -/
def codeLines : CoreKind → Nat | .l0 => 128 | .l2 => 1024 | .l3 => 1024 | _ => 256
def aheadLines : CoreKind → Nat | .l0 => 2 | .l2 => 8 | .l3 => 8 | _ => 4

/-- Bring a line into a core's cache. -/
def fillLine (s : State) (c : CoreId) (line : Nat) : State :=
  if hasCode s c line then s
  else (s.modCore c fun k => { k with
      icache := (if k.icache.length < codeLines c.kind then k.icache else k.icache.drop 1) ++ [(line, Memory.getBytes s.mem (line * 64) 64)] }).noteHbm
    0x41 ((List.range 64).map fun i => line * 64 + i)

/-- Fetch the line of an address ahead: no miss is sent (R126, R224). -/
def fetchAhead (a : CtxId) (s : State) (va : Dword) : State :=
  if isWindow va then dropLine s a
  else match reachByte s a 0 2 false va with
    | .loc l => if hasCode s a.core (l / 64) then s else if s.poison.contains (l / 64) then dropLine s a else fillLine s a.core (l / 64)
    | .miss _ => s
    | .trap _ _ _ => dropLine s a

/-- The lines that an instruction of `n` halfwords brings into the cache, and those beyond it where fetch has come to another line. -/
def State.fetched (s : State) (a : CtxId) (pc : VAddr) (n : Nat) : State :=
  let va : Dword := pc.setWidth 64
  let lines := ((span va (2 * n)).filterMap fun v => match reachByte s a 0 2 false v with | .loc l => some (l / 64) | _ => none).dedup
  let s := lines.foldl (fun s l => fillLine s a.core l) s
  let here := va.toNat / 64
  if (s.core a.core).fetchLine = some here then s
  else
    let s := s.modCore a.core fun k => { k with fetchLine := some here }
    (List.range (aheadLines a.core.kind)).foldl (fun s i => fetchAhead a s (BitVec.ofNat 64 ((here + 1 + i) * 64))) s

/-! The access half. -/

/-- What the access half may do next: issue a load with the data it reads, drain a stq entry, send a miss, or hold a fault. -/
inductive Found where
  | load (pc : VAddr) (locs : List Nat)
  | drain (pc : VAddr)
  | miss (pc : VAddr) (store : Bool) (acc : Nat) (va : VAddr)
  | fault (pc : VAddr) (store : Bool) (code : Byte) (info : W32) (addr : Dword)
  deriving DecidableEq, Repr

/-- Where the access half stands: the address, LOOP.CNT as it will be, the scalar and predicate registers that unexecuted instructions
write (32 for the loop registers, on which a loopend waits), the bytes that unexecuted stores write, whether there is one whose bytes are not known, and the queue instructions issued
already. -/
structure Scan where
  pc : VAddr
  loop : Dword
  written : List Nat
  preds : List Nat
  stores : List Nat
  blind : Bool
  skip : List Ahead

/-- Whether an instruction that has not executed will have its effect; none where its guard is not known yet. -/
def guardAhead (r : RegState) (z : Scan) (fm : Form) (f : Fields) : Option Bool :=
  match fm.guard, f.reg with
  | .scalar, some g => if f.qpair || g.psel == 0 || !z.preds.contains g.psel.toNat then some (guardBit .l0 f r) else none
  | _, _ => some true

/-- The address of a queue instruction or a store, none where an unexecuted instruction writes its address register. -/
def addrAhead (r : RegState) (z : Scan) (f : Fields) : Option Dword :=
  if z.written.contains f.srcN || f.qpair then none else some (r.rdS f.srcN + BitVec.ofInt 64 f.immS)

/-- Where `n` bytes at an address lead: their locations, or the miss or fault there. -/
def bytesAhead (s : State) (a : CtxId) (acc n : Nat) (ea : Dword) : Except Reach (List Nat) :=
  if ea.toNat % (if n = 32 then 4 else n) ≠ 0 then .error (.trap 0x05 0 ea) else reachAll s a 0 acc true (span ea n)

/-- The width in bytes of a plain store, none for another opcode of page 4. -/
def storeWidth (opc : Nat) (f : Fields) : Option Nat :=
  match opc with | 0x08 => some 1 | 0x09 => some 2 | 0x0A => some 4 | 0x0B => some 8 | 0x0C => some (floatBytes f.fmt) | _ => none

/-- Instructions at which the scan stops: the control instructions of R105 but loopend, and those of page 5 after which the address of the
next one is not known until they execute: cut, graft, trap, rte, park and brk (R127). -/
def stopsAhead (page opc : Nat) : Bool :=
  (page == 0 && 0x38 ≤ opc && opc ≤ 0x44 && opc != 0x43 && opc != 0x3D) ||
  (page == 5 && [0x01, 0x02, 0x18, 0x19, 0x22, 0x25].contains opc)

/-- The bytes that an instruction of L0 may store to: the scalar registers that give their addresses, and the addresses; none for an
instruction that stores nothing. Where the predicate is still to be written, every element counts (R127). -/
def storesTo (e : Env) (maskKnown : Bool) (page opc : Nat) : Option (List Nat × List Dword) :=
  let src := e.f.srcN
  match page, opc with
  | 0, 0x3D => some ([30], span (e.r.rdS 30 - BitVec.ofNat 64 (16 * e.immU)) 16)
  | 4, 0x0E => some ([src], (if maskKnown then e.words else List.range (e.kind.vwidth / 32)).flatMap fun j => span (e.ea + BitVec.ofNat 64 (4 * j)) 4)
  | 4, 0x10 => some ([src, e.f.tsrcN], (if maskKnown then e.strided.map (·.2) else (List.range (e.lanes e.bw)).map fun j => e.ea + BitVec.ofNat 64 j * e.tsrcS).flatMap
      fun x => span x (e.bw / 8))
  | 5, 0x00 => some ([30], span (e.r.rdS 30 - 16) 16)
  | 5, 0x03 => some ([src], span (e.srcS + 8) 1)
  | 6, 0x01 => some ([e.f.dstN, src], span e.oldS (4 * min e.srcS.toNat 2048))
  | 6, 0x02 => some ([e.f.dstN, e.f.tsrcN], span e.oldS (4 * (8 * min e.tsrcS.toNat 2048 / (if bitOf e.f.aux.toNat 2 then 2 else 1))))
  | 6, 0x03 => some ([e.f.dstN, e.f.tsrcN], span e.oldS (32 * min e.tsrcS.toNat 2048))
  | 4, _ =>
    match storeWidth opc e.f with
    | some n => some ([src], span e.ea n)
    | none => if 0x18 ≤ opc then some ([src], span e.ea (if e.f.fmt = 0 then 8 else 4)) else none
  | _, _ => none

/-- Whether a control-register number is LOOP.CNT's or LOOP.TOP's (R106). -/
def isLoopReg (n : Nat) : Bool := n == 0x310 || n == 0x311

/-- Scalar registers that an instruction writes beside its destination: s30 by enter, mark and unmark; 32 stands for the loop registers,
which csrw, csrs and csrc may name. -/
def alsoWrites (page opc : Nat) (f : Fields) : List Nat :=
  if (page = 0 ∧ opc = 0x3D) ∨ (page = 5 ∧ (opc = 0x00 ∨ opc = 0x05)) then [30, 31]
  else if page = 5 ∧ 0x1B ≤ opc ∧ opc ≤ 0x1D ∧ isLoopReg f.immU then [32]
  else []

/-- Whether the open chunk has a write of a loop register staged. -/
def Chunk.writesLoop (c : Chunk) : Bool := c.effects.any fun x => match x with | .csr n _ _ => isLoopReg n | _ => false

/-- Scan on from an instruction in program order; at most 64 instructions (R127). -/
def scanAhead (s : State) (a : CtxId) : Nat → Scan → Option Found
  | 0, _ => none
  | fuel + 1, z =>
    let c := s.ctx a
    match fetchAs formedAt s a z.pc with
    | .ok (.instr (page, opc, f, fm) _) =>
        let next := nextPc fm f z.pc
        let skipped := match z.skip.head? with | some h => h.pc == z.pc | none => false
        if !fm.legal .l0 f || stopsAhead page opc then none
        else
          let g := guardAhead c.r z fm f
          if page = 0 ∧ opc = 0x43 then
            (match g with
             | none => none
             | some false => scanAhead s a fuel { z with pc := next }
             | some true =>
               if z.written.contains 32 then none
               else if 1 < z.loop.toNat then scanAhead s a fuel { z with pc := c.r.loopTop, loop := z.loop - 1 }
               else scanAhead s a fuel { z with pc := next, loop := 0 })
          else if page = 4 ∧ (opc = 0x13 ∨ opc = 0x15) then
            (if skipped then scanAhead s a fuel { z with pc := next, skip := z.skip.drop 1 }
             else match g, addrAhead c.r z f with
               | some false, _ => scanAhead s a fuel { z with pc := next }
               | some true, some ea =>
                 if z.skip ≠ [] ∨ z.blind ∨ 8 ≤ c.r.ldq.length + c.r.ldqDue.length + c.ahead.countP (fun h => !h.store) then none
                 else (match bytesAhead s a 0 (if opc = 0x15 then 32 else 2 ^ f.aux.toNat) ea with
                   | .ok l => if l.any fun x => z.stores.contains x then none else some (.load z.pc l)
                   | .error (.miss va) => some (.miss z.pc false 0 va)
                   | .error (.trap code i va) => some (.fault z.pc false code i va)
                   | .error (.loc _) => none)
               | _, _ => none)
          else if page = 4 ∧ opc = 0x14 then
            (match g, addrAhead c.r z f with
             | some false, _ => scanAhead s a fuel { z with pc := next }
             | some true, some ea =>
               (match bytesAhead s a 1 (2 ^ f.aux.toNat) ea with
               | .ok l =>
                 if skipped then scanAhead s a fuel { z with pc := next, skip := z.skip.drop 1, stores := z.stores ++ l }
                 else if z.skip == [] && 0 < c.stqHeld then some (.drain z.pc) else none
               | r =>
                 if skipped then scanAhead s a fuel { z with pc := next, skip := z.skip.drop 1, blind := true }
                 else if z.skip ≠ [] ∨ c.stqHeld = 0 then none
                 else match r with
                   | .error (.miss va) => some (.miss z.pc true 1 va)
                   | .error (.trap code i va) => some (.fault z.pc true code i va)
                   | _ => none)
             | _, _ => none)
          else if g = some false then scanAhead s a fuel { z with pc := next }
          else
            let z := { z with
              pc := next
              written := (if fm.dst = .s && !fm.dstRead && f.dstN != 0 then [f.dstN] else []) ++ alsoWrites page opc f ++ z.written
              preds := (if fm.dst = .p then [f.dstN] else if page = 2 ∧ opc = 0x02 then [f.tsrcN] else []) ++ z.preds }
            let known := match f.reg with | some p => !z.preds.contains p.psel.toNat | none => true
            let e : Env := ⟨a, f, fm, c.r, c.r, 0, 0⟩
            match storesTo e known page opc with
            | some (rs, l) =>
              (match (if ((e.srcQ || e.tsrcQ) && rs.contains 0) || rs.any z.written.contains then none else some (reachAll s a 0 1 true l)) with
              | some (.ok l) => scanAhead s a fuel { z with stores := z.stores ++ l }
              | _ => scanAhead s a fuel { z with blind := true })
            | none => scanAhead s a fuel z
    | _ => none

/-- Where the access half of a context starts: at the execute half, past what it has issued. No load is made ahead while another chunk's homes
are reserved and this one's are to be (R207, log 91). -/
def scanFrom (s : State) (a : CtxId) : Option Found :=
  let c := s.ctx a
  match scanAhead s a 64 ⟨c.r.pc, c.r.loopCnt, if c.chunk.writesLoop then [32] else [], [], [], false, c.ahead⟩ with
  | some (.load pc l) => if s.mustWait a then none else some (.load pc l)
  | x => x

/-- Whether the access half of a context may do something: its core is not parked by a reserved code (R50), it is its turn in its gang, no
fault of its own waits, and no miss of it is outstanding (R224). -/
def accessOpen (s : State) (a : CtxId) : Bool :=
  let c := s.ctx a
  (match c.status with | .live => true | .waiting _ => true | _ => false) && (s.core a.core).parked.isNone && !s.notTurn a
    && c.ahead.all (fun h => h.fault.isNone) && !(c.misses.any fun m => m.unit == 0)

/-- R127: The L0 access half issues a queue instruction ahead of the execute half; a load reads its data now. A miss is sent and the
context runs on; a fault is held for the execute half (R128, R224). -/
def execAccessHalfIssue (core : CoreId) (ctx : Nat) (s : State) : Host.Outcome State Fault Refusal :=
  let a : CtxId := ⟨core, ctx⟩
  let note (s : State) (h : Ahead) : State := s.modCtx a fun c => { c with ahead := c.ahead ++ [h] }
  if core.kind ≠ .l0 ∨ !accessOpen s a then .next s
  else match scanFrom s a with
    | some (.load pc l) =>
      let s := if (s.ctx a).chunk.squashes < 16 then s
        else s.modCtx a fun c => { c with chunk := { c.chunk with rlines := c.chunk.rlines ++ linesOf l } }
      .next ((note s ⟨pc, false, l, BitVec.ofNat 256 (s.see a l), none⟩).useOnce a 0)
    | some (.drain pc) => .next (note s ⟨pc, true, [], 0, none⟩)
    | some (.miss pc store acc va) => .next (sendMissBy (some (pc, store)) s a 0 acc va)
    | some (.fault pc store code i va) => .next (note s ⟨pc, store, [], 0, some (code, i, va)⟩)
    | none => .next s

/-- R128: A queue load's data lands in ldq, which holds eight entries. -/
def execLdqEntryArrival (core : CoreId) (ctx : Nat) (s : State) : Host.Outcome State Fault Refusal :=
  .next (s.modCtx ⟨core, ctx⟩ fun c =>
    if c.r.ldq.length < 8 then { c with r := { c.r with ldq := c.r.ldq ++ c.r.ldqDue.take 1, ldqDue := c.r.ldqDue.drop 1 } } else c)

end Sys2Proof.Machine
end

