-- ==== Sys2Proof/Machine/Commit.lean ====
section
/-! DEFINITION. Commits: a chunk's commit with its staged effects (R122, R207), the merge of a redundant pair's chunks (R321),
contexts that become ready (R129), and the barrier's commit and release (R259 to R261). -/

namespace Sys2Proof.Machine

/-! Ready contexts (R129). -/

/-- Whether what a context waits for holds. A miss, a rendezvous and a link form are ended by their own steps. -/
def waitReady (s : State) (a : CtxId) (w : Wait) : Bool :=
  let c := s.ctx a
  let k := s.core a.core
  match w with
  | .ldq n => n ≤ c.r.ldq.length
  | .stq => 0 < c.r.stq.length && decide (c.stqHeld < 8)
  | .counter n t => c.waitWord.isSome || decide (t ≤ (s.counter a.core n).count.toNat)
  | .helper h => let st := s.status ⟨a.core, h⟩; st == .ended || st == .free
  | .room p => hasRoom s a p
  | .element p => (c.port p).output != []
  | .spalloc => spallocResReady s a
  | .miss => false
  | .fuse => match c.gang with | some g => fuseDue s g | none => true
  | .rendezvous => false
  | .link => false
  | .ttSlot n => k.tt.running != some n
  | .ttIdle => k.tt.running.isNone
  | .weights r n => !setInUse s a.core r n
  | .shootdown => s.cores.all fun x => x.2.shoot.all fun y => y.1 != a

/-- R129: A stalled context's condition holds and it becomes ready for the pipe; a fuse completes (R93). -/
def execContextReady (core : CoreId) (ctx : Nat) (s : State) : Host.Outcome State Fault Refusal :=
  let a : CtxId := ⟨core, ctx⟩
  match (s.ctx a).status with
  | .waiting w =>
    if !waitReady s a w then .next s
    else match w, (s.ctx a).gang with
      | .fuse, some g => .next (resolveFuse s g)
      | _, _ => .next (s.wake a)
  | _ => .next s

/-! Control-register writes at commit (R122). -/

/-- A write of a control register acts. -/
def csrCommit (s : State) (a : CtxId) (n op : Nat) (v : Dword) : State :=
  let new := csrNew n op (csrValue s a n) v
  if n = 0x115 ∨ n = 0x116 ∨ n = 0x306 ∨ n = 0x641 ∨ n = 0x643 ∨ n = 0x040 then
    if op ≠ 0 then s
    else match n with
      | 0x115 => if bitOf v.toNat 0 then
          (s.modCore a.core fun c => { c with mailbox := { c.mailbox with msgs := c.mailbox.msgs.drop 1 } }).due (.mailboxHeldEntry a.core) else s
      | 0x116 => ctxAct s a.core (bits v.toNat 32 4) (v.setWidth 32)
      | 0x306 =>
        let w : W32 := v.setWidth 32
        let first := (s.ctx a).spreqs.isEmpty
        let s := s.modCtx a fun c => { c with spreqs := c.spreqs ++ [w] }
        if first then s.due (if bitOf v.toNat 31 then .spallocFree a.core a.ctx else .spallocAllocate a.core a.ctx) else s
      | 0x641 => clCtl s (bits v.toNat 0 3)
      | 0x643 => if bitOf v.toNat 0 then wakeCmd s else s
      | _ => ckptWrite s a.ctx v
  else if n = 0x305 then writeStackCfg s (csrTarget s a.core) op v
  else csrPut s a n new

/-! Staged effects at commit. -/

/-- An effect that leaves the core: the merge router compares a pair's and forwards one (R321). -/
def Effect.shared : Effect → Bool
  | .arrive _ _ => true | .trig _ => true | .jenq _ _ _ => true | .workq _ _ => true
  | .hostAmo _ _ _ _ _ _ _ => true | .hostStore _ _ => true
  | _ => false

/-- An export effect (R326). -/
def Effect.isExport : Effect → Bool
  | .trig _ => true | .jenq _ _ _ => true | .hostAmo _ _ _ _ _ _ _ => true | .hostStore _ _ => true
  | _ => false

/-- What the merge router compares of an effect: its target and payload. -/
def Effect.image : Effect → List Byte
  | .arrive n m => [1, BitVec.ofNat 8 n] ++ numW 2 m.toNat
  | .trig k => [2] ++ numW 2 k
  | .jenq q card table => [3] ++ numW 2 q ++ (card ++ table).flatMap fun w => num8 w.toNat
  | .workq x n => [4, BitVec.ofNat 8 n] ++ num8 x.toNat
  | .hostAmo l op fmt sat b cmp _ => [5, BitVec.ofNat 8 op, BitVec.ofNat 8 fmt, if sat then 1 else 0] ++ num8 l ++ num8 b.toNat ++ num8 cmp.toNat
  | .hostStore l _ => [6] ++ writeImage l
  | _ => []

/-- An arrive at its commit; in a pair, one that names the primary's own core also counts on the shadow's (R218, R321). -/
def arriveBoth (s : State) (a : CtxId) (n : Nat) (m : BitVec 16) : State :=
  let s := arriveCommit s a n m
  match (s.ctx a).mate with
  | some q => if arriveOwn a m then s.arrive q n false else s
  | none => s

/-- An export effect waits in the core's buffer in a phase-structured card, with the lease of the chunk that staged it; copy B's job cards
and triggers are discarded (R77, R231, R326). -/
def exportOut (s : State) (a : CtxId) (lease : Option Nat) (x : Effect) : State :=
  let c := s.ctx a
  let dropped := c.copy == .copyB && (match x with | .trig _ => true | .jenq _ _ _ => true | _ => false)
  if dropped then s
  else if s.phased a then s.modCore a.core fun k => { k with exports := k.exports ++ [⟨c.dom, a.ctx, x, if x.isHostAccess then lease else none⟩] }
  else performExport s ⟨c.dom, a.ctx, x, none⟩ a.core

/-- One staged effect of a context that commits. `lead` is false for the shadow of a pair, whose shared effects its primary makes. -/
def commitEffect (lead : Bool) (lease : Option Nat) (a : CtxId) (s : State) (x : Effect) : State :=
  if x.isExport then (if lead then exportOut s a lease x else s)
  else match x with
  | .csr n op v => csrCommit s a n op v
  | .arrive n m => if lead then arriveBoth s a n m else s
  | .cclr n => s.modCore a.core fun k => { k with counters := SMap.put k.counters n ⟨false, 0⟩ }
  | .workq x n =>
    let s : State := { s.modCtx a (fun c => { c with queries := c.queries ++ [⟨x, n, s.posts, none⟩] }) with posts := s.posts + 1 }
    if lead then s.due (match (s.ctx a).card with | some k => .dealingRound (s.card k).layer | none => .workqAnswer a.core a.ctx) else s
  | .start h entry arg => (s.setCtx ⟨a.core, h⟩ { helperCtx s a h entry arg with status := .reserved }).wake ⟨a.core, h⟩
  | .joined h => s.setCtx ⟨a.core, h⟩ Ctx.reset
  | .tlbw sel tag dat => tlbwCommit s sel tag dat
  | .push p cmd => enterCommand s a p (newCommand s a cmd)
  | .popped p => (s.modPort a p fun q => { q with output := q.output.drop 1 }).due (.completion a.core a.ctx p)
  | .codebook x => enterCommand s a 0 (codebookCommand x)
  | .engabort p => abortPort s a p
  | .slotld w n => stageSlots s a.core (slotOwners w, BitVec.ofNat 12 n)
  | .ttld k l => s.modTt a.core fun t => { t with slots := SMap.put t.slots k l }
  | .ttsel n => s.modTt a.core fun t => { t with sel := BitVec.ofNat 2 n }
  | .ttgo => s.modTt a.core fun t => { t with armed := some t.sel.toNat }
  | .rwld k l => s.modCore a.core fun c => { c with restrict := SMap.put c.restrict k l }
  | .pwld k l => s.modCore a.core fun c => { c with prolong := SMap.put c.prolong k l }
  | .wsel v => s.modCtx a fun c => { c with r := { c.r with wsel := v } }
  | .grafted ls =>
    s.doms.foldl (fun s d => if d.2.phs && d.1 != (s.ctx a).dom && d.2.journal.any fun e => ls.contains e.line then s.tangle d.1 (s.ctx a).dom else s) s
  | _ => s

/-! Chunks. -/

/-- The held stores of a chunk, oldest first. -/
def Chunk.held (c : Chunk) : List (Nat × Byte) := c.stores.reverse

/-- The target address of a staged effect that the merge router compares: of an arrive, a trigger, a job card and a query the number
or the address that it names (R313, log 71). -/
def Effect.target : Effect → Dword
  | .arrive n _ => BitVec.ofNat 64 n
  | .trig k => BitVec.ofNat 64 k
  | .jenq q _ _ => BitVec.ofNat 64 q
  | .workq x _ => x
  | .hostAmo l _ _ _ _ _ _ => addrOf l
  | .hostStore l _ => addrOf ((l.map (·.1)).headD 0)
  | _ => 0

/-- What the merge router compares of a member's chunk: its stores outside its own two memories and its shared effects, each with its
target and its bytes. -/
def sharedItems (s : State) (a : CtxId) : List (Dword × List Byte) :=
  let c := (s.ctx a).chunk
  (c.held.filter fun e => !ownMemory a.core e.1).map (fun e => (addrOf e.1, writeImage [e]))
    ++ (c.effects.filter Effect.shared).map fun x => (x.target, x.image)

/-- Their bytes, of which the CRC is taken. -/
def sharedImage (s : State) (a : CtxId) : List Byte := (sharedItems s a).flatMap (·.2)

/-- The target of the first message in which two members differ. -/
def firstDiff : List (Dword × List Byte) → List (Dword × List Byte) → Dword
  | [], [] => 0
  | x :: _, [] => x.1
  | [], y :: _ => y.1
  | x :: t, y :: u => if x = y then firstDiff t u else x.1

/-- An arbiter refuses a chunk whose read signature meets a write recorded at one of its homes; after 16 squashes none does, nor a cut's
(R207, R303). -/
def refusedAt (c : Chunk) : List Nat :=
  if c.sure ∨ 16 ≤ c.squashes then []
  else
    let sig := c.rlines.map sigBit
    ((c.against.filter fun x => sig.contains x.2).map (·.1)).dedup

/-- The contexts of other chunks for which a home of some contexts' chunks is reserved; where two such chunks meet they go in the order of
their cores (R207). -/
def reservers (s : State) (ms : List CtxId) : List CtxId :=
  let hs := ms.flatMap fun m => (s.ctx m).chunk.homes
  let forced (a : CtxId) : Bool := (s.ctx a).chunk.forced
  let num (a : CtxId) : Nat := a.core.key * 16 + a.ctx
  s.allCtxs.filter fun b => forced b && !ms.contains b && ((s.ctx b).chunk.homes.any fun h => hs.contains h)
    && !(ms.any fun m => forced m && decide (num m < num b))
def reservedAway (s : State) (ms : List CtxId) : Bool := reservers s ms != []

/-- Whether a chunk has read a line that another writes. -/
def Chunk.meets (c w : Chunk) : Bool :=
  c.rlines.any fun l => w.wlines.any fun k => homeOf (l * 64) == homeOf (k * 64) && sigBit l == sigBit k

/-- Whether chunks that were executed in lock-step do not stand in the order of the gang: a member has read a line that one before it writes
(R207, R290). -/
def gangClash (s : State) (ms : List CtxId) : Bool :=
  !(ms.any fun m => (s.solo m).isSome) && (ms.zipIdx.any fun x => (ms.drop (x.2 + 1)).any fun k => (s.ctx k).chunk.meets (s.ctx x.1).chunk)

/-- The instruction behind a line a chunk writes (R327). -/
def pcOfLine (c : Chunk) (l : Nat) : VAddr := match c.pcs.find? fun x => x.1 == l with | some x => x.2 | none => c.ckpt.pc

/-- The export effect that does not fit its core's buffer of 64 entries, as its place among the chunk's effects (R326, R327). -/
def exportOver (s : State) (a : CtxId) : Option Nat :=
  let c := (s.ctx a).chunk
  let room := 64 - (s.core a.core).exports.length
  (((c.effects.zipIdx).filter fun x => x.1.isExport)[room]?).map (·.2)

/-- One member's chunk commits: its lines are journaled, its stores become visible, its flags merge, and its staged effects act in
order; where a journal or the export buffer would overflow, the domain takes the superstep-too-large event instead (R327). -/
def commitOne (who : List CtxId) (lead : Bool) (s : State) (a : CtxId) : State :=
  let c := (s.ctx a).chunk
  let l := if lead then c.held else c.held.filter fun e => ownMemory a.core e.1
  let d := (s.ctx a).dom
  match (if s.phased a then journalLines s d a.core (linesOf (l.map (·.1))) else .ok s) with
  | .error e => tooLargeEvent s d e.1 (some (a, pcOfLine c e.2))
  | .ok s =>
    match (if s.phased a && lead then exportOver s a else none) with
    | some i => tooLargeEvent s d 2 (some (a, c.epcs.getD i c.ckpt.pc))
    | none =>
      let locs := l.map (·.1)
      let s := if l = [] then s else recordWrites s who ((locs.map homeOf).dedup) ((linesOf locs).map sigBit).dedup
      let s := if l = [] then s else s.putSilent l
      let s := s.modCtx a fun c => { c with
        r := { c.r with arith := c.r.arith ||| c.r.pend, pend := 0 }
        chunk := { Chunk.empty with against := if c.ahead = [] then [] else c.chunk.against } }
      let s := (c.effects.foldl (commitEffect lead c.lease a) s).noteHbm 0x42 locs
      (s.modCtx a fun c => { c with chunk := { c.chunk with ckpt := c.r } }).bump a 0x03

/-- A side's chunks are refused: all are executed again from their checkpoints, one after another where they met each other's writes (R92,
R207, log 90). -/
def squashSide (s : State) (ms : List CtxId) : State :=
  let ds := (ms.flatMap fun m => refusedAt (s.ctx m).chunk).dedup
  let t := squashGroup (ds.foldl (fun s h => if h ≤ 8 then s.bumpDie h 0x43 1 else s) s) ms
  if gangClash s ms then t.modGang (ms.headD t.holder) fun g => { g with solo := some 0, trace := [], limit := 256 } else t

/-- The gang of chunks that have committed runs in lock-step again. -/
def soloOver (s : State) (ms : List CtxId) : State :=
  if ms.any fun m => (s.solo m).isSome then s.modGang (ms.headD s.holder) fun g => { g with solo := none, trace := [], limit := 256 } else s

/-- The other side of a pair: the mates of a side's members. -/
def mateSide (s : State) (ms : List CtxId) : List CtxId := ms.filterMap fun m => (s.ctx m).mate.map fun q => ⟨q, m.ctx⟩

def sideEnded (s : State) (ms : List CtxId) : Bool := ms.any fun m => (s.ctx m).chunk.ended
/-- A side asks for commit: its chunks have ended; chunks that hold a split, or are executed one after another, ask together. -/
def sideDone (s : State) (ms : List CtxId) : Bool :=
  if ms.any fun m => (s.ctx m).chunk.split || (s.solo m).isSome then ms.all fun m => (s.ctx m).chunk.ended else sideEnded s ms
/-- A lease ended while a chunk held accesses through it: they are performed through a new one (R231, R232). -/
def leaseGone (s : State) (a : CtxId) : Bool := match (s.ctx a).chunk.lease with | some t => decide (t ≤ s.ticks) | none => false
def sideRefused (s : State) (ms : List CtxId) : Bool := (ms.any fun m => refusedAt (s.ctx m).chunk != [] || leaseGone s m) || gangClash s ms
def sideShared (s : State) (ms : List CtxId) : Bool := ms.any fun m => (s.ctx m).mate.isSome && sharedImage s m != []

/-- A side of a pair stands at the merge router until the other does (R321). -/
def standAtMerge (s : State) (ms : List CtxId) : State :=
  match ms with
  | [] => s
  | m :: _ => if s.merge.any fun x => x.chan == 0 && x.who == m then s
    else { s with merge := s.merge ++ [⟨m, 0, ((sharedItems s m).map (·.1)).headD 0, crc64 (sharedImage s m), false, false⟩] }

/-- Whether the two sides' shared effects agree. -/
def sidesAgree (s : State) (p q : List CtxId) : Bool := (p.zip q).all fun x => crc64 (sharedImage s x.1) == crc64 (sharedImage s x.2)

/-- Both sides of a pair are at the merge router: they commit together, each shared effect once, or they mismatch (R321, R322). -/
def commitPair (s : State) (ms qs : List CtxId) : State :=
  let s : State := { s with merge := s.merge.filter fun x => !(x.chan == 0 && (ms ++ qs).contains x.who) }
  if !sidesAgree s ms qs then
    ({ s with merge := s.merge ++ [⟨ms.headD ⟨⟨.l0, 0⟩, 0⟩, 0,
      firstDiff (ms.flatMap (sharedItems s)) (qs.flatMap (sharedItems s)), 0, true, false⟩] } : State).due (.pairMismatch s.merge.length)
  else
    let primary (a : CtxId) : Bool := (s.ctx a).copy != .shadow
    let x := if (ms.all primary) then (ms, qs) else (qs, ms)
    soloOver (soloOver (x.2.foldl (commitOne (ms ++ qs) false) (x.1.foldl (commitOne (ms ++ qs) true) s)) ms) qs

/-- Whether a chunk commit would change anything now: a side that waits at the merge router, or for a reserved home, does not. -/
def commitMoves (s : State) (a : CtxId) : Bool :=
  let ms := commitGroup s a
  let qs := mateSide s ms
  sideDone s ms &&
    (sideRefused s ms || (!reservedAway s ms && (!sideShared s ms
      || (sideDone s qs && sideShared s qs && !(s.merge.any fun x => x.bad && (ms ++ qs).contains x.who))
      || !(s.merge.any fun x => x.chan == 0 && ms.head? == some x.who))))

/-- Commit, squash or hold the chunks that end with a context's. -/
def chunkCommit (s : State) (a : CtxId) : State :=
  let ms := commitGroup s a
  let qs := mateSide s ms
  if !sideDone s ms then s
  else if sideRefused s ms then squashSide s ms
  else if reservedAway s ms then s
  else if !sideShared s ms then soloOver (ms.foldl (commitOne ms true) s) ms
  else if (s.merge.any fun x => x.bad && (ms ++ qs).contains x.who) then s
  else if !(sideDone s qs && sideShared s qs) then standAtMerge s ms
  else if sideRefused s qs then squashSide (standAtMerge s ms) qs
  else commitPair s ms qs

/-- R207: A chunk asks its homes' arbiters for commit and its stores become visible, or it is squashed. -/
def execChunkCommit (core : CoreId) (ctx : Nat) (s : State) : Host.Outcome State Fault Refusal := .next (chunkCommit s ⟨core, ctx⟩)

/-! Barriers. -/

/-- The Quekin ports that carry a domain's tokens: those of its entry of the fabric table, none for a device barrier (R261). -/
def tokenPorts (s : State) (d : Nat) : List Nat :=
  let x := s.dom d
  if x.kind.toNat ≠ 5 then []
  else match s.dev.fab.find? fun e => bits e.2.toNat 48 16 == x.inst.toNat && bits e.2.toNat 0 36 != 0 with
    | some e => (List.range 36).filter fun p => bitOf e.2.toNat p
    | none => []

/-- A device that has reached a fabric barrier sends its tokens, once. -/
def sendTokens (s : State) (d : Nat) : State :=
  if (s.dom d).tokensSent ∨ tokenPorts s d = [] then s
  else
    let n := (s.dom d).superstep
    let s : State := { s with out := s.out ++ (tokenPorts s d).map fun p => Out.token p n }
    s.modDom d fun x => { x with tokensSent := true }

/-- Whether every token of a barrier has come. -/
def tokensHere (s : State) (d : Nat) : Bool := (tokenPorts s d).all fun p => s.dev.tokens.contains (p, (s.dom d).superstep)

/-- What a rollback of the new epoch restores of a core of the domain, one on which only parked participants stand among them: the core as its
release will leave it (R323). -/
def savedCore (s : State) (c : CoreId) : Saved :=
  let k := s.core c
  ⟨c, { k with ctxs := k.ctxs.map fun x => (x.1,
    if x.2.arrival.isSome then { x.2 with status := .live, arrival := none, chunk := { Chunk.empty with ckpt := x.2.r } } else x.2) }, gangFused s c⟩

/-- The effects of a barrier's commit in one step (R259). -/
def barrierEffects (s : State) (d : Nat) : State :=
  let x := s.dom d
  let s := commitArrivals s d fun _ _ => (0, 0)
  let s := x.members.foldl (fun s m => s.modCtx m fun c => { c with r := { c.r with rngCtr := 0 } }) s
  let s := if x.phs then commitDomain s d else s
  let used := (tokenPorts s d).map fun p => (p, x.superstep)
  let s := s.addDev fun v => { v with tokens := v.tokens.filter fun t => !used.contains t }
  let s := s.modDom d fun y => { y with
    superstep := y.superstep + 1, exch := y.phs && !y.exch, parkedBefore := y.anyParked, tokensSent := false, release := some true }
  let s := if x.phs then s.modDom d fun y => { y with saved := ((y.members.map (·.core) ++ coresIn s d).dedup).map (savedCore s) } else s
  s.due (.barrierRelease d)

/-- Whether a barrier may commit: everyone has arrived with the same form, copies and timetables are done, tokens are here. -/
def barrierReady (s : State) (d : Nat) : Bool :=
  allArrived s d && (formsOf s d).contains 0 && ((formsOf s d).any (· != 0) || (exchangesDone s d &&
    (if exportsLive s (coresIn s d) then tokensHere s d || !(s.dom d).tokensSent else exportMoves s (coresIn s d))))

/-- R259: All barrier conditions hold: journals are discarded, exports released, the superstep advances. Different forms trap (R263). -/
def execBarrierCommit (dom : Nat) (s : State) : Host.Outcome State Fault Refusal :=
  if !allArrived s dom || !(formsOf s dom).contains 0 then .next s
  else if (formsOf s dom).any (· != 0) then .next (mismatch s dom)
  else if !exchangesDone s dom then .next s
  else
    if !exportsLive s (coresIn s dom) then .next (renewExport s dom (coresIn s dom)) else
    let s := sendTokens s dom
    .next (if tokensHere s dom then barrierEffects s dom else s)

/-- R261: A fabric barrier token arrives on a Quekin port. -/
def execFabricToken (port : Nat) (num : W32) (s : State) : Host.Outcome State Fault Refusal :=
  let s := s.addDev fun v => { v with tokens := if v.tokens.contains (port, num) then v.tokens else v.tokens ++ [(port, num)] }
  .next (((s.doms.filter fun d => d.2.kind == 5).map (·.1)).foldl nudge s)

/-- A participant goes on after its rendezvous: the rendezvous was the first instruction of a chunk, which a write since an access made ahead of
it still refuses (R207, R258, R291). -/
def releaseOne (s : State) (m : CtxId) : State :=
  if (s.ctx m).status = .waiting .rendezvous ∧ (s.ctx m).arrival.isSome then
    ((s.wake m).modCtx m fun c => { c with arrival := none, chunk := { Chunk.empty with count := 1, base := 1, ckpt := c.r, against := if c.ahead = [] then [] else c.chunk.against } }).bump m 0x02
  else s

/-- R260: Release of a committed barrier or vote on one edge; the armed timetables of every core of a barrier's domain begin, those of
parked participants with them, in a phase-structured card where an exchange phase opens (R259, R266). -/
def execBarrierRelease (dom : Nat) (s : State) : Host.Outcome State Fault Refusal :=
  let x := s.dom dom
  match x.release with
  | none => .next s
  | some bar =>
    let s := x.members.foldl releaseOne s
    let s := s.modDom dom fun y => { y with release := none }
    .next (if bar ∧ (!x.phs ∨ x.exch) then ((coresIn s dom).filter fun c => c.kind == .l0).foldl startSlot s else s)

end Sys2Proof.Machine
end

