-- ==== Sys2Proof/Machine/ScalarInt.lean ====
section
/-! DEFINITION. Page 0: integer, bit-field, compare and predicate instructions (R98 to R104). -/

namespace Sys2Proof.Machine

/-- Division with the results of R99 for a zero divisor and for overflow. -/
def divS (a b : Dword) : Dword :=
  if b = 0 then BitVec.allOnes 64 else if a = BitVec.ofInt 64 (-2 ^ 63) ∧ b = BitVec.allOnes 64 then a
  else BitVec.ofInt 64 (a.toInt.tdiv b.toInt)
def remS (a b : Dword) : Dword :=
  if b = 0 then a else if a = BitVec.ofInt 64 (-2 ^ 63) ∧ b = BitVec.allOnes 64 then 0
  else BitVec.ofInt 64 (a.toInt - b.toInt * a.toInt.tdiv b.toInt)
def divN (a b : Dword) : Dword := if b = 0 then BitVec.allOnes 64 else BitVec.ofNat 64 (a.toNat / b.toNat)
def remN (a b : Dword) : Dword := if b = 0 then a else BitVec.ofNat 64 (a.toNat % b.toNat)

/-- Leading and trailing zero bits and one bits of a 64-bit word (R102). -/
def clzOf (a : Dword) : Nat := if a = 0 then 64 else 63 - Nat.log2 a.toNat
def ctzFrom (n : Nat) : Nat → Nat → Nat
  | 0, k => k
  | m + 1, k => if bitOf n k then k else ctzFrom n m (k + 1)
def ctzOf (a : Dword) : Nat := ctzFrom a.toNat 64 0
def popOf (a : Dword) : Nat := (List.range 64).countP fun i => bitOf a.toNat i

/-- The bit field of R102: len and pos from the immediate. -/
def fieldLen (f : Fields) : Nat := f.immU / 64 + 1
def fieldPos (f : Fields) : Nat := f.immU % 64
def insertField (d a : Dword) (pos len : Nat) : Dword :=
  let mask := BitVec.ofNat 64 ((2 ^ len - 1) * 2 ^ pos)
  (d &&& ~~~mask) ||| (BitVec.ofNat 64 (a.toNat * 2 ^ pos) &&& mask)

/-- R99: Integer add of A and B, with optional .i32/.n32 format and saturation. -/
def addRegs (e : Env) : RegState := 
  let x := arith100 (· + ·) e.f.fmt e.f.sat e.aS e.bS
  (e.putS e.r x.1).raise x.2
def execAdd (f : Fields) (s : State) : Host.Outcome State Fault Refusal := issueRegs Forms.aluFmt f addRegs s

/-- R99: Integer subtract A minus B, with optional format and saturation. -/
def subRegs (e : Env) : RegState := 
  let x := arith100 (· - ·) e.f.fmt e.f.sat e.aS e.bS
  (e.putS e.r x.1).raise x.2
def execSub (f : Fields) (s : State) : Host.Outcome State Fault Refusal := issueRegs Forms.aluFmt f subRegs s

/-- R99: Integer multiply, low 64 bits, with optional format and saturation. -/
def mulRegs (e : Env) : RegState := 
  let x := arith100 (· * ·) e.f.fmt e.f.sat e.aS e.bS
  (e.putS e.r x.1).raise x.2
def execMul (f : Fields) (s : State) : Host.Outcome State Fault Refusal := issueRegs Forms.aluFmt f mulRegs s

/-- R99: Bitwise and of A and B. -/
def andRegs (e : Env) : RegState := e.putS e.r (e.aS &&& e.bS)
def execAnd (f : Fields) (s : State) : Host.Outcome State Fault Refusal := issueRegs Forms.alu f andRegs s

/-- R99: Bitwise or of A and B. -/
def orRegs (e : Env) : RegState := e.putS e.r (e.aS ||| e.bS)
def execOr (f : Fields) (s : State) : Host.Outcome State Fault Refusal := issueRegs Forms.alu f orRegs s

/-- R99: Bitwise xor of A and B. -/
def xorRegs (e : Env) : RegState := e.putS e.r (e.aS ^^^ e.bS)
def execXor (f : Fields) (s : State) : Host.Outcome State Fault Refusal := issueRegs Forms.alu f xorRegs s

/-- R99: A and not B. -/
def andnRegs (e : Env) : RegState := e.putS e.r (e.aS &&& ~~~e.bS)
def execAndn (f : Fields) (s : State) : Host.Outcome State Fault Refusal := issueRegs Forms.alu f andnRegs s

/-- R99: Shift A left by B[5:0]. -/
def shlRegs (e : Env) : RegState := e.putS e.r (e.aS <<< (e.bS.toNat % 64))
def execShl (f : Fields) (s : State) : Host.Outcome State Fault Refusal := issueRegs Forms.alu f shlRegs s

/-- R99: Logical shift A right by B[5:0]. -/
def shrRegs (e : Env) : RegState := e.putS e.r (e.aS >>> (e.bS.toNat % 64))
def execShr (f : Fields) (s : State) : Host.Outcome State Fault Refusal := issueRegs Forms.alu f shrRegs s

/-- R99: Arithmetic shift A right by B[5:0]. -/
def sraRegs (e : Env) : RegState := e.putS e.r (e.aS.sshiftRight (e.bS.toNat % 64))
def execSra (f : Fields) (s : State) : Host.Outcome State Fault Refusal := issueRegs Forms.alu f sraRegs s

/-- R99: High 64 bits of the signed 128-bit product. -/
def mulhsRegs (e : Env) : RegState := e.putS e.r (BitVec.ofInt 64 (e.aS.toInt * e.bS.toInt / 2 ^ 64))
def execMulhs (f : Fields) (s : State) : Host.Outcome State Fault Refusal := issueRegs Forms.alu f mulhsRegs s

/-- R99: High 64 bits of the unsigned 128-bit product. -/
def mulhnRegs (e : Env) : RegState := e.putS e.r (BitVec.ofNat 64 (e.aS.toNat * e.bS.toNat / 2 ^ 64))
def execMulhn (f : Fields) (s : State) : Host.Outcome State Fault Refusal := issueRegs Forms.alu f mulhnRegs s

/-- R99: Signed division truncated toward zero, with defined results for zero and overflow. -/
def divsRegs (e : Env) : RegState := e.putS e.r (divS e.aS e.bS)
def execDivs (f : Fields) (s : State) : Host.Outcome State Fault Refusal := issueRegs Forms.alu f divsRegs s

/-- R99: Unsigned division, all ones on divide by zero. -/
def divnRegs (e : Env) : RegState := e.putS e.r (divN e.aS e.bS)
def execDivn (f : Fields) (s : State) : Host.Outcome State Fault Refusal := issueRegs Forms.alu f divnRegs s

/-- R99: Signed remainder. -/
def remsRegs (e : Env) : RegState := e.putS e.r (remS e.aS e.bS)
def execRems (f : Fields) (s : State) : Host.Outcome State Fault Refusal := issueRegs Forms.alu f remsRegs s

/-- R99: Unsigned remainder. -/
def remnRegs (e : Env) : RegState := e.putS e.r (remN e.aS e.bS)
def execRemn (f : Fields) (s : State) : Host.Outcome State Fault Refusal := issueRegs Forms.alu f remnRegs s

/-- R99: Signed minimum. -/
def minRegs (e : Env) : RegState := e.putS e.r (if e.aS.slt e.bS then e.aS else e.bS)
def execMin (f : Fields) (s : State) : Host.Outcome State Fault Refusal := issueRegs Forms.alu f minRegs s

/-- R99: Signed maximum. -/
def maxRegs (e : Env) : RegState := e.putS e.r (if e.aS.slt e.bS then e.bS else e.aS)
def execMax (f : Fields) (s : State) : Host.Outcome State Fault Refusal := issueRegs Forms.alu f maxRegs s

/-- R99: Unsigned minimum. -/
def minnRegs (e : Env) : RegState := e.putS e.r (if e.aS < e.bS then e.aS else e.bS)
def execMinn (f : Fields) (s : State) : Host.Outcome State Fault Refusal := issueRegs Forms.alu f minnRegs s

/-- R99: Unsigned maximum. -/
def maxnRegs (e : Env) : RegState := e.putS e.r (if e.aS < e.bS then e.bS else e.aS)
def execMaxn (f : Fields) (s : State) : Host.Outcome State Fault Refusal := issueRegs Forms.alu f maxnRegs s

/-- R99: Add a sign-extended immediate. -/
def addiRegs (e : Env) : RegState := 
  let x := arith100 (· + ·) e.f.fmt e.f.sat e.srcS e.immS
  (e.putS e.r x.1).raise x.2
def execAddi (f : Fields) (s : State) : Host.Outcome State Fault Refusal := issueRegs Forms.aluImmFmt f addiRegs s

/-- R99: Multiply by a sign-extended immediate. -/
def muliRegs (e : Env) : RegState := 
  let x := arith100 (· * ·) e.f.fmt e.f.sat e.srcS e.immS
  (e.putS e.r x.1).raise x.2
def execMuli (f : Fields) (s : State) : Host.Outcome State Fault Refusal := issueRegs Forms.aluImmFmt f muliRegs s

/-- R99: And with a sign-extended immediate. -/
def andiRegs (e : Env) : RegState := e.putS e.r (e.srcS &&& e.immS)
def execAndi (f : Fields) (s : State) : Host.Outcome State Fault Refusal := issueRegs Forms.aluImm f andiRegs s

/-- R99: Or with a sign-extended immediate. -/
def oriRegs (e : Env) : RegState := e.putS e.r (e.srcS ||| e.immS)
def execOri (f : Fields) (s : State) : Host.Outcome State Fault Refusal := issueRegs Forms.aluImm f oriRegs s

/-- R99: Xor with a sign-extended immediate. -/
def xoriRegs (e : Env) : RegState := e.putS e.r (e.srcS ^^^ e.immS)
def execXori (f : Fields) (s : State) : Host.Outcome State Fault Refusal := issueRegs Forms.aluImm f xoriRegs s

/-- R99: Shift left by an immediate count. -/
def shliRegs (e : Env) : RegState := e.putS e.r (e.srcS <<< e.immU)
def execShli (f : Fields) (s : State) : Host.Outcome State Fault Refusal := issueRegs Forms.shiftImm f shliRegs s

/-- R99: Logical shift right by an immediate count. -/
def shriRegs (e : Env) : RegState := e.putS e.r (e.srcS >>> e.immU)
def execShri (f : Fields) (s : State) : Host.Outcome State Fault Refusal := issueRegs Forms.shiftImm f shriRegs s

/-- R99: Arithmetic shift right by an immediate count. -/
def sraiRegs (e : Env) : RegState := e.putS e.r (e.srcS.sshiftRight e.immU)
def execSrai (f : Fields) (s : State) : Host.Outcome State Fault Refusal := issueRegs Forms.shiftImm f sraiRegs s

/-- R102: Copy a scalar register. -/
def movRegs (e : Env) : RegState := e.putS e.r (e.srcS)
def execMov (f : Fields) (s : State) : Host.Outcome State Fault Refusal := issueRegs Forms.unary f movRegs s

/-- R102: Write a sign-extended immediate. -/
def moviRegs (e : Env) : RegState := e.putS e.r (e.immS)
def execMovi (f : Fields) (s : State) : Host.Outcome State Fault Refusal := issueRegs Forms.moviF f moviRegs s

/-- R102: Write the immediate into bits 63:32, keeping bits 31:0. -/
def movhiRegs (e : Env) : RegState := e.putS e.r (BitVec.ofNat 64 (e.immU % 2 ^ 32 * 2 ^ 32 + e.oldS.toNat % 2 ^ 32))
def execMovhi (f : Fields) (s : State) : Host.Outcome State Fault Refusal := issueRegs Forms.movhiF f movhiRegs s

/-- R102: d gets a plus b shifted left by k. -/
def leaRegs (e : Env) : RegState := e.putS e.r (e.srcS + (e.tsrcS <<< e.immU))
def execLea (f : Fields) (s : State) : Host.Outcome State Fault Refusal := issueRegs Forms.leaF f leaRegs s

/-- R104: Select A or B by a predicate bit. -/
def selRegs (e : Env) : RegState := e.putS e.r (if e.selector 0 then e.srcS else e.tsrcS)
def execSel (f : Fields) (s : State) : Host.Outcome State Fault Refusal := issueRegs Forms.selF f selRegs s

/-- R102: Sign-extend from bit k. -/
def sextRegs (e : Env) : RegState := e.putS e.r (BitVec.ofInt 64 (sintOf (e.immU + 1) e.srcS.toNat))
def execSext (f : Fields) (s : State) : Host.Outcome State Fault Refusal := issueRegs Forms.shiftImm f sextRegs s

/-- R102: Zero-extend from bit k. -/
def zextRegs (e : Env) : RegState := e.putS e.r (BitVec.ofNat 64 (e.srcS.toNat % 2 ^ (e.immU + 1)))
def execZext (f : Fields) (s : State) : Host.Outcome State Fault Refusal := issueRegs Forms.shiftImm f zextRegs s

/-- R102: Extract a bit field with sign extension. -/
def bfxRegs (e : Env) : RegState := e.putS e.r (BitVec.ofInt 64 (sintOf (fieldLen e.f) (bits e.srcS.toNat (fieldPos e.f) (fieldLen e.f))))
def execBfx (f : Fields) (s : State) : Host.Outcome State Fault Refusal :=
  issueIf Forms.field f (fun _ f => fieldOk f) (regBody bfxRegs) s

/-- R102: Extract a bit field with zero extension. -/
def bfxnRegs (e : Env) : RegState := e.putS e.r (BitVec.ofNat 64 (bits e.srcS.toNat (fieldPos e.f) (fieldLen e.f)))
def execBfxn (f : Fields) (s : State) : Host.Outcome State Fault Refusal :=
  issueIf Forms.field f (fun _ f => fieldOk f) (regBody bfxnRegs) s

/-- R102: Insert a bit field into d. -/
def bfiRegs (e : Env) : RegState := e.putS e.r (insertField e.oldS e.srcS (fieldPos e.f) (fieldLen e.f))
def execBfi (f : Fields) (s : State) : Host.Outcome State Fault Refusal :=
  issueIf Forms.field f (fun _ f => fieldOk f) (regBody bfiRegs) s

/-- R102: Count leading zero bits. -/
def clzRegs (e : Env) : RegState := e.putS e.r (BitVec.ofNat 64 (clzOf e.srcS))
def execClz (f : Fields) (s : State) : Host.Outcome State Fault Refusal := issueRegs Forms.unary f clzRegs s

/-- R102: Count trailing zero bits. -/
def ctzRegs (e : Env) : RegState := e.putS e.r (BitVec.ofNat 64 (ctzOf e.srcS))
def execCtz (f : Fields) (s : State) : Host.Outcome State Fault Refusal := issueRegs Forms.unary f ctzRegs s

/-- R102: Count one bits. -/
def popcRegs (e : Env) : RegState := e.putS e.r (BitVec.ofNat 64 (popOf e.srcS))
def execPopc (f : Fields) (s : State) : Host.Outcome State Fault Refusal := issueRegs Forms.unary f popcRegs s

/-- R103: Predicate set when A equals B. -/
def cmpeqRegs (e : Env) : RegState := e.putP e.r (predOf e.kind (e.srcS == e.tsrcS))
def execCmpeq (f : Fields) (s : State) : Host.Outcome State Fault Refusal := issueRegs Forms.cmp f cmpeqRegs s

/-- R103: Predicate set when A differs from B. -/
def cmpneRegs (e : Env) : RegState := e.putP e.r (predOf e.kind (e.srcS != e.tsrcS))
def execCmpne (f : Fields) (s : State) : Host.Outcome State Fault Refusal := issueRegs Forms.cmp f cmpneRegs s

/-- R103: Signed less-than compare. -/
def cmpltRegs (e : Env) : RegState := e.putP e.r (predOf e.kind (e.srcS.slt e.tsrcS))
def execCmplt (f : Fields) (s : State) : Host.Outcome State Fault Refusal := issueRegs Forms.cmp f cmpltRegs s

/-- R103: Signed less-or-equal compare. -/
def cmpleRegs (e : Env) : RegState := e.putP e.r (predOf e.kind (e.srcS.sle e.tsrcS))
def execCmple (f : Fields) (s : State) : Host.Outcome State Fault Refusal := issueRegs Forms.cmp f cmpleRegs s

/-- R103: Unsigned less-than compare. -/
def cmpltnRegs (e : Env) : RegState := e.putP e.r (predOf e.kind (e.srcS.ult e.tsrcS))
def execCmpltn (f : Fields) (s : State) : Host.Outcome State Fault Refusal := issueRegs Forms.cmp f cmpltnRegs s

/-- R103: Unsigned less-or-equal compare. -/
def cmplenRegs (e : Env) : RegState := e.putP e.r (predOf e.kind (e.srcS.ule e.tsrcS))
def execCmplen (f : Fields) (s : State) : Host.Outcome State Fault Refusal := issueRegs Forms.cmp f cmplenRegs s

/-- R103: Predicate set when A and B share a set bit. -/
def tstRegs (e : Env) : RegState := e.putP e.r (predOf e.kind ((e.srcS &&& e.tsrcS) != 0))
def execTst (f : Fields) (s : State) : Host.Outcome State Fault Refusal := issueRegs Forms.cmp f tstRegs s

/-- R103: Predicate and. -/
def pandRegs (e : Env) : RegState := e.putP e.r (e.aP &&& e.bP)
def execPand (f : Fields) (s : State) : Host.Outcome State Fault Refusal := issueRegs Forms.pred2 f pandRegs s

/-- R103: Predicate or. -/
def porRegs (e : Env) : RegState := e.putP e.r (e.aP ||| e.bP)
def execPor (f : Fields) (s : State) : Host.Outcome State Fault Refusal := issueRegs Forms.pred2 f porRegs s

/-- R103: Predicate xor. -/
def pxorRegs (e : Env) : RegState := e.putP e.r (e.aP ^^^ e.bP)
def execPxor (f : Fields) (s : State) : Host.Outcome State Fault Refusal := issueRegs Forms.pred2 f pxorRegs s

/-- R103: Predicate and-not. -/
def pandnRegs (e : Env) : RegState := e.putP e.r (e.aP &&& ~~~e.bP)
def execPandn (f : Fields) (s : State) : Host.Outcome State Fault Refusal := issueRegs Forms.pred2 f pandnRegs s

/-- R103: Predicate not. -/
def pnotRegs (e : Env) : RegState := e.putP e.r (~~~e.srcP)
def execPnot (f : Fields) (s : State) : Host.Outcome State Fault Refusal := issueRegs Forms.pred1 f pnotRegs s

/-- R103: Set a predicate to all ones. -/
def psetRegs (e : Env) : RegState := e.putP e.r (pOnes e.kind)
def execPset (f : Fields) (s : State) : Host.Outcome State Fault Refusal := issueRegs Forms.pred0 f psetRegs s

/-- R103: Clear a predicate to all zeros. -/
def pclrRegs (e : Env) : RegState := e.putP e.r (0)
def execPclr (f : Fields) (s : State) : Host.Outcome State Fault Refusal := issueRegs Forms.pred0 f pclrRegs s

/-- R103: Copy a predicate. -/
def pmovRegs (e : Env) : RegState := e.putP e.r (e.srcP)
def execPmov (f : Fields) (s : State) : Host.Outcome State Fault Refusal := issueRegs Forms.pred1 f pmovRegs s

end Sys2Proof.Machine
end

