-- ==== Sys2Proof/Machine/Tiles.lean ====
section
/-! DEFINITION. Page 2: the tile instructions of L2 and L3 (R192, R193). -/

namespace Sys2Proof.Machine

/-- Row i of a tile (R60), and a tile from its rows. -/
def rowOf (m : BitVec 8192) (i : Nat) : Vec := BitVec.ofNat 512 (bits m.toNat (512 * i) 512)
def ofRows (l : List Vec) : BitVec 8192 := BitVec.ofNat 8192 (packN 512 (l.map (·.toNat)))
def setRow (m : BitVec 8192) (k : Nat) (v : Vec) : BitVec 8192 :=
  ofRows ((List.range 16).map fun i => if i = k then v else rowOf m i)
def Env.srcM (e : Env) : BitVec 8192 := e.r.rdM e.f.srcN
def Env.tsrcM (e : Env) : BitVec 8192 := e.r.rdM e.f.tsrcN
def Env.oldM (e : Env) : BitVec 8192 := e.r.rdM e.f.dstN
def Env.aM (e : Env) : BitVec 8192 := if e.f.reg.isSome then e.srcM else e.oldM
def Env.bM (e : Env) : BitVec 8192 := if e.f.reg.isSome then e.tsrcM else e.srcM
def Env.putM (e : Env) (r : RegState) (m : BitVec 8192) : RegState := r.wrM e.f.dstN m

/-- A tile computed element by element, 32 bits each, with merged flags. -/
def tileOf (g : Nat → Nat → Coded) : BitVec 8192 × Nat :=
  let rows := (List.range 16).map fun i => (List.range 16).map fun j => g i j
  (ofRows (rows.map fun r => packV 32 (r.map (·.code))), rows.foldl (fun a r => a ||| orFlags r) 0)

/-- The addresses of the rows, and the first that is not a multiple of 64 (R193). -/
def Env.rowAddrs (e : Env) : List Dword := (List.range 16).map fun i => e.ea + BitVec.ofNat 64 i * e.tsrcS
def Env.badRow (e : Env) : Option Dword := e.rowAddrs.find? fun a => a.toNat % 64 != 0

/-- The rows of a tile's access, each an access of its own, in their order: all their locations, or the first failure, of a load its poison
too (R193, R200, R318). -/
def reachRows (s : State) (a : CtxId) (acc : Nat) : List (List Dword) → Except Act (List Nat)
  | [] => .ok []
  | r :: t =>
    match reachAll s a 0 acc true r with
    | .error x => .error (reachFail acc x)
    | .ok l =>
      match (if acc = 0 then s.poisonAt a (l.zip r) else none) with
      | some p => .error (.trap ⟨0x17, BitVec.ofNat 32 (memKind p.1), p.2, false⟩)
      | none => (reachRows s a acc t).map (l ++ ·)

/-- R193: Load 16 rows of 64 bytes into a tile register. -/
def mtldBody (e : Env) (s : State) : Act :=
  match e.badRow with
  | some a => misaligned a
  | none =>
    match reachRows s e.at' 0 (e.rowAddrs.map fun a => span a 64) with
    | .error x => x
    | .ok locs => .done (((s.noteRead e.at' locs).useOnce e.at' 0).setRegs e.at' (e.putM e.r (BitVec.ofNat 8192 (s.see e.at' locs))))
def execMtld (f : Fields) (s : State) : Host.Outcome State Fault Refusal := issue Forms.mtmem f mtldBody s

/-- R193: Store 16 tile rows to memory. -/
def mtstBody (e : Env) (s : State) : Act :=
  match e.badRow with
  | some a => misaligned a
  | none =>
    let rows := e.rowAddrs.map fun a => span a 64
    match reachRows s e.at' 1 rows with
    | .error x => x
    | .ok locs => .done (storeLocs (s.noteLease e.at' rows.flatten) e.at' rows.flatten
        (locs.zip ((List.range 16).flatMap fun i => (bytesAt 0 64 (rowOf e.oldM i).toNat).map (·.2))))
def execMtst (f : Fields) (s : State) : Host.Outcome State Fault Refusal := issue Forms.mtmem f mtstBody s

/-- The element format of mtmma and mtcvt (R192). -/
def tileFmt (fmt : Nat) : Elt :=
  match fmt with | 3 => .flt .fp16 | 4 => .flt .bf16 | 5 => .flt .e4m3 | 6 => .flt .e5m2 | _ => .int 8
/-- One element of mtmma (R193). -/
def mtmmaElem (e : Env) (i j : Nat) : Coded :=
  let F := tileFmt e.f.fmt
  let n := 512 / F.width
  let a := (List.range n).map (elem F.width (rowOf e.srcM i))
  let b := (List.range n).map (elem F.width (rowOf e.tsrcM j))
  let c := elem 32 (rowOf e.oldM i) j
  if e.f.fmt = 13 then writebackInt32 e.f.sat (sintOf 32 c + intDot F F a b)
  else addFinal e.mode c (scaledBlock (products e.r.codebook F F a b) (.fin false 1 0) (.fin false 1 0))

/-- R193: Tile multiply-accumulate by the canonical sum. -/
def mtmmaRegs (e : Env) : RegState := 
  let x := tileOf (mtmmaElem e)
  (e.putM e.r x.1).raise x.2
def execMtmma (f : Fields) (s : State) : Host.Outcome State Fault Refusal := issueRegs (Forms.mtmmaF f) f mtmmaRegs s

/-- R193: Clear a tile register. -/
def mtzeroRegs (e : Env) : RegState := e.putM e.r 0
def execMtzero (f : Fields) (s : State) : Host.Outcome State Fault Refusal := issueRegs Forms.mtzeroF f mtzeroRegs s

/-- An FP32 or .i32 addition of tile elements (R193, R150). -/
def tileAdd (e : Env) (x y : Nat) : Coded :=
  if e.f.fmt = 11 then
    let c := clampInt e.f.sat (-2 ^ 31) (2 ^ 31 - 1) (sintOf 32 x + sintOf 32 y)
    ⟨wrapInt 32 c.1, c.2⟩
  else FloatFmt.fp32.add e.mode x y

/-- R193: Element-wise tile add. -/
def mtaddRegs (e : Env) : RegState := 
  let x := tileOf fun i j => tileAdd e (elem 32 (rowOf e.aM i) j) (elem 32 (rowOf e.bM i) j)
  (e.putM e.r x.1).raise x.2
def execMtadd (f : Fields) (s : State) : Host.Outcome State Fault Refusal := issueRegs (Forms.mtaddF f) f mtaddRegs s

/-- R193: Copy one tile register to another. -/
def mtmovRegs (e : Env) : RegState := e.putM e.r e.srcM
def execMtmov (f : Fields) (s : State) : Host.Outcome State Fault Refusal := issueRegs Forms.mtmovF f mtmovRegs s

/-- R193: Write a vector register into row k of a tile. -/
def mtmovRowInRegs (e : Env) : RegState := e.putM e.r (setRow e.oldM e.immU e.srcV)
def execMtmovRowIn (f : Fields) (s : State) : Host.Outcome State Fault Refusal := issueRegs Forms.mtmovInF f mtmovRowInRegs s

/-- R193: Read row k of a tile into a vector register. -/
def mtmovRowOutRegs (e : Env) : RegState := e.putV e.r (rowOf e.srcM e.immU)
def execMtmovRowOut (f : Fields) (s : State) : Host.Outcome State Fault Refusal := issueRegs Forms.mtmovOutF f mtmovRowOutRegs s

/-- One element of mtcvt, its stochastic lane 16 i + j (R193). -/
def mtcvtElem (e : Env) (i j : Nat) : Coded :=
  match tileFmt e.f.fmt with
  | .flt F => F.convert (modeOf e.f.rnd (rdefMode e.r.arith) (e.rb (16 * i + j))) e.f.sat
      (FloatFmt.fp32.decode (elem 32 (rowOf e.srcM i) j))
  | _ => ⟨0, 0⟩

/-- R193: Convert FP32 tile elements to a narrow format. -/
def mtcvtRegs (e : Env) : RegState := 
  let w := (tileFmt e.f.fmt).width
  let rows := (List.range 16).map fun i => (List.range 16).map fun j => mtcvtElem e i j
  ((e.putM e.r (ofRows (rows.map fun r => packV w (r.map (·.code))))).raise (rows.foldl (fun a r => a ||| orFlags r) 0)).drew e.f
def execMtcvt (f : Fields) (s : State) : Host.Outcome State Fault Refusal := issueRegs Forms.mtcvtF f mtcvtRegs s

/-- R193: Reduce each tile row into a vector lane. -/
def mtredRegs (e : Env) : RegState := 
  let l := (List.range 16).map fun i =>
    (tsum (mergeNode (tileAdd e)) ((List.range 16).map fun j => some ⟨elem 32 (rowOf e.srcM i) j, 0⟩)).getD ⟨0, 0⟩
  (e.putV e.r (packV 32 (l.map (·.code)))).raise (orFlags l)
def execMtred (f : Fields) (s : State) : Host.Outcome State Fault Refusal := issueRegs (Forms.mtredF f) f mtredRegs s

end Sys2Proof.Machine
end

