-- ==== Sys2Proof/Machine/Dispatch.lean ====
section
/-! DEFINITION. One arm for each step of the opcode table. -/

namespace Sys2Proof.Machine

def exec (i : Instr) (s : State) : Host.Outcome State Fault Refusal :=
  match i with
  | .add f => Sys2Proof.Machine.execAdd f s
  | .sub f => Sys2Proof.Machine.execSub f s
  | .and f => Sys2Proof.Machine.execAnd f s
  | .or f => Sys2Proof.Machine.execOr f s
  | .xor f => Sys2Proof.Machine.execXor f s
  | .andn f => Sys2Proof.Machine.execAndn f s
  | .shl f => Sys2Proof.Machine.execShl f s
  | .shr f => Sys2Proof.Machine.execShr f s
  | .sra f => Sys2Proof.Machine.execSra f s
  | .mul f => Sys2Proof.Machine.execMul f s
  | .mulhs f => Sys2Proof.Machine.execMulhs f s
  | .mulhn f => Sys2Proof.Machine.execMulhn f s
  | .divs f => Sys2Proof.Machine.execDivs f s
  | .divn f => Sys2Proof.Machine.execDivn f s
  | .rems f => Sys2Proof.Machine.execRems f s
  | .remn f => Sys2Proof.Machine.execRemn f s
  | .min f => Sys2Proof.Machine.execMin f s
  | .max f => Sys2Proof.Machine.execMax f s
  | .minn f => Sys2Proof.Machine.execMinn f s
  | .maxn f => Sys2Proof.Machine.execMaxn f s
  | .addi f => Sys2Proof.Machine.execAddi f s
  | .andi f => Sys2Proof.Machine.execAndi f s
  | .ori f => Sys2Proof.Machine.execOri f s
  | .xori f => Sys2Proof.Machine.execXori f s
  | .shli f => Sys2Proof.Machine.execShli f s
  | .shri f => Sys2Proof.Machine.execShri f s
  | .srai f => Sys2Proof.Machine.execSrai f s
  | .muli f => Sys2Proof.Machine.execMuli f s
  | .mov f => Sys2Proof.Machine.execMov f s
  | .movi f => Sys2Proof.Machine.execMovi f s
  | .movhi f => Sys2Proof.Machine.execMovhi f s
  | .lea f => Sys2Proof.Machine.execLea f s
  | .sel f => Sys2Proof.Machine.execSel f s
  | .sext f => Sys2Proof.Machine.execSext f s
  | .zext f => Sys2Proof.Machine.execZext f s
  | .bfx f => Sys2Proof.Machine.execBfx f s
  | .bfxn f => Sys2Proof.Machine.execBfxn f s
  | .bfi f => Sys2Proof.Machine.execBfi f s
  | .clz f => Sys2Proof.Machine.execClz f s
  | .ctz f => Sys2Proof.Machine.execCtz f s
  | .popc f => Sys2Proof.Machine.execPopc f s
  | .cmpeq f => Sys2Proof.Machine.execCmpeq f s
  | .cmpne f => Sys2Proof.Machine.execCmpne f s
  | .cmplt f => Sys2Proof.Machine.execCmplt f s
  | .cmple f => Sys2Proof.Machine.execCmple f s
  | .cmpltn f => Sys2Proof.Machine.execCmpltn f s
  | .cmplen f => Sys2Proof.Machine.execCmplen f s
  | .tst f => Sys2Proof.Machine.execTst f s
  | .pand f => Sys2Proof.Machine.execPand f s
  | .por f => Sys2Proof.Machine.execPor f s
  | .pxor f => Sys2Proof.Machine.execPxor f s
  | .pandn f => Sys2Proof.Machine.execPandn f s
  | .pnot f => Sys2Proof.Machine.execPnot f s
  | .pset f => Sys2Proof.Machine.execPset f s
  | .pclr f => Sys2Proof.Machine.execPclr f s
  | .pmov f => Sys2Proof.Machine.execPmov f s
  | .br f => Sys2Proof.Machine.execBr f s
  | .jmp f => Sys2Proof.Machine.execJmp f s
  | .call f => Sys2Proof.Machine.execCall f s
  | .callr f => Sys2Proof.Machine.execCallr f s
  | .ret f => Sys2Proof.Machine.execRet f s
  | .enter f => Sys2Proof.Machine.execEnter f s
  | .leave f => Sys2Proof.Machine.execLeave f s
  | .loop f => Sys2Proof.Machine.execLoop f s
  | .brz f => Sys2Proof.Machine.execBrz f s
  | .brnz f => Sys2Proof.Machine.execBrnz f s
  | .loopset f => Sys2Proof.Machine.execLoopset f s
  | .loopend f => Sys2Proof.Machine.execLoopend f s
  | .nop f => Sys2Proof.Machine.execNop f s
  | .fadd f => Sys2Proof.Machine.execFadd f s
  | .fsub f => Sys2Proof.Machine.execFsub f s
  | .fmul f => Sys2Proof.Machine.execFmul f s
  | .fdiv f => Sys2Proof.Machine.execFdiv f s
  | .fsqrt f => Sys2Proof.Machine.execFsqrt f s
  | .fma f => Sys2Proof.Machine.execFma f s
  | .fmin f => Sys2Proof.Machine.execFmin f s
  | .fmax f => Sys2Proof.Machine.execFmax f s
  | .fneg f => Sys2Proof.Machine.execFneg f s
  | .fabs f => Sys2Proof.Machine.execFabs f s
  | .fsgn f => Sys2Proof.Machine.execFsgn f s
  | .fcmpeq f => Sys2Proof.Machine.execFcmpeq f s
  | .fcmplt f => Sys2Proof.Machine.execFcmplt f s
  | .fcmple f => Sys2Proof.Machine.execFcmple f s
  | .fclass f => Sys2Proof.Machine.execFclass f s
  | .fmov f => Sys2Proof.Machine.execFmov f s
  | .fcvt f => Sys2Proof.Machine.execFcvt f s
  | .fcvti f => Sys2Proof.Machine.execFcvti f s
  | .icvtf f => Sys2Proof.Machine.execIcvtf f s
  | .fmvfs f => Sys2Proof.Machine.execFmvfs f s
  | .fmvsf f => Sys2Proof.Machine.execFmvsf f s
  | .fsel f => Sys2Proof.Machine.execFsel f s
  | .frnd f => Sys2Proof.Machine.execFrnd f s
  | .reservedOpcode code => Sys2Proof.Machine.execReservedOpcode code s
  | .illegalChain => Sys2Proof.Machine.execIllegalChain s
  | .vadd f => Sys2Proof.Machine.execVadd f s
  | .vsub f => Sys2Proof.Machine.execVsub f s
  | .vmul f => Sys2Proof.Machine.execVmul f s
  | .vmulh f => Sys2Proof.Machine.execVmulh f s
  | .vmin f => Sys2Proof.Machine.execVmin f s
  | .vmax f => Sys2Proof.Machine.execVmax f s
  | .vabs f => Sys2Proof.Machine.execVabs f s
  | .vneg f => Sys2Proof.Machine.execVneg f s
  | .vand f => Sys2Proof.Machine.execVand f s
  | .vor f => Sys2Proof.Machine.execVor f s
  | .vxor f => Sys2Proof.Machine.execVxor f s
  | .vandn f => Sys2Proof.Machine.execVandn f s
  | .vshl f => Sys2Proof.Machine.execVshl f s
  | .vshr f => Sys2Proof.Machine.execVshr f s
  | .vsra f => Sys2Proof.Machine.execVsra f s
  | .vnot f => Sys2Proof.Machine.execVnot f s
  | .vfadd f => Sys2Proof.Machine.execVfadd f s
  | .vfsub f => Sys2Proof.Machine.execVfsub f s
  | .vfmul f => Sys2Proof.Machine.execVfmul f s
  | .vfdiv f => Sys2Proof.Machine.execVfdiv f s
  | .vfma f => Sys2Proof.Machine.execVfma f s
  | .vfms f => Sys2Proof.Machine.execVfms f s
  | .vfmin f => Sys2Proof.Machine.execVfmin f s
  | .vfmax f => Sys2Proof.Machine.execVfmax f s
  | .vfabs f => Sys2Proof.Machine.execVfabs f s
  | .vfneg f => Sys2Proof.Machine.execVfneg f s
  | .vfsqrt f => Sys2Proof.Machine.execVfsqrt f s
  | .vrcp f => Sys2Proof.Machine.execVrcp f s
  | .vrsq f => Sys2Proof.Machine.execVrsq f s
  | .vexp2 f => Sys2Proof.Machine.execVexp2 f s
  | .vlog2 f => Sys2Proof.Machine.execVlog2 f s
  | .vsel f => Sys2Proof.Machine.execVsel f s
  | .vcmpeq f => Sys2Proof.Machine.execVcmpeq f s
  | .vcmplt f => Sys2Proof.Machine.execVcmplt f s
  | .vcmple f => Sys2Proof.Machine.execVcmple f s
  | .vfcmpeq f => Sys2Proof.Machine.execVfcmpeq f s
  | .vfcmplt f => Sys2Proof.Machine.execVfcmplt f s
  | .vfcmple f => Sys2Proof.Machine.execVfcmple f s
  | .vredsum f => Sys2Proof.Machine.execVredsum f s
  | .vredmax f => Sys2Proof.Machine.execVredmax f s
  | .vredmin f => Sys2Proof.Machine.execVredmin f s
  | .vfredsum f => Sys2Proof.Machine.execVfredsum f s
  | .vfredmax f => Sys2Proof.Machine.execVfredmax f s
  | .vfredmin f => Sys2Proof.Machine.execVfredmin f s
  | .vperm f => Sys2Proof.Machine.execVperm f s
  | .vslide f => Sys2Proof.Machine.execVslide f s
  | .vzip f => Sys2Proof.Machine.execVzip f s
  | .vunzip f => Sys2Proof.Machine.execVunzip f s
  | .vmov f => Sys2Proof.Machine.execVmov f s
  | .vsplat f => Sys2Proof.Machine.execVsplat f s
  | .vext f => Sys2Proof.Machine.execVext f s
  | .vins f => Sys2Proof.Machine.execVins f s
  | .vdot pair f => Sys2Proof.Machine.execVdot pair f s
  | .vcvtn pair f => Sys2Proof.Machine.execVcvtn pair f s
  | .vcvtw pair f => Sys2Proof.Machine.execVcvtw pair f s
  | .push f => Sys2Proof.Machine.execPush f s
  | .pop f => Sys2Proof.Machine.execPop f s
  | .popq f => Sys2Proof.Machine.execPopq f s
  | .engst f => Sys2Proof.Machine.execEngst f s
  | .engabort f => Sys2Proof.Machine.execEngabort f s
  | .slotld f => Sys2Proof.Machine.execSlotld f s
  | .rowprog f => Sys2Proof.Machine.execRowprog f s
  | .cbload f => Sys2Proof.Machine.execCbload f s
  | .mcmd f => Sys2Proof.Machine.execMcmd f s
  | .gcmd f => Sys2Proof.Machine.execGcmd f s
  | .xcmd f => Sys2Proof.Machine.execXcmd f s
  | .scmd f => Sys2Proof.Machine.execScmd f s
  | .ccmd f => Sys2Proof.Machine.execCcmd f s
  | .cmdset f => Sys2Proof.Machine.execCmdset f s
  | .cmdvc f => Sys2Proof.Machine.execCmdvc f s
  | .cmdadr f => Sys2Proof.Machine.execCmdadr f s
  | .mma pair f => Sys2Proof.Machine.execMma pair f s
  | .mtld f => Sys2Proof.Machine.execMtld f s
  | .mtst f => Sys2Proof.Machine.execMtst f s
  | .mtmma f => Sys2Proof.Machine.execMtmma f s
  | .mtzero f => Sys2Proof.Machine.execMtzero f s
  | .mtadd f => Sys2Proof.Machine.execMtadd f s
  | .mtmov f => Sys2Proof.Machine.execMtmov f s
  | .mtmovRowIn f => Sys2Proof.Machine.execMtmovRowIn f s
  | .mtmovRowOut f => Sys2Proof.Machine.execMtmovRowOut f s
  | .mtcvt f => Sys2Proof.Machine.execMtcvt f s
  | .mtred f => Sys2Proof.Machine.execMtred f s
  | .ld8 f => Sys2Proof.Machine.execLd8 f s
  | .ld8s f => Sys2Proof.Machine.execLd8s f s
  | .ld16 f => Sys2Proof.Machine.execLd16 f s
  | .ld16s f => Sys2Proof.Machine.execLd16s f s
  | .ld32 f => Sys2Proof.Machine.execLd32 f s
  | .ld32s f => Sys2Proof.Machine.execLd32s f s
  | .ld64 f => Sys2Proof.Machine.execLd64 f s
  | .ldf f => Sys2Proof.Machine.execLdf f s
  | .st8 f => Sys2Proof.Machine.execSt8 f s
  | .st16 f => Sys2Proof.Machine.execSt16 f s
  | .st32 f => Sys2Proof.Machine.execSt32 f s
  | .st64 f => Sys2Proof.Machine.execSt64 f s
  | .stf f => Sys2Proof.Machine.execStf f s
  | .vld f => Sys2Proof.Machine.execVld f s
  | .vst f => Sys2Proof.Machine.execVst f s
  | .vlds f => Sys2Proof.Machine.execVlds f s
  | .vsts f => Sys2Proof.Machine.execVsts f s
  | .pf f => Sys2Proof.Machine.execPf f s
  | .pfw f => Sys2Proof.Machine.execPfw f s
  | .qld f => Sys2Proof.Machine.execQld f s
  | .qst f => Sys2Proof.Machine.execQst f s
  | .qvld f => Sys2Proof.Machine.execQvld f s
  | .chunkEnd f => Sys2Proof.Machine.execChunkEnd f s
  | .fence f => Sys2Proof.Machine.execFence f s
  | .amoadd f => Sys2Proof.Machine.execAmoadd f s
  | .amoand f => Sys2Proof.Machine.execAmoand f s
  | .amoor f => Sys2Proof.Machine.execAmoor f s
  | .amoxor f => Sys2Proof.Machine.execAmoxor f s
  | .amomin f => Sys2Proof.Machine.execAmomin f s
  | .amomax f => Sys2Proof.Machine.execAmomax f s
  | .amominn f => Sys2Proof.Machine.execAmominn f s
  | .amomaxn f => Sys2Proof.Machine.execAmomaxn f s
  | .amoswp f => Sys2Proof.Machine.execAmoswp f s
  | .amocas f => Sys2Proof.Machine.execAmocas f s
  | .mark f => Sys2Proof.Machine.execMark f s
  | .cut f => Sys2Proof.Machine.execCut f s
  | .graft f => Sys2Proof.Machine.execGraft f s
  | .slfree f => Sys2Proof.Machine.execSlfree f s
  | .slinfo f => Sys2Proof.Machine.execSlinfo f s
  | .unmark f => Sys2Proof.Machine.execUnmark f s
  | .bar f => Sys2Proof.Machine.execBar f s
  | .voteAll f => Sys2Proof.Machine.execVoteAll f s
  | .voteAny f => Sys2Proof.Machine.execVoteAny f s
  | .voteSum f => Sys2Proof.Machine.execVoteSum f s
  | .wait f => Sys2Proof.Machine.execWait f s
  | .arrive f => Sys2Proof.Machine.execArrive f s
  | .trig f => Sys2Proof.Machine.execTrig f s
  | .ttsel f => Sys2Proof.Machine.execTtsel f s
  | .ttld f => Sys2Proof.Machine.execTtld f s
  | .ttgo f => Sys2Proof.Machine.execTtgo f s
  | .ttst f => Sys2Proof.Machine.execTtst f s
  | .cclr f => Sys2Proof.Machine.execCclr f s
  | .split f => Sys2Proof.Machine.execSplit f s
  | .fuse f => Sys2Proof.Machine.execFuse f s
  | .trap f => Sys2Proof.Machine.execTrap f s
  | .rte f => Sys2Proof.Machine.execRte f s
  | .csrr f => Sys2Proof.Machine.execCsrr f s
  | .csrw f => Sys2Proof.Machine.execCsrw f s
  | .csrs f => Sys2Proof.Machine.execCsrs f s
  | .csrc f => Sys2Proof.Machine.execCsrc f s
  | .tlbw f => Sys2Proof.Machine.execTlbw f s
  | .tlbinv f => Sys2Proof.Machine.execTlbinv f s
  | .start f => Sys2Proof.Machine.execStart f s
  | .join f => Sys2Proof.Machine.execJoin f s
  | .park f => Sys2Proof.Machine.execPark f s
  | .jenq f => Sys2Proof.Machine.execJenq f s
  | .workq f => Sys2Proof.Machine.execWorkq f s
  | .brk f => Sys2Proof.Machine.execBrk f s
  | .restrPut f => Sys2Proof.Machine.execRestrPut f s
  | .restrCollect f => Sys2Proof.Machine.execRestrCollect f s
  | .prolgAdd f => Sys2Proof.Machine.execProlgAdd f s
  | .prolgPut f => Sys2Proof.Machine.execProlgPut f s
  | .restrf f => Sys2Proof.Machine.execRestrf f s
  | .prolgf f => Sys2Proof.Machine.execProlgf f s
  | .rwld f => Sys2Proof.Machine.execRwld f s
  | .pwld f => Sys2Proof.Machine.execPwld f s
  | .wsel f => Sys2Proof.Machine.execWsel f s
  | .layq f => Sys2Proof.Machine.execLayq f s
  | .matrixMul core ctx => Sys2Proof.Machine.execMatrixMul core ctx s
  | .matrixClear core ctx => Sys2Proof.Machine.execMatrixClear core ctx s
  | .matrixMarker core ctx => Sys2Proof.Machine.execMatrixMarker core ctx s
  | .codebookItem core ctx => Sys2Proof.Machine.execCodebookItem core ctx s
  | .gather core ctx => Sys2Proof.Machine.execGather core ctx s
  | .gmul core ctx => Sys2Proof.Machine.execGmul core ctx s
  | .copy clus ch => Sys2Proof.Machine.execCopy clus ch s
  | .mcast clus ch => Sys2Proof.Machine.execMcast clus ch s
  | .fill clus ch => Sys2Proof.Machine.execFill clus ch s
  | .topk core ctx => Sys2Proof.Machine.execTopk core ctx s
  | .csum core ctx => Sys2Proof.Machine.execCsum core ctx s
  | .engineCompletion core ctx port => Sys2Proof.Machine.execEngineCompletion core ctx port s
  | .rotationBegin core => Sys2Proof.Machine.execRotationBegin core s
  | .accessHalfIssue core ctx => Sys2Proof.Machine.execAccessHalfIssue core ctx s
  | .ldqEntryArrival core ctx => Sys2Proof.Machine.execLdqEntryArrival core ctx s
  | .contextReady core ctx => Sys2Proof.Machine.execContextReady core ctx s
  | .chunkCommit core ctx => Sys2Proof.Machine.execChunkCommit core ctx s
  | .queueEnable q tailw => Sys2Proof.Machine.execQueueEnable q tailw s
  | .queueEnableDeferred q => Sys2Proof.Machine.execQueueEnableDeferred q s
  | .queueDisable q tailw => Sys2Proof.Machine.execQueueDisable q tailw s
  | .tailUpdate q tailw => Sys2Proof.Machine.execTailUpdate q tailw s
  | .completionDoorbell q chead => Sys2Proof.Machine.execCompletionDoorbell q chead s
  | .triggerCounterWrite k v => Sys2Proof.Machine.execTriggerCounterWrite k v s
  | .cardFetch q => Sys2Proof.Machine.execCardFetch q s
  | .quantumBoundary layer => Sys2Proof.Machine.execQuantumBoundary layer s
  | .triggerFire q => Sys2Proof.Machine.execTriggerFire q s
  | .dealingRound layer => Sys2Proof.Machine.execDealingRound layer s
  | .cycleSectionStart card core => Sys2Proof.Machine.execCycleSectionStart card core s
  | .workqAnswer core ctx => Sys2Proof.Machine.execWorkqAnswer core ctx s
  | .spallocAllocate core ctx => Sys2Proof.Machine.execSpallocAllocate core ctx s
  | .spallocFree core ctx => Sys2Proof.Machine.execSpallocFree core ctx s
  | .spallocResRead core ctx => Sys2Proof.Machine.execSpallocResRead core ctx s
  | .watchdogPreempt card => Sys2Proof.Machine.execWatchdogPreempt card s
  | .watchdogKill card => Sys2Proof.Machine.execWatchdogKill card s
  | .watchdogFence card => Sys2Proof.Machine.execWatchdogFence card s
  | .imageLoad addr load asid => Sys2Proof.Machine.execImageLoad addr load asid s
  | .variantReselection => Sys2Proof.Machine.execVariantReselection s
  | .cardRetirement card => Sys2Proof.Machine.execCardRetirement card s
  | .completionRecordWrite q => Sys2Proof.Machine.execCompletionRecordWrite q s
  | .finalCommit dom => Sys2Proof.Machine.execFinalCommit dom s
  | .contextEnd core ctx => Sys2Proof.Machine.execContextEnd core ctx s
  | .missMessage core ctx unit => Sys2Proof.Machine.execMissMessage core ctx unit s
  | .stage2FaultRecord x => Sys2Proof.Machine.execStage2FaultRecord x s
  | .leaseExpiry core entry => Sys2Proof.Machine.execLeaseExpiry core entry s
  | .shootdownMessage core => Sys2Proof.Machine.execShootdownMessage core s
  | .shootdownAck core => Sys2Proof.Machine.execShootdownAck core s
  | .wakeTlbInvalidate core => Sys2Proof.Machine.execWakeTlbInvalidate core s
  | .linkRendezvous parent => Sys2Proof.Machine.execLinkRendezvous parent s
  | .barrierCommit dom => Sys2Proof.Machine.execBarrierCommit dom s
  | .barrierRelease dom => Sys2Proof.Machine.execBarrierRelease dom s
  | .voteCommit dom => Sys2Proof.Machine.execVoteCommit dom s
  | .fabricToken port num => Sys2Proof.Machine.execFabricToken port num s
  | .ttSendEntry core entry => Sys2Proof.Machine.execTtSendEntry core entry s
  | .ttReceiveEntry core entry => Sys2Proof.Machine.execTtReceiveEntry core entry s
  | .ttForwardEntry core entry => Sys2Proof.Machine.execTtForwardEntry core entry s
  | .ttLostWord core dir => Sys2Proof.Machine.execTtLostWord core dir s
  | .quekinFlit port peer stream words => Sys2Proof.Machine.execQuekinFlit port peer stream words s
  | .fillerDisplacement core => Sys2Proof.Machine.execFillerDisplacement core s
  | .mailboxHeldEntry core => Sys2Proof.Machine.execMailboxHeldEntry core s
  | .mboxPop core => Sys2Proof.Machine.execMboxPop core s
  | .ctxResume firmware target => Sys2Proof.Machine.execCtxResume firmware target s
  | .ctxDeliver firmware target => Sys2Proof.Machine.execCtxDeliver firmware target s
  | .ctxKill firmware target => Sys2Proof.Machine.execCtxKill firmware target s
  | .ctxUnpark firmware target => Sys2Proof.Machine.execCtxUnpark firmware target s
  | .ctxRollback firmware target => Sys2Proof.Machine.execCtxRollback firmware target s
  | .ctxPreempt firmware target => Sys2Proof.Machine.execCtxPreempt firmware target s
  | .uncorrectableError loc => Sys2Proof.Machine.execUncorrectableError loc s
  | .pairMismatch entry => Sys2Proof.Machine.execPairMismatch entry s
  | .mergeTimeout entry => Sys2Proof.Machine.execMergeTimeout entry s
  | .rollback dom => Sys2Proof.Machine.execRollback dom s
  | .preemption card => Sys2Proof.Machine.execPreemption card s
  | .preemptionResume card core => Sys2Proof.Machine.execPreemptionResume card core s
  | .ckptSeal => Sys2Proof.Machine.execCkptSeal s
  | .ckptRestore => Sys2Proof.Machine.execCkptRestore s
  | .ckptBind => Sys2Proof.Machine.execCkptBind s
  | .ckptQuote => Sys2Proof.Machine.execCkptQuote s
  | .ckptCommitMessage tm counter signed sig akpub akcert => Sys2Proof.Machine.execCkptCommitMessage tm counter signed sig akpub akcert s
  | .ckptAckTimeout => Sys2Proof.Machine.execCkptAckTimeout s
  | .intervalBoundary meas demand energy => Sys2Proof.Machine.execIntervalBoundary meas demand energy s
  | .ptpMessage time domain => Sys2Proof.Machine.execPtpMessage time domain s
  | .telemetryRecord => Sys2Proof.Machine.execTelemetryRecord s
  | .telEnergyRead core ctx => Sys2Proof.Machine.execTelEnergyRead core ctx s
  | .clQuiesce => Sys2Proof.Machine.execClQuiesce s
  | .clSave => Sys2Proof.Machine.execClSave s
  | .clClkoff => Sys2Proof.Machine.execClClkoff s
  | .clRailoff => Sys2Proof.Machine.execClRailoff s
  | .clWake => Sys2Proof.Machine.execClWake s
  | .quiesceDone clus => Sys2Proof.Machine.execQuiesceDone clus s
  | .saveDone clus => Sys2Proof.Machine.execSaveDone clus s
  | .clockStopped clus => Sys2Proof.Machine.execClockStopped clus s
  | .railOff clus => Sys2Proof.Machine.execRailOff clus s
  | .wakeDone clus => Sys2Proof.Machine.execWakeDone clus s
  | .deviceReset => Sys2Proof.Machine.execDeviceReset s
  | .functionReady fn => Sys2Proof.Machine.execFunctionReady fn s
  | .faultMessage core ctx => Sys2Proof.Machine.execFaultMessage core ctx s
  | .correctedError loc => Sys2Proof.Machine.execCorrectedError loc s
  | .holdoverEntry => Sys2Proof.Machine.execHoldoverEntry s
  | .quekinLinkError port => Sys2Proof.Machine.execQuekinLinkError port s
  | .clockRestart clus => Sys2Proof.Machine.execClockRestart clus s
  | .commitAcknowledgement env => Sys2Proof.Machine.execCommitAcknowledgement env s

end Sys2Proof.Machine
end

