-- ==== Sys2Proof/Machine/Rows.lean ====
section
/-! DEFINITION. The meaning of each opcode, in the order of the opcode map (R51 to R58): what `exec` does with the instruction
that the opcode decodes to, without building that instruction. -/

namespace Sys2Proof.Machine

def runPage0a (f : Fields) : List (Nat × (State → Host.Outcome State Fault Refusal)) := [
  (0x00, execAdd f),
  (0x01, execSub f),
  (0x02, execAnd f),
  (0x03, execOr f),
  (0x04, execXor f),
  (0x05, execAndn f),
  (0x06, execShl f),
  (0x07, execShr f),
  (0x08, execSra f),
  (0x09, execMul f),
  (0x0A, execMulhs f),
  (0x0B, execMulhn f),
  (0x0C, execDivs f),
  (0x0D, execDivn f),
  (0x0E, execRems f),
  (0x0F, execRemn f),
  (0x10, execMin f),
  (0x11, execMax f),
  (0x12, execMinn f),
  (0x13, execMaxn f),
  (0x14, execAddi f),
  (0x15, execAndi f),
  (0x16, execOri f),
  (0x17, execXori f)]
def runPage0b (f : Fields) : List (Nat × (State → Host.Outcome State Fault Refusal)) := [
  (0x18, execShli f),
  (0x19, execShri f),
  (0x1A, execSrai f),
  (0x1B, execMuli f),
  (0x1C, execMov f),
  (0x1D, execMovi f),
  (0x1E, execMovhi f),
  (0x1F, execLea f),
  (0x20, execSel f),
  (0x21, execSext f),
  (0x22, execZext f),
  (0x23, execBfx f),
  (0x24, execBfxn f),
  (0x25, execBfi f),
  (0x26, execClz f),
  (0x27, execCtz f),
  (0x28, execPopc f),
  (0x29, execCmpeq f),
  (0x2A, execCmpne f),
  (0x2B, execCmplt f),
  (0x2C, execCmple f),
  (0x2D, execCmpltn f),
  (0x2E, execCmplen f),
  (0x2F, execTst f)]
def runPage0c (f : Fields) : List (Nat × (State → Host.Outcome State Fault Refusal)) := [
  (0x30, execPand f),
  (0x31, execPor f),
  (0x32, execPxor f),
  (0x33, execPandn f),
  (0x34, execPnot f),
  (0x35, execPset f),
  (0x36, execPclr f),
  (0x37, execPmov f),
  (0x38, execBr f),
  (0x39, execJmp f),
  (0x3A, execCall f),
  (0x3B, execCallr f),
  (0x3C, execRet f),
  (0x3D, execEnter f),
  (0x3E, execLeave f),
  (0x3F, execLoop f),
  (0x40, execBrz f),
  (0x41, execBrnz f),
  (0x42, execLoopset f),
  (0x43, execLoopend f),
  (0x44, execNop f),
  (0x48, execFadd f),
  (0x49, execFsub f),
  (0x4A, execFmul f)]
def runPage0d (f : Fields) : List (Nat × (State → Host.Outcome State Fault Refusal)) := [
  (0x4B, execFdiv f),
  (0x4C, execFsqrt f),
  (0x4D, execFma f),
  (0x4E, execFmin f),
  (0x4F, execFmax f),
  (0x50, execFneg f),
  (0x51, execFabs f),
  (0x52, execFsgn f),
  (0x53, execFcmpeq f),
  (0x54, execFcmplt f),
  (0x55, execFcmple f),
  (0x56, execFclass f),
  (0x57, execFmov f),
  (0x58, execFcvt f),
  (0x59, execFcvti f),
  (0x5A, execIcvtf f),
  (0x5B, execFmvfs f),
  (0x5C, execFmvsf f),
  (0x5D, execFsel f),
  (0x5E, execFrnd f)]
/-- Page 0 of the opcode map. -/
def runPage0 (f : Fields) : List (Nat × (State → Host.Outcome State Fault Refusal)) := runPage0a f ++ runPage0b f ++ runPage0c f ++ runPage0d f

def runPage1a (f : Fields) : List (Nat × (State → Host.Outcome State Fault Refusal)) := [
  (0x00, execVadd f),
  (0x01, execVsub f),
  (0x02, execVmul f),
  (0x03, execVmulh f),
  (0x04, execVmin f),
  (0x05, execVmax f),
  (0x06, execVabs f),
  (0x07, execVneg f),
  (0x08, execVand f),
  (0x09, execVor f),
  (0x0A, execVxor f),
  (0x0B, execVandn f),
  (0x0C, execVshl f),
  (0x0D, execVshr f),
  (0x0E, execVsra f),
  (0x0F, execVnot f),
  (0x10, execVfadd f),
  (0x11, execVfsub f),
  (0x12, execVfmul f),
  (0x13, execVfdiv f),
  (0x14, execVfma f),
  (0x15, execVfms f),
  (0x16, execVfmin f),
  (0x17, execVfmax f)]
def runPage1b (f : Fields) : List (Nat × (State → Host.Outcome State Fault Refusal)) := [
  (0x18, execVfabs f),
  (0x19, execVfneg f),
  (0x1A, execVfsqrt f),
  (0x1B, execVrcp f),
  (0x1C, execVrsq f),
  (0x1D, execVexp2 f),
  (0x1E, execVlog2 f),
  (0x1F, execVsel f),
  (0x20, execVcmpeq f),
  (0x21, execVcmplt f),
  (0x22, execVcmple f),
  (0x23, execVfcmpeq f),
  (0x24, execVfcmplt f),
  (0x25, execVfcmple f),
  (0x26, execVredsum f),
  (0x27, execVredmax f),
  (0x28, execVredmin f),
  (0x29, execVfredsum f),
  (0x2A, execVfredmax f),
  (0x2B, execVfredmin f),
  (0x2C, execVperm f),
  (0x2D, execVslide f),
  (0x2E, execVzip f),
  (0x2F, execVunzip f)]
def runPage1c (f : Fields) : List (Nat × (State → Host.Outcome State Fault Refusal)) := [
  (0x30, execVmov f),
  (0x31, execVsplat f),
  (0x32, execVext f),
  (0x33, execVins f)]
/-- Page 1 of the opcode map. -/
def runPage1 (f : Fields) : List (Nat × (State → Host.Outcome State Fault Refusal)) := runPage1a f ++ runPage1b f ++ runPage1c f

def runPage2a (f : Fields) : List (Nat × (State → Host.Outcome State Fault Refusal)) := [
  (0x00, execPush f),
  (0x01, execPop f),
  (0x02, execPopq f),
  (0x03, execEngst f),
  (0x04, execEngabort f),
  (0x05, execSlotld f),
  (0x06, execRowprog f),
  (0x07, execCbload f),
  (0x08, execMcmd f),
  (0x09, execGcmd f),
  (0x0A, execXcmd f),
  (0x0B, execScmd f),
  (0x0C, execCcmd f),
  (0x0D, execCmdset f),
  (0x0E, execCmdvc f),
  (0x0F, execCmdadr f),
  (0x10, execMtld f),
  (0x11, execMtst f),
  (0x12, execMtmma f),
  (0x13, execMtzero f),
  (0x14, execMtadd f),
  (0x15, (if f.aux.toNat = 1 then execMtmovRowIn f else if f.aux.toNat = 2 then execMtmovRowOut f else execMtmov f)),
  (0x16, execMtcvt f),
  (0x17, execMtred f)]
/-- Page 2 of the opcode map. -/
def runPage2 (f : Fields) : List (Nat × (State → Host.Outcome State Fault Refusal)) := runPage2a f

def runPage4a (f : Fields) : List (Nat × (State → Host.Outcome State Fault Refusal)) := [
  (0x00, execLd8 f),
  (0x01, execLd8s f),
  (0x02, execLd16 f),
  (0x03, execLd16s f),
  (0x04, execLd32 f),
  (0x05, execLd32s f),
  (0x06, execLd64 f),
  (0x07, execLdf f),
  (0x08, execSt8 f),
  (0x09, execSt16 f),
  (0x0A, execSt32 f),
  (0x0B, execSt64 f),
  (0x0C, execStf f),
  (0x0D, execVld f),
  (0x0E, execVst f),
  (0x0F, execVlds f),
  (0x10, execVsts f),
  (0x11, execPf f),
  (0x12, execPfw f),
  (0x13, execQld f),
  (0x14, execQst f),
  (0x15, execQvld f),
  (0x16, execChunkEnd f),
  (0x17, execFence f)]
def runPage4b (f : Fields) : List (Nat × (State → Host.Outcome State Fault Refusal)) := [
  (0x18, execAmoadd f),
  (0x19, execAmoand f),
  (0x1A, execAmoor f),
  (0x1B, execAmoxor f),
  (0x1C, execAmomin f),
  (0x1D, execAmomax f),
  (0x1E, execAmominn f),
  (0x1F, execAmomaxn f),
  (0x20, execAmoswp f),
  (0x21, execAmocas f)]
/-- Page 4 of the opcode map. -/
def runPage4 (f : Fields) : List (Nat × (State → Host.Outcome State Fault Refusal)) := runPage4a f ++ runPage4b f

def runPage5a (f : Fields) : List (Nat × (State → Host.Outcome State Fault Refusal)) := [
  (0x00, execMark f),
  (0x01, execCut f),
  (0x02, execGraft f),
  (0x03, execSlfree f),
  (0x04, execSlinfo f),
  (0x05, execUnmark f),
  (0x08, execBar f),
  (0x09, execVoteAll f),
  (0x0A, execVoteAny f),
  (0x0B, execVoteSum f),
  (0x0C, execWait f),
  (0x0D, execArrive f),
  (0x0E, execTrig f),
  (0x0F, execTtsel f),
  (0x10, execTtld f),
  (0x11, execTtgo f),
  (0x12, execTtst f),
  (0x13, execCclr f),
  (0x14, execSplit f),
  (0x15, execFuse f),
  (0x18, execTrap f),
  (0x19, execRte f),
  (0x1A, execCsrr f),
  (0x1B, execCsrw f)]
def runPage5b (f : Fields) : List (Nat × (State → Host.Outcome State Fault Refusal)) := [
  (0x1C, execCsrs f),
  (0x1D, execCsrc f),
  (0x1E, execTlbw f),
  (0x1F, execTlbinv f),
  (0x20, execStart f),
  (0x21, execJoin f),
  (0x22, execPark f),
  (0x23, execJenq f),
  (0x24, execWorkq f),
  (0x25, execBrk f)]
/-- Page 5 of the opcode map. -/
def runPage5 (f : Fields) : List (Nat × (State → Host.Outcome State Fault Refusal)) := runPage5a f ++ runPage5b f

def runPage6a (f : Fields) : List (Nat × (State → Host.Outcome State Fault Refusal)) := [
  (0x00, (if f.aux.toNat % 4 = 0 then execRestrPut f else execRestrCollect f)),
  (0x01, (if f.aux.toNat % 4 = 0 then execProlgAdd f else execProlgPut f)),
  (0x02, execRestrf f),
  (0x03, execProlgf f),
  (0x04, execRwld f),
  (0x05, execPwld f),
  (0x06, execWsel f),
  (0x07, execLayq f)]
/-- Page 6 of the opcode map. -/
def runPage6 (f : Fields) : List (Nat × (State → Host.Outcome State Fault Refusal)) := runPage6a f

/-- Page 3: class and pair code (R55). -/
def runPage3 (opc : Nat) (f : Fields) : Option (State → Host.Outcome State Fault Refusal) :=
  let pair := BitVec.ofNat 5 opc
  let code := opc % 32
  match opc / 32 with
  | 0 => if code < 20 then some (execVdot pair f) else none
  | 1 => if 20 ≤ code then some (execVcvtn pair f) else none
  | 2 => if 20 ≤ code then some (execVcvtw pair f) else none
  | 3 => if code < 20 then some (execMma pair f) else none
  | _ => none

/-- The meaning of an opcode with its fields; none where the opcode is not allocated. -/
def runAt (page opc : Nat) (f : Fields) : Option (State → Host.Outcome State Fault Refusal) :=
  match page with
  | 0 => Sys2Proof.rowAt opc (runPage0 f)
  | 1 => Sys2Proof.rowAt opc (runPage1 f)
  | 2 => Sys2Proof.rowAt opc (runPage2 f)
  | 3 => runPage3 opc f
  | 4 => Sys2Proof.rowAt opc (runPage4 f)
  | 5 => Sys2Proof.rowAt opc (runPage5 f)
  | 6 => Sys2Proof.rowAt opc (runPage6 f)
  | _ => none

end Sys2Proof.Machine
end

