-- ==== Sys2Proof/Machine/Schedule.lean ====
section
/-! DEFINITION. What happens next: the device steps that are due, the steps whose conditions have come to hold, and a core's issue of
its next instruction (R129). Where the spec leaves an order open, `turns` fixes it, and otherwise the order here (log 2). -/

namespace Sys2Proof.Machine

/-! Steps that are due. -/

/-- One unit of a context's head command at an engine port; at the matrix unit a chunk of its fused gather goes first (R188). -/
def headStep (c : CoreId) (k port : Nat) (s : State) : Host.Outcome State Fault Refusal :=
  if port = 0 ∧ gmulWaits s ⟨c, k⟩ then execGmul c k s
  else match headOf s ⟨c, k⟩ port with
  | none => .next s
  | some h =>
    match port with
    | 0 =>
      if h.isCodebook then execCodebookItem c k s
      else (match cmdOp h.dw with | 0 => execMatrixMul c k s | 1 => execMatrixClear c k s | _ => execMatrixMarker c k s)
    | 1 => if cmdOp h.dw = 0 then execGather c k s else execGmul c k s
    | 2 => execCsum c k s
    | _ => execTopk c k s

/-- A context's head command at an engine port completes where its end is reached; else the engine serves the context whose turn it is
(R169, R171, R183, R189). -/
def engineStep (c : CoreId) (k port : Nat) (s : State) : Host.Outcome State Fault Refusal :=
  if (((s.ctx ⟨c, k⟩).port port).input.head?.bind (·.outcome)).isSome then execEngineCompletion c k port s
  else match engineTurn s c port with
    | none => .next s
    | some k => headStep c k port (takeTurn s c port k)

/-- The active operation of a copy channel runs, or completes where its end is reached (R210, R212). -/
def copyStep (cl ch : Nat) (s : State) : Host.Outcome State Fault Refusal :=
  match (s.chan cl ch).active with
  | none => .next s
  | some o =>
    if o.cmd.outcome.isSome then execEngineCompletion o.owner.core o.owner.ctx o.port s
    else match cmdOp o.cmd.dw with | 0 => execCopy cl ch s | 1 => execMcast cl ch s | _ => execFill cl ch s

/-- An entry of a running timetable acts (R265, R268). -/
def timetableStep (c : CoreId) (entry : Nat) (s : State) : Host.Outcome State Fault Refusal :=
  match (runningEntries (s.core c).tt)[entry]? with
  | none => .next s
  | some e => match e.kind with | 0 => execTtSendEntry c entry s | 1 => execTtReceiveEntry c entry s | _ => execTtForwardEntry c entry s

/-- The step that a due entry names. -/
def runDue (d : Due) (s : State) : Host.Outcome State Fault Refusal :=
  match d with
  | .faultMessage c k => execFaultMessage c k s
  | .missMessage c k unit => execMissMessage c k unit s
  | .cardFetch q => execCardFetch q s
  | .dealingRound l => execDealingRound l s
  | .cardRetirement n => execCardRetirement n s
  | .completionRecordWrite q => execCompletionRecordWrite q s
  | .queueEnableDeferred q => execQueueEnableDeferred q s
  | .triggerFire q => execTriggerFire q s
  | .quantumBoundary l => execQuantumBoundary l s
  | .workqAnswer c k => execWorkqAnswer c k s
  | .spallocAllocate c k => execSpallocAllocate c k s
  | .spallocFree c k => execSpallocFree c k s
  | .contextEnd c k => execContextEnd c k s
  | .finalCommit d => execFinalCommit d s
  | .barrierCommit d => execBarrierCommit d s
  | .barrierRelease d => execBarrierRelease d s
  | .voteCommit d => execVoteCommit d s
  | .linkRendezvous c => execLinkRendezvous c s
  | .rollback d => execRollback d s
  | .preemption n => execPreemption n s
  | .resume n c => execPreemptionResume n c s
  | .watchdogKill n => execWatchdogKill n s
  | .cycleSectionStart n c => execCycleSectionStart n c s
  | .engine c k port => engineStep c k port s
  | .completion c k port => execEngineCompletion c k port s
  | .channel cl ch => copyStep cl ch s
  | .timetable c entry => timetableStep c entry s
  | .lostWord c dir => execTtLostWord c dir s
  | .mailboxHeldEntry c => execMailboxHeldEntry c s
  | .pairMismatch n => execPairMismatch n s
  | .shootdownMessage c => execShootdownMessage c s
  | .shootdownAck c => execShootdownAck c s
  | .variantReselection => execVariantReselection s
  | .fillerDisplacement c => execFillerDisplacement c s
  | .rotation c => execRotationBegin c s
  | .quiesceDone cl => execQuiesceDone cl s
  | .saveDone cl => execSaveDone cl s
  | .clockStopped cl => execClockStopped cl s
  | .railOff cl => execRailOff cl s
  | .clockRestart cl => execClockRestart cl s
  | .wakeDone cl => execWakeDone cl s
  | .ckpt op => (match op with | 1 => execCkptSeal s | 2 => execCkptRestore s | 3 => execCkptBind s | _ => execCkptQuote s)
  | .failedUnit l => execUncorrectableError l s
  | .telemetry => execTelemetryRecord s
  | .contextReady c k => execContextReady c k s
  | .chunkCommit c k => execChunkCommit c k s
  | .accessHalf c k => execAccessHalfIssue c k s
  | .ldqArrival c k => execLdqEntryArrival c k s
  | .retry => .next { s with agenda := s.agenda ++ s.held, held := [] }

/-! Steps whose conditions have come to hold. -/

/-- A gating state whose conditions hold now (R356). -/
def gateStep (s : State) : Option Due :=
  (s.clus.find? fun k => k.2.gate == .quiescing && quiet s k.1).map fun k => .quiesceDone k.1

/-- A rendezvous or a final commit whose conditions hold now (R259, R262, R364). -/
def domainStep (s : State) : Option Due :=
  s.doms.findSome? fun d =>
    let n := d.1
    if n = 0 then none
    else if barrierReady s n then some (.barrierCommit n)
    else if allArrived s n && !(formsOf s n).contains 0 then some (.voteCommit n)
    else if d.2.phs && d.2.members.isEmpty && !awayFrom s n && exchangesDone s n && ctxsIn s n != []
      && (exportsLive s (coresIn s n) || exportMoves s (coresIn s n)) then some (.finalCommit n)
    else none

/-- A context whose chunk may commit, or that may end, or whose stall is over (R124, R129, R207). -/
def ctxStep (s : State) (a : CtxId) : Option Due :=
  let c := s.ctx a
  if c.chunk.ended && commitMoves s a then some (.chunkCommit a.core a.ctx)
  else match c.status with
    | .parking => if mayEnd s a then some (.contextEnd a.core a.ctx) else none
    | .waiting w => if waitReady s a w then some (.contextReady a.core a.ctx) else none
    | _ => none

/-- A core to be left whose group stands at its boundary (R331). -/
def leaveStep (s : State) : Option Due :=
  s.cores.findSome? fun k =>
    let c := coreOfKey k.1
    if k.2.leaving && mayLeave s (groupOf s c) then (s.ctx ⟨c, 0⟩).card.map fun n => .preemption n else none

/-- What the access half does for a context that waits for it: data that has still to land, or a further access (R127, R128). -/
def accessStep (s : State) (a : CtxId) : Option Due :=
  let c := s.ctx a
  let scan := if accessOpen s a && (scanFrom s a).isSome then some (Due.accessHalf a.core a.ctx) else none
  if a.core.kind ≠ .l0 then none
  else match c.status with
    | .waiting (.ldq _) => if c.r.ldqDue ≠ [] ∧ c.r.ldq.length < 8 then some (.ldqArrival a.core a.ctx) else scan
    | .waiting .stq => scan
    | _ => none

/-- A core that has removed the entries of a shoot-down and may acknowledge it (R233). -/
def shootStep (s : State) : Option Due :=
  (s.cores.find? fun k => k.2.shoot.any (fun x => x.2.2.2) && mayAck s (coreOfKey k.1)).map fun k => .shootdownAck (coreOfKey k.1)

/-- A matrix unit whose rotation with staged slots is to begin (R183). -/
def rotationStep (s : State) : Option Due := (s.cores.find? fun k => rotationOver s k.2).map fun k => .rotation (coreOfKey k.1)

/-- Whether an entry of a running timetable moves now. -/
def entryMoves (s : State) (c : CoreId) (i : Nat) (e : TtEntry) : Bool :=
  (entryNow s c i e.kind).isSome || ((quekinNow s c i e.kind).isSome &&
    (if e.kind = 0 then bitOf s.dev.readyQl.toNat e.qport
     else s.quekin.any fun x => x.1 == e.qport && x.2.1 == e.peer && x.2.2.1 == e.stream))

/-- What the routers do next: a word that nothing took is lost, then the entries act (R268, R269). -/
def routerStep (s : State) : Option Due :=
  s.cores.findSome? fun k =>
    let c := coreOfKey k.1
    match k.2.tt.inputs.find? fun x => lostAt s c x.1 != [] with
    | some x => some (.lostWord c x.1)
    | none => ((runningEntries k.2.tt).zipIdx.find? fun x => entryMoves s c x.2 x.1).map fun x => .timetable c x.2

/-- What waited for a reserved home, once none is reserved (R207). -/
def retryStep (s : State) : Option Due :=
  if s.held = [] ∨ s.allCtxs.any (fun a => (s.ctx a).chunk.forced) then none else some .retry

/-- A saved group for which a place is free (R275, R332). -/
def resumeStep (s : State) : Option Due := (resumeNext s).map fun x => .resume x.1 x.2

/-- A card of an image that may enter its boot queue now (R37). -/
def bootStep (s : State) : Option Due := if feedReady s then some .variantReselection else none

/-- The first step whose conditions hold. -/
def pending (s : State) : Option Due :=
  (retryStep s).or ((bootStep s).or ((gateStep s).or ((domainStep s).or ((s.allCtxs.findSome? (ctxStep s)).or
    ((leaveStep s).or ((s.allCtxs.findSome? (accessStep s)).or ((shootStep s).or ((rotationStep s).or ((routerStep s).or (resumeStep s))))))))))

/-! A core's issue. -/

/-- Whether a core's clock runs (R234, R356). -/
def clockRuns (s : State) (c : CoreId) : Bool :=
  !(s.core c).gated &&
    (match c.kind with
    | .l0 => gateRuns (s.cluster (c.idx / 16)).gate
    | .service => gateRuns (s.cluster c.idx).gate
    | _ => true)
where
  gateRuns : Gate → Bool
    | .on => true | .quiescing => true | .quiesced => true | .saving => true | .saved => true | _ => false

/-- One cycle of a core's clock: device time, and the cycle counters of the core and of every die (R346, R378). -/
def coreTick (s : State) (c : CoreId) : State := (dieTick (tickTime s)).bump ⟨c, (s.core c).holder⟩ 0x01

/-- What a chain's length in halfwords is. -/
def Decoded.len {α : Type} : Decoded α → Nat | .instr _ n => n | .reserved _ n => n | .illegal n => n | .short => 0

/-- The context through which a context fetches: a gang's leader (R92). -/
def State.fetcher (s : State) (a : CtxId) : CtxId := (s.lockstep a).headD a

/-- An answer that served one fetch and no more is used up once its instruction has run (R231). -/
def fetchUsed (before after : State) (a : CtxId) : State :=
  if (after.ctx a).chunk.count = (before.ctx a).chunk.count then after else after.useOnce (before.fetcher a) 0

/-- What the decoded chain at the pc does (R49, R50). -/
def runChain (s : State) : Decoded (State → Host.Outcome State Fault Refusal) → Host.Outcome State Fault Refusal
  | .instr g _ => g s
  | .reserved code _ => execReservedOpcode code s
  | .illegal _ => execIllegalChain s
  | .short => .next s

/-- The chain of a member that executes the gang's chunk after its leader cannot be fetched any more: the leader sends the miss, or the members
begin again, so that the leader meets the fault itself (R92, log 90). -/
def followStop (s : State) (a : CtxId) (e : FetchStop) : State :=
  match e with
  | .miss va => stallMiss s (s.fetcher a) 2 va
  | _ => squashGroup s (s.lockstep a)

/-- Fetch the chain at the holder's pc and run it; a gang's is fetched by its leader (R46, R92, R129). -/
def fetchRun (s : State) : Host.Outcome State Fault Refusal :=
  let a := s.holder
  match fetchAs runAt s (s.fetcher a) (s.ctx a).r.pc with
  | .error e => .next (if s.fetcher a = a then fetchStop s a e else followStop s a e)
  | .ok d =>
    let s := s.fetched (s.fetcher a) (s.ctx a).r.pc (Decoded.len d)
    (match runChain s d with | .next t => .next (fetchUsed s t a) | o => o)

/-- Whether a core's holder may issue: it is the leader where its gang is fused, no chunk of its side waits for commit, and it and every member
of its fused gang is ready and holds the pipe of a core whose clock runs, that is not parked by a reserved code nor about to be left (R50,
R92, R129, R331). -/
def mayIssue (s : State) (c : CoreId) : Bool :=
  let ms := s.together ⟨c, (s.core c).holder⟩
  ms.head? == some ⟨c, (s.core c).holder⟩ && !sideEnded s ms && ms.all fun m =>
    clockRuns s m.core && (s.core m.core).parked.isNone && !(s.core m.core).leaving && (s.core m.core).holder == m.ctx && s.readyCtx m

/-- Whether the ended chunk of a core's holder waits for a home that is reserved for a chunk of another context of the core, which needs the
pipe to go on (R207, log 91). -/
def mustYield (s : State) (c : CoreId) : Bool :=
  let h : CtxId := ⟨c, (s.core c).holder⟩
  (s.ctx h).chunk.ended && (reservers s (commitGroup s h)).any fun b => b.core == c && s.readyCtx b

/-- A cycle in which a core's holder does not issue: its chunk commits, and the cycle's events are counted after it (R379); or the pipe
changes hands where the holder is stalled; one whose chunk waits for its commit keeps it (R129, logs 57, 91). -/
def idleCore (s : State) (c : CoreId) : Host.Outcome State Fault Refusal :=
  let s : State := { s with cur := c }
  let ms := commitGroup s s.holder
  if sideDone s ms && commitMoves s s.holder then (match execChunkCommit c s.holder.ctx s with | .next t => .next (coreTick t c) | o => o)
  else
    let t := coreTick s c
    .next (if (t.core c).parked.isSome || (t.core c).leaving || (t.readyCtx t.holder && !mustYield t c) then t else t.switch c)

/-- One issue of a core: its next instruction, a fault that firmware's answer left, or a cycle without one. -/
def issueCore (s : State) (c : CoreId) : Host.Outcome State Fault Refusal :=
  if !clockRuns s c then .next s
  else
    let t : State := { coreTick s c with cur := c }
    let ms := t.together t.holder
    if !mayIssue t c then idleCore s c
    else match ms.find? fun m => (t.ctx m).pendFault.isSome with
      | some m =>
        let pc := (t.ctx m).r.pc
        (match (t.ctx m).pendFault with
        | some f => .next (match issueTrap t m ⟨f.1, f.2.1, f.2.2, false⟩ pc pc with | .ran s => s | .first s => s | .waits s => s | .trapped s => s)
        | none => .next t)
      | none => fetchRun t

/-- Whether a core has something to issue. -/
def mayRun (s : State) (c : CoreId) : Bool :=
  clockRuns s c && (s.core c).parked.isNone && !(s.core c).leaving &&
    (s.core c).ctxs.any fun x => x.2.status == .live && !x.2.chunk.ended

/-- The core that issues next: the first with work after the one that issued last, in the order of their keys. -/
def nextCore (s : State) : Option CoreId :=
  let cs := s.cores.map fun k => coreOfKey k.1
  (cs.filter (fun c => s.cur.key < c.key) ++ cs.filter fun c => c.key ≤ s.cur.key).find? fun c => mayRun s c

/-- The machine's next step: the schedule's own entry, else the oldest step that is due, else one whose conditions have come
to hold, else an issue; with nothing to do a cycle passes. -/
def stepOnce (s : State) : Host.Outcome State Fault Refusal :=
  match s.turns with
  | .run i :: t => exec i { s with turns := t }
  | .issue c :: t => issueCore { s with turns := t } c
  | [] =>
    match s.agenda with
    | d :: t => runDue d { s with agenda := t }
    | [] =>
      match pending s with
      | some d => runDue d s
      | none => match nextCore s with | some c => issueCore s c | none => .next (dieTick (tickTime s))

/-! Placing an instruction where the next step fetches it. -/

/-- The bytes of some halfwords (R39). -/
def halfBytes (l : List Half) : List Byte := l.flatMap fun h => [BitVec.ofNat 8 h.toNat, BitVec.ofNat 8 (h.toNat / 256)]

/-- The core on which a chain is tried: the boot core where its form stands there, else the first core of a kind that has it. -/
def coreFor (l : List Half) : CoreId :=
  match decodeAs formedAt l with
  | .instr (_, _, _, fm) _ => if fm.layers.contains .boot then ⟨.boot, 0⟩ else ⟨fm.layers.headD .boot, 0⟩
  | _ => ⟨.boot, 0⟩

/-- A TLB entry for the 4 KiB page of an address, with every permission, onto the page of the same number below 2^32 (R222). -/
def placedEntry (s : State) (a : CtxId) (pc : VAddr) : TlbEntry :=
  let page := pc.toNat / 4096
  ⟨BitVec.ofNat 64 ((s.ctx a).asid.toNat * 2 ^ 48 + page * 16), BitVec.ofNat 64 (page % 2 ^ 20 * 4096 + 7 * 2 ^ 8), true, s.ticks + 2 ^ 32, none⟩

/-- Place halfwords at a context's pc on a core and give it the next step. -/
def placeHalves (s : State) (l : List Half) : State :=
  let c := coreFor l
  let a : CtxId := ⟨c, 0⟩
  let pc := (s.ctx a).r.pc
  let bytes := (halfBytes l).zipIdx.map fun b => ((pc.toNat + b.2) / 4096 % 2 ^ 20 * 4096 + (pc.toNat + b.2) % 4096, b.1)
  let s := s.modCore c fun k => { k with
    holder := 0, parked := none, leaving := false, gated := false, icache := [], fetchLine := none
    tlb := { k.tlb with slots := placedEntry s a pc :: placedEntry s a (pc + 4096) :: k.tlb.slots } }
  let s := s.modCtx a fun x => { x with
    status := .live, gang := none, mate := none, copy := .only, pendFault := none, chunk := Chunk.empty, ahead := [], misses := [], waitWord := none, arrival := none }
  let s := if c.kind = .l0 then s.modCluster (c.idx / 16) fun k => { k with gate := .on } else s
  let lines := bytes.map fun b => b.1 / 64
  { s with
    mem := bytes.foldl (fun (m : Memory) b => Memory.setByte m b.1 b.2) s.mem
    poison := s.poison.filter fun x => !lines.contains x
    turns := .issue c :: s.turns }

end Sys2Proof.Machine
end

