-- ==== Sys2Proof/Machine/Step.lean ====
section
/-! DEFINITION. One step of the machine, and the placing of an instruction where the next step fetches it. -/

namespace Sys2Proof.Machine

/-- One step of the machine. -/
def step : State → Host.Outcome State Fault Refusal := stepOnce

/-- The state with the instruction of a table word stored where the next step fetches it (log 7). -/
def State.withFetchWord (s : State) (nbits w : Nat) : State := placeHalves s (tableHalves nbits w ++ [0, 0, 0, 0, 0])

end Sys2Proof.Machine
end

