-- ==== Sys2Proof/WellFormed.lean ====
section
/-! DEFINITION. Well-formed instructions: a chain has words that decode to it (R39 to R46), and a device step names units that the
device has (R13 to R18, R62, R65, R80, R168, R210, R273, R314, R395). -/

namespace Sys2Proof

open Machine

/-- A context of a core (R80, R395). -/
def ctxWf (c : CoreId) (k : Nat) : Bool := coreExists c && k < ctxCount c.kind

/-- A context of an L0 core, whose engine ports a step may name (R168). -/
def engineWf (c : CoreId) (k : Nat) : Bool := c.kind == .l0 && ctxWf c k

def clusterWf (n : Nat) : Bool := n < 288
def queueWf (q : Nat) : Bool := q < 4096
def layerWf (l : Nat) : Bool := l < 4
def portWf (p : Nat) : Bool := p < 36

/-- Firmware that holds a mailbox, and the one context it may name lies on a layer (R314, R316). -/
def firmwareWf (c : CoreId) : Bool := coreExists c && isPriv c.kind

/-- What an uncorrectable error may strike (R126, R329). -/
def ErrUnit.wf : ErrUnit → Bool
  | .memory _ => true | .lane c => c.kind == .l0 && coreExists c | .logic c => coreExists c | .cluster n => clusterWf n | .code c _ => coreExists c

/-- What corrects errors: a memory or a cache (R318). -/
def ErrUnit.corrects : ErrUnit → Bool | .memory _ => true | .code c _ => coreExists c | _ => false

/-- A function of the device (R372). -/
def Function.wf : Function → Bool
  | .hbm k => k < 8 | .sram d => d < 9 | .l0die d => d < 8 | .upper l => 1 ≤ l && l < 4 | .cluster c => clusterWf c
  | .host _ => true | .mgmt => true | .rot => true | .quekin p => portWf p

/-- Well-formed instructions. -/
def Instr.wf (i : Instr) : Bool :=
  match i.key with
  | some _ => i.encodable
  | none =>
    match i with
    | .matrixMul c k => engineWf c k
    | .matrixClear c k => engineWf c k
    | .matrixMarker c k => engineWf c k
    | .codebookItem c k => engineWf c k
    | .gather c k => engineWf c k
    | .gmul c k => engineWf c k
    | .topk c k => engineWf c k
    | .csum c k => engineWf c k
    | .engineCompletion c k p => engineWf c k && portExists p
    | .rotationBegin c => c.kind == .l0 && coreExists c
    | .accessHalfIssue c k => engineWf c k
    | .ldqEntryArrival c k => engineWf c k
    | .copy cl ch => clusterWf cl && ch < 8
    | .mcast cl ch => clusterWf cl && ch < 8
    | .fill cl ch => clusterWf cl && ch < 8
    | .contextReady c k => ctxWf c k
    | .chunkCommit c k => ctxWf c k
    | .contextEnd c k => ctxWf c k
    | .workqAnswer c k => ctxWf c k
    | .spallocAllocate c k => ctxWf c k
    | .spallocFree c k => ctxWf c k
    | .spallocResRead c k => ctxWf c k
    | .telEnergyRead c k => ctxWf c k
    | .faultMessage c k => ctxWf c k
    | .missMessage c k u => ctxWf c k && u < 256
    | .queueEnable q _ => queueWf q
    | .queueEnableDeferred q => queueWf q
    | .queueDisable q _ => queueWf q
    | .tailUpdate q _ => queueWf q
    | .completionDoorbell q _ => queueWf q
    | .cardFetch q => queueWf q
    | .triggerFire q => queueWf q
    | .completionRecordWrite q => queueWf q
    | .triggerCounterWrite k _ => k < 4096
    | .quantumBoundary l => layerWf l
    | .dealingRound l => layerWf l
    | .cycleSectionStart _ c => coreExists c
    | .preemptionResume _ c => coreExists c
    | .stage2FaultRecord x => ctxWf x.core x.ctx && x.unit < 256
    | .leaseExpiry c e => c.kind == .l0 && coreExists c && e < 64
    | .shootdownMessage c => coreExists c
    | .shootdownAck c => coreExists c
    | .wakeTlbInvalidate c => coreExists c
    | .linkRendezvous c => coreExists c
    | .fabricToken p _ => portWf p
    | .quekinFlit p _ _ ws => portWf p && ws.length ≤ 60
    | .quekinLinkError p => portWf p
    | .ttSendEntry c e => c.kind == .l0 && coreExists c && e < 255
    | .ttReceiveEntry c e => c.kind == .l0 && coreExists c && e < 255
    | .ttForwardEntry c e => c.kind == .l0 && coreExists c && e < 255
    | .ttLostWord c d => c.kind == .l0 && coreExists c && d < 5
    | .fillerDisplacement c => coreExists c
    | .mailboxHeldEntry c => firmwareWf c
    | .mboxPop c => firmwareWf c
    | .ctxResume c _ => firmwareWf c
    | .ctxDeliver c _ => firmwareWf c
    | .ctxKill c _ => firmwareWf c
    | .ctxUnpark c _ => firmwareWf c
    | .ctxRollback c _ => firmwareWf c
    | .ctxPreempt c _ => firmwareWf c
    | .quiesceDone cl => clusterWf cl
    | .saveDone cl => clusterWf cl
    | .clockStopped cl => clusterWf cl
    | .railOff cl => clusterWf cl
    | .wakeDone cl => clusterWf cl
    | .clockRestart cl => clusterWf cl
    | .functionReady fn => fn.wf
    | .uncorrectableError u => u.wf
    | .correctedError u => u.corrects
    | .commitAcknowledgement e => e < 4
    | _ => true

end Sys2Proof
end

