-- ==== Sys2Proof/Safety.lean ====
section
/-! DEFINITION. The terms in which statements about the machine speak: when an instruction may issue, what it leaves alone, the
rows of instructions of one shape, and the invariants of a run. -/

namespace Sys2Proof.Machine

/-- A step completes in a state, and what it leaves holds of the next one. -/
def Completes (i : Instr) (s : State) (P : State → Prop) : Prop := ∃ t, exec i s = .next t ∧ P t

/-! Issuing. -/

/-- The state once the issuing context's chunk is open (R207). -/
def State.begun (s : State) : State := s.modCtx s.holder Ctx.beginChunk

/-- The state in which an instruction acts; one that writes stq draws a fresh free value for its old contents. -/
def State.entered (s : State) (fm : Form) (f : Fields) : State :=
  if fm.stqDst f then { s.begun with free := s.begun.free + 1 } else s.begun

/-- What an instruction issued alone sees. -/
def envOf (fm : Form) (f : Fields) (s : State) : Env :=
  ⟨s.holder, f, fm, (s.ctx s.holder).r, (s.ctx s.holder).r, Config.staleQueue s.free, (s.dom (s.ctx s.holder).dom).superstep⟩

/-- Nothing holds an instruction back in a context: its fields are legal on the core (R49), no chunk must end before it (R207),
and its queue operands are there (R43, R127). -/
structure Unheld (fm : Form) (ok : CoreId → Fields → Bool) (f : Fields) (s : State) (a : CtxId) : Prop where
  legal : fm.legal a.core.kind f = true
  fits : ok a.core f = true
  first : fm.ends.isBefore = true → (s.ctx a).chunk.count = 0
  ldq : fm.ldqNeed f ≤ (s.ctx a).r.ldq.length
  stq : fm.stqDst f = true → (s.ctx a).stqHeld < 8

/-- No other context is in lock-step with the one that issues (R92). -/
def Alone (s : State) : Prop := s.solo s.holder = none ∧ s.together s.holder = [s.holder]

/-- An instruction issues alone and acts: nothing holds it back, and its guard holds (R42). -/
structure Issues (fm : Form) (ok : CoreId → Fields → Bool) (f : Fields) (s : State) : Prop where
  alone : Alone s
  free : Unheld fm ok f s s.holder
  guard : fm.guard = .scalar → guardBit s.holder.core.kind f (s.ctx s.holder).r = true

/-- The address after the instruction that is issuing (R47). -/
def State.after (s : State) (fm : Form) (f : Fields) : VAddr := nextPc fm f (s.ctx s.holder).r.pc

/-- The registers an instruction leaves: those of its effect, the pc moved, and the ldq entries it read taken (R43, R47). -/
def leftRegs (fm : Form) (f : Fields) (r : RegState) (pc : VAddr) : RegState := { r with pc := pc, ldq := r.ldq.drop (fm.ldqNeed f) }

/-- The issuing context once its chunk is open. -/
def State.opened (s : State) : Ctx := (s.ctx s.holder).beginChunk

def Ctx.withRegs (c : Ctx) (r : RegState) : Ctx := { c with r := r }

/-- A context whose chunk has staged effects (R207). -/
def Ctx.withEffects (c : Ctx) (l : List Effect) : Ctx :=
  { c with chunk := { c.chunk with effects := c.chunk.effects ++ l, epcs := c.chunk.epcs ++ l.map fun _ => c.r.pc } }

/-- A context whose chunk has recorded the lines of a read (R207). -/
def Ctx.withReads (c : Ctx) (locs : List Nat) : Ctx :=
  { c with chunk := { c.chunk with rlines := c.chunk.rlines ++ linesOf locs } }

/-- A context whose chunk holds stores (R207). -/
def Ctx.withStores (c : Ctx) (l : List (Nat × Byte)) : Ctx :=
  { c with chunk := { c.chunk with
    stores := l.reverse ++ c.chunk.stores, wlines := c.chunk.wlines ++ linesOf (l.map (·.1))
    pcs := c.chunk.pcs ++ ((l.map (·.1 / 64)).dedup).map fun n => (n, c.r.pc) } }

/-- A context whose chunk keeps the end of a lease, where an access it holds has one (R231). -/
def Ctx.withLease (c : Ctx) (t : Option Nat) : Ctx := { c with chunk := c.chunk.leased t }

/-- A context after a store of bytes, each with its address: in a phase-structured card those of host-visible memory are an export (R326). -/
def Ctx.withWrites (c : Ctx) (phased : Bool) (vas : List Dword) (l : List (Nat × Byte)) : Ctx :=
  let out := (l.zip vas).filter fun e => isHost e.1.1
  let c := c.withStores (if phased then l.filter fun e => !isHost e.1 else l)
  if phased && out != [] then c.withEffects [.hostStore (out.map (·.1)) (out.map (·.2))] else c

/-- Only one context of a core changed, with the counters that count events (R377); steps may have fallen due. -/
structure OnlyContext (s t : State) (a : CtxId) : Prop where
  rest : t = { s with cores := t.cores, dies := t.dies, agenda := t.agenda, free := t.free }
  others : ∀ c, c ≠ a.core → t.core c = s.core c
  own : t.core a.core = { s.core a.core with ctxs := (t.core a.core).ctxs, evc := (t.core a.core).evc }
  contexts : ∀ n, n ≠ a.ctx → t.ctx ⟨a.core, n⟩ = s.ctx ⟨a.core, n⟩
  counters : ∀ d, t.die d = { s.die d with evc := (t.die d).evc }
  due : ∃ l, t.agenda = s.agenda ++ l

/-- A context of a core takes the pipe where no other context of the core was ready; nothing else has changed (R129). -/
def State.piped (s : State) (a : CtxId) : State :=
  if (s.core a.core).ctxs.all fun k => k.1 == a.ctx || !s.readyCtx ⟨a.core, k.1⟩ then s.modCore a.core fun k => { k with holder := a.ctx }
  else s

/-- A context has become live, as `c` says; the pipe of its core is its own where no other context was ready (R129). -/
structure Woken (s : State) (a : CtxId) (c : Ctx) (t : State) : Prop where
  own : t.ctx a = { c with status := .live }
  only : OnlyContext (s.piped a) t a
  due : t.agenda = s.agenda

/-- What an instruction leaves that acts on its own context alone: the context of its effect with the pc moved and the
instruction counted in its chunk (R207), and everything else as it was in `base`. -/
structure OwnStep (fm : Form) (f : Fields) (s base : State) (c : Ctx) (pc : VAddr) (ends : Bool) (t : State) : Prop where
  own : t.ctx s.holder = ({ c with r := leftRegs fm f c.r pc, status := .live }).countOne ends
  only : OnlyContext base t s.holder
  due : t.agenda = s.agenda
  events : (t.core s.holder.core).evc = ((s.bump s.holder 0x02).core s.holder.core).evc

/-- What an instruction that acts on its context's registers alone leaves. -/
structure RegStep (fm : Form) (f : Fields) (s : State) (r : RegState) (pc : VAddr) (ends : Bool) (t : State) : Prop where
  own : OwnStep fm f s s (s.opened.withRegs r) pc ends t
  counters : t.dies = s.dies
  free : t.free = (s.entered fm f).free

/-- An instruction of a chain: its form, its further limits, its fields, and whether it is a control instruction (R92). -/
structure ChainRow where
  fm : Form
  ok : CoreId → Fields → Bool
  f : Fields
  control : Bool

/-- The form of each instruction of a chain (R51 to R58). -/
def chainRow : Instr → Option ChainRow
  | .add f => some ⟨Forms.aluFmt, alwaysOk, f, false⟩
  | .sub f => some ⟨Forms.aluFmt, alwaysOk, f, false⟩
  | .and f => some ⟨Forms.alu, alwaysOk, f, false⟩
  | .or f => some ⟨Forms.alu, alwaysOk, f, false⟩
  | .xor f => some ⟨Forms.alu, alwaysOk, f, false⟩
  | .andn f => some ⟨Forms.alu, alwaysOk, f, false⟩
  | .shl f => some ⟨Forms.alu, alwaysOk, f, false⟩
  | .shr f => some ⟨Forms.alu, alwaysOk, f, false⟩
  | .sra f => some ⟨Forms.alu, alwaysOk, f, false⟩
  | .mul f => some ⟨Forms.aluFmt, alwaysOk, f, false⟩
  | .mulhs f => some ⟨Forms.alu, alwaysOk, f, false⟩
  | .mulhn f => some ⟨Forms.alu, alwaysOk, f, false⟩
  | .divs f => some ⟨Forms.alu, alwaysOk, f, false⟩
  | .divn f => some ⟨Forms.alu, alwaysOk, f, false⟩
  | .rems f => some ⟨Forms.alu, alwaysOk, f, false⟩
  | .remn f => some ⟨Forms.alu, alwaysOk, f, false⟩
  | .min f => some ⟨Forms.alu, alwaysOk, f, false⟩
  | .max f => some ⟨Forms.alu, alwaysOk, f, false⟩
  | .minn f => some ⟨Forms.alu, alwaysOk, f, false⟩
  | .maxn f => some ⟨Forms.alu, alwaysOk, f, false⟩
  | .addi f => some ⟨Forms.aluImmFmt, alwaysOk, f, false⟩
  | .andi f => some ⟨Forms.aluImm, alwaysOk, f, false⟩
  | .ori f => some ⟨Forms.aluImm, alwaysOk, f, false⟩
  | .xori f => some ⟨Forms.aluImm, alwaysOk, f, false⟩
  | .shli f => some ⟨Forms.shiftImm, alwaysOk, f, false⟩
  | .shri f => some ⟨Forms.shiftImm, alwaysOk, f, false⟩
  | .srai f => some ⟨Forms.shiftImm, alwaysOk, f, false⟩
  | .muli f => some ⟨Forms.aluImmFmt, alwaysOk, f, false⟩
  | .mov f => some ⟨Forms.unary, alwaysOk, f, false⟩
  | .movi f => some ⟨Forms.moviF, alwaysOk, f, false⟩
  | .movhi f => some ⟨Forms.movhiF, alwaysOk, f, false⟩
  | .lea f => some ⟨Forms.leaF, alwaysOk, f, false⟩
  | .sel f => some ⟨Forms.selF, alwaysOk, f, false⟩
  | .sext f => some ⟨Forms.shiftImm, alwaysOk, f, false⟩
  | .zext f => some ⟨Forms.shiftImm, alwaysOk, f, false⟩
  | .bfx f => some ⟨Forms.field, (fun _ f => fieldOk f), f, false⟩
  | .bfxn f => some ⟨Forms.field, (fun _ f => fieldOk f), f, false⟩
  | .bfi f => some ⟨Forms.field, (fun _ f => fieldOk f), f, false⟩
  | .clz f => some ⟨Forms.unary, alwaysOk, f, false⟩
  | .ctz f => some ⟨Forms.unary, alwaysOk, f, false⟩
  | .popc f => some ⟨Forms.unary, alwaysOk, f, false⟩
  | .cmpeq f => some ⟨Forms.cmp, alwaysOk, f, false⟩
  | .cmpne f => some ⟨Forms.cmp, alwaysOk, f, false⟩
  | .cmplt f => some ⟨Forms.cmp, alwaysOk, f, false⟩
  | .cmple f => some ⟨Forms.cmp, alwaysOk, f, false⟩
  | .cmpltn f => some ⟨Forms.cmp, alwaysOk, f, false⟩
  | .cmplen f => some ⟨Forms.cmp, alwaysOk, f, false⟩
  | .tst f => some ⟨Forms.cmp, alwaysOk, f, false⟩
  | .pand f => some ⟨Forms.pred2, alwaysOk, f, false⟩
  | .por f => some ⟨Forms.pred2, alwaysOk, f, false⟩
  | .pxor f => some ⟨Forms.pred2, alwaysOk, f, false⟩
  | .pandn f => some ⟨Forms.pred2, alwaysOk, f, false⟩
  | .pnot f => some ⟨Forms.pred1, alwaysOk, f, false⟩
  | .pset f => some ⟨Forms.pred0, alwaysOk, f, false⟩
  | .pclr f => some ⟨Forms.pred0, alwaysOk, f, false⟩
  | .pmov f => some ⟨Forms.pred1, alwaysOk, f, false⟩
  | .br f => some ⟨Forms.branch, alwaysOk, f, true⟩
  | .jmp f => some ⟨Forms.jump, alwaysOk, f, true⟩
  | .call f => some ⟨Forms.branch, alwaysOk, f, true⟩
  | .callr f => some ⟨Forms.jump, alwaysOk, f, true⟩
  | .ret f => some ⟨Forms.bare, alwaysOk, f, true⟩
  | .enter f => some ⟨Forms.enterF, alwaysOk, f, false⟩
  | .leave f => some ⟨Forms.bare, alwaysOk, f, false⟩
  | .loop f => some ⟨Forms.loopF, alwaysOk, f, true⟩
  | .brz f => some ⟨Forms.branchOn, alwaysOk, f, true⟩
  | .brnz f => some ⟨Forms.branchOn, alwaysOk, f, true⟩
  | .loopset f => some ⟨Forms.jump, alwaysOk, f, true⟩
  | .loopend f => some ⟨Forms.bare, alwaysOk, f, true⟩
  | .nop f => some ⟨Forms.bare, alwaysOk, f, true⟩
  | .fadd f => some ⟨Forms.fop2, alwaysOk, f, false⟩
  | .fsub f => some ⟨Forms.fop2, alwaysOk, f, false⟩
  | .fmul f => some ⟨Forms.fop2, alwaysOk, f, false⟩
  | .fdiv f => some ⟨Forms.fop2, alwaysOk, f, false⟩
  | .fsqrt f => some ⟨Forms.fop1, alwaysOk, f, false⟩
  | .fma f => some ⟨Forms.fmaF, alwaysOk, f, false⟩
  | .fmin f => some ⟨Forms.fop2n, alwaysOk, f, false⟩
  | .fmax f => some ⟨Forms.fop2n, alwaysOk, f, false⟩
  | .fneg f => some ⟨Forms.fsign, alwaysOk, f, false⟩
  | .fabs f => some ⟨Forms.fsign, alwaysOk, f, false⟩
  | .fsgn f => some ⟨Forms.fop2n, alwaysOk, f, false⟩
  | .fcmpeq f => some ⟨Forms.fcmp, alwaysOk, f, false⟩
  | .fcmplt f => some ⟨Forms.fcmp, alwaysOk, f, false⟩
  | .fcmple f => some ⟨Forms.fcmp, alwaysOk, f, false⟩
  | .fclass f => some ⟨Forms.fclassF, alwaysOk, f, false⟩
  | .fmov f => some ⟨Forms.fmovF, alwaysOk, f, false⟩
  | .fcvt f => some ⟨Forms.fcvtF, alwaysOk, f, false⟩
  | .fcvti f => some ⟨Forms.fcvtiF, alwaysOk, f, false⟩
  | .icvtf f => some ⟨Forms.icvtfF, alwaysOk, f, false⟩
  | .fmvfs f => some ⟨Forms.fmvfsF, alwaysOk, f, false⟩
  | .fmvsf f => some ⟨Forms.fmvsfF, alwaysOk, f, false⟩
  | .fsel f => some ⟨Forms.fselF, alwaysOk, f, false⟩
  | .frnd f => some ⟨Forms.fop1, alwaysOk, f, false⟩
  | .vadd f => some ⟨Forms.vint2s, alwaysOk, f, false⟩
  | .vsub f => some ⟨Forms.vint2s, alwaysOk, f, false⟩
  | .vmul f => some ⟨Forms.vint2s, alwaysOk, f, false⟩
  | .vmulh f => some ⟨Forms.vint2, alwaysOk, f, false⟩
  | .vmin f => some ⟨Forms.vint2, alwaysOk, f, false⟩
  | .vmax f => some ⟨Forms.vint2, alwaysOk, f, false⟩
  | .vabs f => some ⟨Forms.vint1, alwaysOk, f, false⟩
  | .vneg f => some ⟨Forms.vint1, alwaysOk, f, false⟩
  | .vand f => some ⟨Forms.vbit2, alwaysOk, f, false⟩
  | .vor f => some ⟨Forms.vbit2, alwaysOk, f, false⟩
  | .vxor f => some ⟨Forms.vbit2, alwaysOk, f, false⟩
  | .vandn f => some ⟨Forms.vbit2, alwaysOk, f, false⟩
  | .vshl f => some ⟨Forms.vint2, alwaysOk, f, false⟩
  | .vshr f => some ⟨Forms.vint2, alwaysOk, f, false⟩
  | .vsra f => some ⟨Forms.vint2, alwaysOk, f, false⟩
  | .vnot f => some ⟨Forms.vbit1, alwaysOk, f, false⟩
  | .vfadd f => some ⟨Forms.vflt2, alwaysOk, f, false⟩
  | .vfsub f => some ⟨Forms.vflt2, alwaysOk, f, false⟩
  | .vfmul f => some ⟨Forms.vflt2, alwaysOk, f, false⟩
  | .vfdiv f => some ⟨Forms.vflt2, alwaysOk, f, false⟩
  | .vfma f => some ⟨Forms.vflt3, alwaysOk, f, false⟩
  | .vfms f => some ⟨Forms.vflt3, alwaysOk, f, false⟩
  | .vfmin f => some ⟨Forms.vflt2n, alwaysOk, f, false⟩
  | .vfmax f => some ⟨Forms.vflt2n, alwaysOk, f, false⟩
  | .vfabs f => some ⟨Forms.vflt1n, alwaysOk, f, false⟩
  | .vfneg f => some ⟨Forms.vflt1n, alwaysOk, f, false⟩
  | .vfsqrt f => some ⟨Forms.vflt1, alwaysOk, f, false⟩
  | .vrcp f => some ⟨Forms.vflt1, alwaysOk, f, false⟩
  | .vrsq f => some ⟨Forms.vflt1, alwaysOk, f, false⟩
  | .vexp2 f => some ⟨Forms.vtrans, alwaysOk, f, false⟩
  | .vlog2 f => some ⟨Forms.vtrans, alwaysOk, f, false⟩
  | .vsel f => some ⟨Forms.vselF, alwaysOk, f, false⟩
  | .vcmpeq f => some ⟨Forms.vcmp, alwaysOk, f, false⟩
  | .vcmplt f => some ⟨Forms.vcmp, alwaysOk, f, false⟩
  | .vcmple f => some ⟨Forms.vcmp, alwaysOk, f, false⟩
  | .vfcmpeq f => some ⟨Forms.vfcmp, alwaysOk, f, false⟩
  | .vfcmplt f => some ⟨Forms.vfcmp, alwaysOk, f, false⟩
  | .vfcmple f => some ⟨Forms.vfcmp, alwaysOk, f, false⟩
  | .vredsum f => some ⟨Forms.vredS, alwaysOk, f, false⟩
  | .vredmax f => some ⟨Forms.vredM, alwaysOk, f, false⟩
  | .vredmin f => some ⟨Forms.vredM, alwaysOk, f, false⟩
  | .vfredsum f => some ⟨Forms.vfredS, alwaysOk, f, false⟩
  | .vfredmax f => some ⟨Forms.vfredM, alwaysOk, f, false⟩
  | .vfredmin f => some ⟨Forms.vfredM, alwaysOk, f, false⟩
  | .vperm f => some ⟨Forms.vbit2, alwaysOk, f, false⟩
  | .vslide f => some ⟨Forms.vslideF, slideOk, f, false⟩
  | .vzip f => some ⟨Forms.vzipF, alwaysOk, f, false⟩
  | .vunzip f => some ⟨Forms.vzipF, alwaysOk, f, false⟩
  | .vmov f => some ⟨Forms.vbit1, alwaysOk, f, false⟩
  | .vsplat f => some ⟨Forms.vsplatF f, alwaysOk, f, false⟩
  | .vext f => some ⟨Forms.vextF f, laneOk, f, false⟩
  | .vins f => some ⟨Forms.vinsF f, laneOk, f, false⟩
  | .vdot pair f => some ⟨Forms.vdotF pair.toNat f, (scalesOk pair.toNat), f, false⟩
  | .vcvtn pair f => some ⟨Forms.vcvtnF pair.toNat, alwaysOk, f, false⟩
  | .vcvtw pair f => some ⟨Forms.vcvtwF pair.toNat, alwaysOk, f, false⟩
  | .push f => some ⟨Forms.pushF, alwaysOk, f, false⟩
  | .pop f => some ⟨Forms.popF, alwaysOk, f, false⟩
  | .popq f => some ⟨Forms.popqF, alwaysOk, f, false⟩
  | .engst f => some ⟨Forms.engstF, alwaysOk, f, false⟩
  | .engabort f => some ⟨Forms.engabortF, alwaysOk, f, false⟩
  | .slotld f => some ⟨Forms.slotldF, alwaysOk, f, false⟩
  | .rowprog f => some ⟨Forms.rowprogF, alwaysOk, f, false⟩
  | .cbload f => some ⟨Forms.cbloadF, alwaysOk, f, false⟩
  | .mcmd f => some ⟨Forms.build, alwaysOk, f, false⟩
  | .gcmd f => some ⟨Forms.build, alwaysOk, f, false⟩
  | .xcmd f => some ⟨Forms.build, alwaysOk, f, false⟩
  | .scmd f => some ⟨Forms.build, alwaysOk, f, false⟩
  | .ccmd f => some ⟨Forms.build, alwaysOk, f, false⟩
  | .cmdset f => some ⟨Forms.cmdsetF, alwaysOk, f, false⟩
  | .cmdvc f => some ⟨Forms.cmdvcF, alwaysOk, f, false⟩
  | .cmdadr f => some ⟨Forms.cmdadrF, alwaysOk, f, false⟩
  | .mma pair f => some ⟨Forms.mmaF pair.toNat, alwaysOk, f, false⟩
  | .mtld f => some ⟨Forms.mtmem, alwaysOk, f, false⟩
  | .mtst f => some ⟨Forms.mtmem, alwaysOk, f, false⟩
  | .mtmma f => some ⟨Forms.mtmmaF f, alwaysOk, f, false⟩
  | .mtzero f => some ⟨Forms.mtzeroF, alwaysOk, f, false⟩
  | .mtadd f => some ⟨Forms.mtaddF f, alwaysOk, f, false⟩
  | .mtmov f => some ⟨Forms.mtmovF, alwaysOk, f, false⟩
  | .mtmovRowIn f => some ⟨Forms.mtmovInF, alwaysOk, f, false⟩
  | .mtmovRowOut f => some ⟨Forms.mtmovOutF, alwaysOk, f, false⟩
  | .mtcvt f => some ⟨Forms.mtcvtF, alwaysOk, f, false⟩
  | .mtred f => some ⟨Forms.mtredF f, alwaysOk, f, false⟩
  | .ld8 f => some ⟨Forms.ld, alwaysOk, f, false⟩
  | .ld8s f => some ⟨Forms.ld, alwaysOk, f, false⟩
  | .ld16 f => some ⟨Forms.ld, alwaysOk, f, false⟩
  | .ld16s f => some ⟨Forms.ld, alwaysOk, f, false⟩
  | .ld32 f => some ⟨Forms.ld, alwaysOk, f, false⟩
  | .ld32s f => some ⟨Forms.ld, alwaysOk, f, false⟩
  | .ld64 f => some ⟨Forms.ld, alwaysOk, f, false⟩
  | .ldf f => some ⟨Forms.ldfF, alwaysOk, f, false⟩
  | .st8 f => some ⟨Forms.st, alwaysOk, f, false⟩
  | .st16 f => some ⟨Forms.st, alwaysOk, f, false⟩
  | .st32 f => some ⟨Forms.st, alwaysOk, f, false⟩
  | .st64 f => some ⟨Forms.st, alwaysOk, f, false⟩
  | .stf f => some ⟨Forms.stfF, alwaysOk, f, false⟩
  | .vld f => some ⟨Forms.vldF, alwaysOk, f, false⟩
  | .vst f => some ⟨Forms.vstF, alwaysOk, f, false⟩
  | .vlds f => some ⟨Forms.vldsF, alwaysOk, f, false⟩
  | .vsts f => some ⟨Forms.vstsF, alwaysOk, f, false⟩
  | .pf f => some ⟨Forms.pfF, alwaysOk, f, false⟩
  | .pfw f => some ⟨Forms.pfF, alwaysOk, f, false⟩
  | .qld f => some ⟨Forms.qldF, alwaysOk, f, false⟩
  | .qst f => some ⟨Forms.qstF, alwaysOk, f, false⟩
  | .qvld f => some ⟨Forms.qvldF, alwaysOk, f, false⟩
  | .chunkEnd f => some ⟨Forms.chunkEndF, alwaysOk, f, false⟩
  | .fence f => some ⟨Forms.fenceF, alwaysOk, f, false⟩
  | .amoadd f => some ⟨Forms.amo [0, 11, 12] [0, 1] f, alwaysOk, f, false⟩
  | .amoand f => some ⟨Forms.amo [0, 11, 12] [0] f, alwaysOk, f, false⟩
  | .amoor f => some ⟨Forms.amo [0, 11, 12] [0] f, alwaysOk, f, false⟩
  | .amoxor f => some ⟨Forms.amo [0, 11, 12] [0] f, alwaysOk, f, false⟩
  | .amomin f => some ⟨Forms.amo [0, 11] [0] f, alwaysOk, f, false⟩
  | .amomax f => some ⟨Forms.amo [0, 11] [0] f, alwaysOk, f, false⟩
  | .amominn f => some ⟨Forms.amo [0, 12] [0] f, alwaysOk, f, false⟩
  | .amomaxn f => some ⟨Forms.amo [0, 12] [0] f, alwaysOk, f, false⟩
  | .amoswp f => some ⟨Forms.amo [0, 11, 12] [0] f, alwaysOk, f, false⟩
  | .amocas f => some ⟨Forms.amo [0, 11, 12] [0] f, alwaysOk, f, false⟩
  | .mark f => some ⟨Forms.markF, alwaysOk, f, false⟩
  | .cut f => some ⟨Forms.cutF, (fun _ f => cutOk f), f, false⟩
  | .graft f => some ⟨Forms.graftF, alwaysOk, f, false⟩
  | .slfree f => some ⟨Forms.slfreeF, alwaysOk, f, false⟩
  | .slinfo f => some ⟨Forms.slinfoF, alwaysOk, f, false⟩
  | .unmark f => some ⟨Forms.unmarkF, alwaysOk, f, false⟩
  | .bar f => some ⟨Forms.barF, alwaysOk, f, false⟩
  | .voteAll f => some ⟨Forms.voteF, alwaysOk, f, false⟩
  | .voteAny f => some ⟨Forms.voteF, alwaysOk, f, false⟩
  | .voteSum f => some ⟨Forms.voteSumF, alwaysOk, f, false⟩
  | .wait f => some ⟨Forms.waitF, alwaysOk, f, false⟩
  | .arrive f => some ⟨Forms.arriveF, alwaysOk, f, false⟩
  | .trig f => some ⟨Forms.trigF, alwaysOk, f, false⟩
  | .ttsel f => some ⟨Forms.ttselF, alwaysOk, f, false⟩
  | .ttld f => some ⟨Forms.ttldF, alwaysOk, f, false⟩
  | .ttgo f => some ⟨Forms.ttgoF, alwaysOk, f, false⟩
  | .ttst f => some ⟨Forms.ttstF, alwaysOk, f, false⟩
  | .cclr f => some ⟨Forms.cclrF, alwaysOk, f, false⟩
  | .split f => some ⟨Forms.splitF, alwaysOk, f, false⟩
  | .fuse f => some ⟨Forms.fuseF, alwaysOk, f, false⟩
  | .trap f => some ⟨Forms.trapF, alwaysOk, f, false⟩
  | .rte f => some ⟨Forms.rteF, alwaysOk, f, false⟩
  | .csrr f => some ⟨Forms.csrrF, csrrOk, f, false⟩
  | .csrw f => some ⟨Forms.csrwF, csrwOk, f, false⟩
  | .csrs f => some ⟨Forms.csrsF, csrwOk, f, false⟩
  | .csrc f => some ⟨Forms.csrsF, csrwOk, f, false⟩
  | .tlbw f => some ⟨Forms.tlbwF, alwaysOk, f, false⟩
  | .tlbinv f => some ⟨Forms.tlbinvF, alwaysOk, f, false⟩
  | .start f => some ⟨Forms.startF, alwaysOk, f, false⟩
  | .join f => some ⟨Forms.joinF, alwaysOk, f, false⟩
  | .park f => some ⟨Forms.parkF, alwaysOk, f, false⟩
  | .jenq f => some ⟨Forms.jenqF, alwaysOk, f, false⟩
  | .workq f => some ⟨Forms.workqF, alwaysOk, f, false⟩
  | .brk f => some ⟨Forms.trapF, alwaysOk, f, false⟩
  | .restrPut f => some ⟨Forms.restrPutF, alwaysOk, f, false⟩
  | .restrCollect f => some ⟨Forms.restrCollectF, alwaysOk, f, false⟩
  | .prolgAdd f => some ⟨Forms.prolgAddF, alwaysOk, f, false⟩
  | .prolgPut f => some ⟨Forms.prolgPutF, alwaysOk, f, false⟩
  | .restrf f => some ⟨Forms.restrfF, alwaysOk, f, false⟩
  | .prolgf f => some ⟨Forms.prolgfF, alwaysOk, f, false⟩
  | .rwld f => some ⟨Forms.wldF, alwaysOk, f, false⟩
  | .pwld f => some ⟨Forms.wldF, alwaysOk, f, false⟩
  | .wsel f => some ⟨Forms.wselF, alwaysOk, f, false⟩
  | .layq f => some ⟨Forms.layqF, alwaysOk, f, false⟩
  | _ => none

/-- An instruction that acts on registers alone: its form, its further limits, its fields, and the registers it leaves. -/
structure RegRow where
  fm : Form
  ok : CoreId → Fields → Bool
  f : Fields
  regs : Env → RegState

/-- Page 0: integer, bit-field, compare and predicate instructions (R98 to R104). -/
def integerRow : Instr → Option RegRow
  | .add f => some ⟨Forms.aluFmt, alwaysOk, f, addRegs⟩
  | .sub f => some ⟨Forms.aluFmt, alwaysOk, f, subRegs⟩
  | .and f => some ⟨Forms.alu, alwaysOk, f, andRegs⟩
  | .or f => some ⟨Forms.alu, alwaysOk, f, orRegs⟩
  | .xor f => some ⟨Forms.alu, alwaysOk, f, xorRegs⟩
  | .andn f => some ⟨Forms.alu, alwaysOk, f, andnRegs⟩
  | .shl f => some ⟨Forms.alu, alwaysOk, f, shlRegs⟩
  | .shr f => some ⟨Forms.alu, alwaysOk, f, shrRegs⟩
  | .sra f => some ⟨Forms.alu, alwaysOk, f, sraRegs⟩
  | .mul f => some ⟨Forms.aluFmt, alwaysOk, f, mulRegs⟩
  | .mulhs f => some ⟨Forms.alu, alwaysOk, f, mulhsRegs⟩
  | .mulhn f => some ⟨Forms.alu, alwaysOk, f, mulhnRegs⟩
  | .divs f => some ⟨Forms.alu, alwaysOk, f, divsRegs⟩
  | .divn f => some ⟨Forms.alu, alwaysOk, f, divnRegs⟩
  | .rems f => some ⟨Forms.alu, alwaysOk, f, remsRegs⟩
  | .remn f => some ⟨Forms.alu, alwaysOk, f, remnRegs⟩
  | .min f => some ⟨Forms.alu, alwaysOk, f, minRegs⟩
  | .max f => some ⟨Forms.alu, alwaysOk, f, maxRegs⟩
  | .minn f => some ⟨Forms.alu, alwaysOk, f, minnRegs⟩
  | .maxn f => some ⟨Forms.alu, alwaysOk, f, maxnRegs⟩
  | .addi f => some ⟨Forms.aluImmFmt, alwaysOk, f, addiRegs⟩
  | .andi f => some ⟨Forms.aluImm, alwaysOk, f, andiRegs⟩
  | .ori f => some ⟨Forms.aluImm, alwaysOk, f, oriRegs⟩
  | .xori f => some ⟨Forms.aluImm, alwaysOk, f, xoriRegs⟩
  | .shli f => some ⟨Forms.shiftImm, alwaysOk, f, shliRegs⟩
  | .shri f => some ⟨Forms.shiftImm, alwaysOk, f, shriRegs⟩
  | .srai f => some ⟨Forms.shiftImm, alwaysOk, f, sraiRegs⟩
  | .muli f => some ⟨Forms.aluImmFmt, alwaysOk, f, muliRegs⟩
  | .mov f => some ⟨Forms.unary, alwaysOk, f, movRegs⟩
  | .movi f => some ⟨Forms.moviF, alwaysOk, f, moviRegs⟩
  | .movhi f => some ⟨Forms.movhiF, alwaysOk, f, movhiRegs⟩
  | .lea f => some ⟨Forms.leaF, alwaysOk, f, leaRegs⟩
  | .sel f => some ⟨Forms.selF, alwaysOk, f, selRegs⟩
  | .sext f => some ⟨Forms.shiftImm, alwaysOk, f, sextRegs⟩
  | .zext f => some ⟨Forms.shiftImm, alwaysOk, f, zextRegs⟩
  | .bfx f => some ⟨Forms.field, (fun _ f => fieldOk f), f, bfxRegs⟩
  | .bfxn f => some ⟨Forms.field, (fun _ f => fieldOk f), f, bfxnRegs⟩
  | .bfi f => some ⟨Forms.field, (fun _ f => fieldOk f), f, bfiRegs⟩
  | .clz f => some ⟨Forms.unary, alwaysOk, f, clzRegs⟩
  | .ctz f => some ⟨Forms.unary, alwaysOk, f, ctzRegs⟩
  | .popc f => some ⟨Forms.unary, alwaysOk, f, popcRegs⟩
  | .cmpeq f => some ⟨Forms.cmp, alwaysOk, f, cmpeqRegs⟩
  | .cmpne f => some ⟨Forms.cmp, alwaysOk, f, cmpneRegs⟩
  | .cmplt f => some ⟨Forms.cmp, alwaysOk, f, cmpltRegs⟩
  | .cmple f => some ⟨Forms.cmp, alwaysOk, f, cmpleRegs⟩
  | .cmpltn f => some ⟨Forms.cmp, alwaysOk, f, cmpltnRegs⟩
  | .cmplen f => some ⟨Forms.cmp, alwaysOk, f, cmplenRegs⟩
  | .tst f => some ⟨Forms.cmp, alwaysOk, f, tstRegs⟩
  | .pand f => some ⟨Forms.pred2, alwaysOk, f, pandRegs⟩
  | .por f => some ⟨Forms.pred2, alwaysOk, f, porRegs⟩
  | .pxor f => some ⟨Forms.pred2, alwaysOk, f, pxorRegs⟩
  | .pandn f => some ⟨Forms.pred2, alwaysOk, f, pandnRegs⟩
  | .pnot f => some ⟨Forms.pred1, alwaysOk, f, pnotRegs⟩
  | .pset f => some ⟨Forms.pred0, alwaysOk, f, psetRegs⟩
  | .pclr f => some ⟨Forms.pred0, alwaysOk, f, pclrRegs⟩
  | .pmov f => some ⟨Forms.pred1, alwaysOk, f, pmovRegs⟩
  | _ => none

/-- Page 0: scalar float instructions (R111 to R115). -/
def floatRow : Instr → Option RegRow
  | .fadd f => some ⟨Forms.fop2, alwaysOk, f, faddRegs⟩
  | .fsub f => some ⟨Forms.fop2, alwaysOk, f, fsubRegs⟩
  | .fmul f => some ⟨Forms.fop2, alwaysOk, f, fmulRegs⟩
  | .fdiv f => some ⟨Forms.fop2, alwaysOk, f, fdivRegs⟩
  | .fsqrt f => some ⟨Forms.fop1, alwaysOk, f, fsqrtRegs⟩
  | .fma f => some ⟨Forms.fmaF, alwaysOk, f, fmaRegs⟩
  | .fmin f => some ⟨Forms.fop2n, alwaysOk, f, fminRegs⟩
  | .fmax f => some ⟨Forms.fop2n, alwaysOk, f, fmaxRegs⟩
  | .fneg f => some ⟨Forms.fsign, alwaysOk, f, fnegRegs⟩
  | .fabs f => some ⟨Forms.fsign, alwaysOk, f, fabsRegs⟩
  | .fsgn f => some ⟨Forms.fop2n, alwaysOk, f, fsgnRegs⟩
  | .fcmpeq f => some ⟨Forms.fcmp, alwaysOk, f, fcmpeqRegs⟩
  | .fcmplt f => some ⟨Forms.fcmp, alwaysOk, f, fcmpltRegs⟩
  | .fcmple f => some ⟨Forms.fcmp, alwaysOk, f, fcmpleRegs⟩
  | .fclass f => some ⟨Forms.fclassF, alwaysOk, f, fclassRegs⟩
  | .fmov f => some ⟨Forms.fmovF, alwaysOk, f, fmovRegs⟩
  | .fcvt f => some ⟨Forms.fcvtF, alwaysOk, f, fcvtRegs⟩
  | .fcvti f => some ⟨Forms.fcvtiF, alwaysOk, f, fcvtiRegs⟩
  | .icvtf f => some ⟨Forms.icvtfF, alwaysOk, f, icvtfRegs⟩
  | .fmvfs f => some ⟨Forms.fmvfsF, alwaysOk, f, fmvfsRegs⟩
  | .fmvsf f => some ⟨Forms.fmvsfF, alwaysOk, f, fmvsfRegs⟩
  | .fsel f => some ⟨Forms.fselF, alwaysOk, f, fselRegs⟩
  | .frnd f => some ⟨Forms.fop1, alwaysOk, f, frndRegs⟩
  | _ => none

/-- Pages 1 and 2: vector instructions (R154 to R164). -/
def vectorRow : Instr → Option RegRow
  | .vadd f => some ⟨Forms.vint2s, alwaysOk, f, vaddRegs⟩
  | .vsub f => some ⟨Forms.vint2s, alwaysOk, f, vsubRegs⟩
  | .vmul f => some ⟨Forms.vint2s, alwaysOk, f, vmulRegs⟩
  | .vmulh f => some ⟨Forms.vint2, alwaysOk, f, vmulhRegs⟩
  | .vmin f => some ⟨Forms.vint2, alwaysOk, f, vminRegs⟩
  | .vmax f => some ⟨Forms.vint2, alwaysOk, f, vmaxRegs⟩
  | .vabs f => some ⟨Forms.vint1, alwaysOk, f, vabsRegs⟩
  | .vneg f => some ⟨Forms.vint1, alwaysOk, f, vnegRegs⟩
  | .vand f => some ⟨Forms.vbit2, alwaysOk, f, vandRegs⟩
  | .vor f => some ⟨Forms.vbit2, alwaysOk, f, vorRegs⟩
  | .vxor f => some ⟨Forms.vbit2, alwaysOk, f, vxorRegs⟩
  | .vandn f => some ⟨Forms.vbit2, alwaysOk, f, vandnRegs⟩
  | .vshl f => some ⟨Forms.vint2, alwaysOk, f, vshlRegs⟩
  | .vshr f => some ⟨Forms.vint2, alwaysOk, f, vshrRegs⟩
  | .vsra f => some ⟨Forms.vint2, alwaysOk, f, vsraRegs⟩
  | .vnot f => some ⟨Forms.vbit1, alwaysOk, f, vnotRegs⟩
  | .vfadd f => some ⟨Forms.vflt2, alwaysOk, f, vfaddRegs⟩
  | .vfsub f => some ⟨Forms.vflt2, alwaysOk, f, vfsubRegs⟩
  | .vfmul f => some ⟨Forms.vflt2, alwaysOk, f, vfmulRegs⟩
  | .vfdiv f => some ⟨Forms.vflt2, alwaysOk, f, vfdivRegs⟩
  | .vfma f => some ⟨Forms.vflt3, alwaysOk, f, vfmaRegs⟩
  | .vfms f => some ⟨Forms.vflt3, alwaysOk, f, vfmsRegs⟩
  | .vfmin f => some ⟨Forms.vflt2n, alwaysOk, f, vfminRegs⟩
  | .vfmax f => some ⟨Forms.vflt2n, alwaysOk, f, vfmaxRegs⟩
  | .vfabs f => some ⟨Forms.vflt1n, alwaysOk, f, vfabsRegs⟩
  | .vfneg f => some ⟨Forms.vflt1n, alwaysOk, f, vfnegRegs⟩
  | .vfsqrt f => some ⟨Forms.vflt1, alwaysOk, f, vfsqrtRegs⟩
  | .vrcp f => some ⟨Forms.vflt1, alwaysOk, f, vrcpRegs⟩
  | .vrsq f => some ⟨Forms.vflt1, alwaysOk, f, vrsqRegs⟩
  | .vexp2 f => some ⟨Forms.vtrans, alwaysOk, f, vexp2Regs⟩
  | .vlog2 f => some ⟨Forms.vtrans, alwaysOk, f, vlog2Regs⟩
  | .vsel f => some ⟨Forms.vselF, alwaysOk, f, vselRegs⟩
  | .vcmpeq f => some ⟨Forms.vcmp, alwaysOk, f, vcmpeqRegs⟩
  | .vcmplt f => some ⟨Forms.vcmp, alwaysOk, f, vcmpltRegs⟩
  | .vcmple f => some ⟨Forms.vcmp, alwaysOk, f, vcmpleRegs⟩
  | .vfcmpeq f => some ⟨Forms.vfcmp, alwaysOk, f, vfcmpeqRegs⟩
  | .vfcmplt f => some ⟨Forms.vfcmp, alwaysOk, f, vfcmpltRegs⟩
  | .vfcmple f => some ⟨Forms.vfcmp, alwaysOk, f, vfcmpleRegs⟩
  | .vredsum f => some ⟨Forms.vredS, alwaysOk, f, vredsumRegs⟩
  | .vredmax f => some ⟨Forms.vredM, alwaysOk, f, vredmaxRegs⟩
  | .vredmin f => some ⟨Forms.vredM, alwaysOk, f, vredminRegs⟩
  | .vfredsum f => some ⟨Forms.vfredS, alwaysOk, f, vfredsumRegs⟩
  | .vfredmax f => some ⟨Forms.vfredM, alwaysOk, f, vfredmaxRegs⟩
  | .vfredmin f => some ⟨Forms.vfredM, alwaysOk, f, vfredminRegs⟩
  | .vperm f => some ⟨Forms.vbit2, alwaysOk, f, vpermRegs⟩
  | .vslide f => some ⟨Forms.vslideF, slideOk, f, vslideRegs⟩
  | .vzip f => some ⟨Forms.vzipF, alwaysOk, f, vzipRegs⟩
  | .vunzip f => some ⟨Forms.vzipF, alwaysOk, f, vunzipRegs⟩
  | .vmov f => some ⟨Forms.vbit1, alwaysOk, f, vmovRegs⟩
  | .vsplat f => some ⟨Forms.vsplatF f, alwaysOk, f, vsplatRegs⟩
  | .vext f => some ⟨Forms.vextF f, laneOk, f, vextRegs⟩
  | .vins f => some ⟨Forms.vinsF f, laneOk, f, vinsRegs⟩
  | .vdot pair f => some ⟨Forms.vdotF pair.toNat f, (scalesOk pair.toNat), f, (vdotRegs pair.toNat)⟩
  | .vcvtn pair f => some ⟨Forms.vcvtnF pair.toNat, alwaysOk, f, (vcvtnRegs pair.toNat)⟩
  | .vcvtw pair f => some ⟨Forms.vcvtwF pair.toNat, alwaysOk, f, (vcvtwRegs pair.toNat)⟩
  | _ => none

/-- Page 3: instructions that build a command in a vector register pair (R171 to R180). -/
def commandRow : Instr → Option RegRow
  | .mcmd f => some ⟨Forms.build, alwaysOk, f, mcmdRegs⟩
  | .gcmd f => some ⟨Forms.build, alwaysOk, f, gcmdRegs⟩
  | .xcmd f => some ⟨Forms.build, alwaysOk, f, xcmdRegs⟩
  | .scmd f => some ⟨Forms.build, alwaysOk, f, scmdRegs⟩
  | .ccmd f => some ⟨Forms.build, alwaysOk, f, ccmdRegs⟩
  | .cmdset f => some ⟨Forms.cmdsetF, alwaysOk, f, cmdsetRegs⟩
  | .cmdvc f => some ⟨Forms.cmdvcF, alwaysOk, f, cmdvcRegs⟩
  | .cmdadr f => some ⟨Forms.cmdadrF, alwaysOk, f, cmdadrRegs⟩
  | .mma pair f => some ⟨Forms.mmaF pair.toNat, alwaysOk, f, (mmaRegs pair.toNat)⟩
  | _ => none

/-- Page 3: tile instructions (R192). -/
def tileRow : Instr → Option RegRow
  | .mtmma f => some ⟨Forms.mtmmaF f, alwaysOk, f, mtmmaRegs⟩
  | .mtzero f => some ⟨Forms.mtzeroF, alwaysOk, f, mtzeroRegs⟩
  | .mtadd f => some ⟨Forms.mtaddF f, alwaysOk, f, mtaddRegs⟩
  | .mtmov f => some ⟨Forms.mtmovF, alwaysOk, f, mtmovRegs⟩
  | .mtmovRowIn f => some ⟨Forms.mtmovInF, alwaysOk, f, mtmovRowInRegs⟩
  | .mtmovRowOut f => some ⟨Forms.mtmovOutF, alwaysOk, f, mtmovRowOutRegs⟩
  | .mtcvt f => some ⟨Forms.mtcvtF, alwaysOk, f, mtcvtRegs⟩
  | .mtred f => some ⟨Forms.mtredF f, alwaysOk, f, mtredRegs⟩
  | _ => none

/-! Results in the words of the rules, with exact integers. -/

/-- R100: the result of an exact operation on A and B, and whether it was clipped. -/
def rule100 (op : Int → Int → Int) (f : Fields) (a b : Dword) : Dword × Bool :=
  let a32 : W32 := a.setWidth 32
  let b32 : W32 := b.setWidth 32
  let x : Int := if f.fmt = 11 then op a32.toInt b32.toInt else if f.fmt = 12 then op a32.toNat b32.toNat else op a.toInt b.toInt
  let lo : Int := if f.fmt = 11 then -2147483648 else if f.fmt = 12 then 0 else -9223372036854775808
  let hi : Int := if f.fmt = 11 then 2147483647 else if f.fmt = 12 then 4294967295 else 9223372036854775807
  let y := if f.sat ∧ x < lo then lo else if f.sat ∧ hi < x then hi else x
  let low : W32 := BitVec.ofInt 32 y
  (if f.fmt = 11 then low.signExtend 64 else if f.fmt = 12 then low.zeroExtend 64 else BitVec.ofInt 64 y,
   f.sat && (decide (x < lo) || decide (hi < x)))

/-- R99, R102, R104: the value a scalar integer instruction writes to d, and whether R100 clipped it. -/
def integerResult : Instr → Option (Env → Dword × Bool)
  | .add f => some fun e => rule100 (· + ·) f e.aS e.bS
  | .sub f => some fun e => rule100 (· - ·) f e.aS e.bS
  | .mul f => some fun e => rule100 (· * ·) f e.aS e.bS
  | .addi f => some fun e => rule100 (· + ·) f e.srcS e.immS
  | .muli f => some fun e => rule100 (· * ·) f e.srcS e.immS
  | .and _ => some fun e => (e.aS &&& e.bS, false)
  | .or _ => some fun e => (e.aS ||| e.bS, false)
  | .xor _ => some fun e => (e.aS ^^^ e.bS, false)
  | .andn _ => some fun e => (e.aS &&& ~~~e.bS, false)
  | .andi _ => some fun e => (e.srcS &&& e.immS, false)
  | .ori _ => some fun e => (e.srcS ||| e.immS, false)
  | .xori _ => some fun e => (e.srcS ^^^ e.immS, false)
  | .shl _ => some fun e => (BitVec.ofNat 64 (e.aS.toNat * 2 ^ (e.bS.toNat % 64)), false)
  | .shr _ => some fun e => (BitVec.ofNat 64 (e.aS.toNat / 2 ^ (e.bS.toNat % 64)), false)
  | .sra _ => some fun e => (BitVec.ofInt 64 (e.aS.toInt / 2 ^ (e.bS.toNat % 64)), false)
  | .shli _ => some fun e => (BitVec.ofNat 64 (e.srcS.toNat * 2 ^ e.immU), false)
  | .shri _ => some fun e => (BitVec.ofNat 64 (e.srcS.toNat / 2 ^ e.immU), false)
  | .srai _ => some fun e => (BitVec.ofInt 64 (e.srcS.toInt / 2 ^ e.immU), false)
  | .mulhs _ => some fun e => (BitVec.ofInt 64 (e.aS.toInt * e.bS.toInt / 2 ^ 64), false)
  | .mulhn _ => some fun e => (BitVec.ofNat 64 (e.aS.toNat * e.bS.toNat / 2 ^ 64), false)
  | .min _ => some fun e => (BitVec.ofInt 64 (min e.aS.toInt e.bS.toInt), false)
  | .max _ => some fun e => (BitVec.ofInt 64 (max e.aS.toInt e.bS.toInt), false)
  | .minn _ => some fun e => (BitVec.ofNat 64 (min e.aS.toNat e.bS.toNat), false)
  | .maxn _ => some fun e => (BitVec.ofNat 64 (max e.aS.toNat e.bS.toNat), false)
  | .divs _ => some fun e => (if e.bS = 0 then -1 else BitVec.ofInt 64 (e.aS.toInt.tdiv e.bS.toInt), false)
  | .divn _ => some fun e => (if e.bS = 0 then -1 else BitVec.ofNat 64 (e.aS.toNat / e.bS.toNat), false)
  | .rems _ => some fun e => (if e.bS = 0 then e.aS else BitVec.ofInt 64 (e.aS.toInt - e.bS.toInt * e.aS.toInt.tdiv e.bS.toInt), false)
  | .remn _ => some fun e => (if e.bS = 0 then e.aS else BitVec.ofNat 64 (e.aS.toNat % e.bS.toNat), false)
  | .mov _ => some fun e => (e.srcS, false)
  | .movi _ => some fun e => (BitVec.ofInt 64 e.f.immS, false)
  | .movhi _ => some fun e => (BitVec.ofNat 64 (e.immU * 2 ^ 32 + e.oldS.toNat % 2 ^ 32), false)
  | .lea _ => some fun e => (BitVec.ofNat 64 (e.srcS.toNat + e.tsrcS.toNat * 2 ^ e.immU), false)
  | .sel _ => some fun e => (if e.selector 0 then e.srcS else e.tsrcS, false)
  | .sext _ => some fun e => (BitVec.ofInt 64 ((e.srcS.toNat : Int).bmod (2 ^ (e.immU + 1))), false)
  | .zext _ => some fun e => (BitVec.ofNat 64 (e.srcS.toNat % 2 ^ (e.immU + 1)), false)
  | .bfx _ => some fun e => (BitVec.ofInt 64 ((e.srcS.toNat / 2 ^ (e.immU % 64) : Int).bmod (2 ^ (e.immU / 64 + 1))), false)
  | .bfxn _ => some fun e => (BitVec.ofNat 64 (e.srcS.toNat / 2 ^ (e.immU % 64) % 2 ^ (e.immU / 64 + 1)), false)
  | .bfi _ => some fun e =>
    let pos := e.immU % 64
    let len := e.immU / 64 + 1
    let d := e.oldS.toNat
    (BitVec.ofNat 64 (d % 2 ^ pos + e.srcS.toNat % 2 ^ len * 2 ^ pos + d / 2 ^ (pos + len) * 2 ^ (pos + len)), false)
  | .clz _ => some fun e => (BitVec.ofNat 64 (((List.range 64).takeWhile fun i => !e.srcS.getLsbD (63 - i)).length), false)
  | .ctz _ => some fun e => (BitVec.ofNat 64 (((List.range 64).takeWhile fun i => !e.srcS.getLsbD i).length), false)
  | .popc _ => some fun e => (BitVec.ofNat 64 (((List.range 64).filter fun i => e.srcS.getLsbD i).length), false)
  | _ => none

/-- The registers with a result in d, and SAT raised in the running chunk where it was clipped (R100). -/
def withResult (e : Env) (x : Dword × Bool) : RegState :=
  let r := e.putS e.r x.1
  if x.2 then { r with pend := r.pend ||| 32 } else r

/-- R103: bit i of the predicate that a compare or a predicate instruction writes. -/
def predicateBit : Instr → Option (Env → Nat → Bool)
  | .cmpeq _ => some fun e _ => decide (e.srcS.toNat = e.tsrcS.toNat)
  | .cmpne _ => some fun e _ => decide (e.srcS.toNat ≠ e.tsrcS.toNat)
  | .cmplt _ => some fun e _ => decide (e.srcS.toInt < e.tsrcS.toInt)
  | .cmple _ => some fun e _ => decide (e.srcS.toInt ≤ e.tsrcS.toInt)
  | .cmpltn _ => some fun e _ => decide (e.srcS.toNat < e.tsrcS.toNat)
  | .cmplen _ => some fun e _ => decide (e.srcS.toNat ≤ e.tsrcS.toNat)
  | .tst _ => some fun e _ => decide (e.srcS &&& e.tsrcS ≠ 0)
  | .pand _ => some fun e i => e.aP.getLsbD i && e.bP.getLsbD i
  | .por _ => some fun e i => e.aP.getLsbD i || e.bP.getLsbD i
  | .pxor _ => some fun e i => xor (e.aP.getLsbD i) (e.bP.getLsbD i)
  | .pandn _ => some fun e i => e.aP.getLsbD i && !e.bP.getLsbD i
  | .pnot _ => some fun e i => !e.srcP.getLsbD i
  | .pmov _ => some fun e i => e.srcP.getLsbD i
  | .pset _ => some fun _ _ => true
  | .pclr _ => some fun _ _ => false
  | _ => none

/-- Only predicate d changed: its bits over the predicate width are as given; a write of p0 is discarded (R61, R103). -/
structure WritesPredicate (e : Env) (bit : Nat → Bool) (r : RegState) : Prop where
  rest : r = { e.r with p := r.p }
  others : ∀ n, n ≠ e.f.dstN → r.rdP e.kind n = e.r.rdP e.kind n
  zero : e.f.dstN = 0 → r = e.r
  written : e.f.dstN ≠ 0 → ∀ i, (r.rdP e.kind e.f.dstN).getLsbD i = (decide (i < e.kind.pwidth) && bit i)

/-- R115: what a move or a sign operation writes. -/
def moveResult : Instr → Option (Env → RegState)
  | .fneg f => some fun e =>
    let w := (floatFmt .fp64 f.fmt).width
    e.r.wrF f.dstN (BitVec.ofNat 64 ((e.srcF.toNat + 2 ^ (w - 1)) % 2 ^ w))
  | .fabs f => some fun e => e.r.wrF f.dstN (BitVec.ofNat 64 (e.srcF.toNat % 2 ^ ((floatFmt .fp64 f.fmt).width - 1)))
  | .fsgn f => some fun e =>
    let w := (floatFmt .fp64 f.fmt).width
    e.r.wrF f.dstN (BitVec.ofNat 64 (e.aF.toNat % 2 ^ (w - 1) + e.bF.toNat / 2 ^ (w - 1) % 2 * 2 ^ (w - 1)))
  | .fmov f => some fun e => e.r.wrF f.dstN e.srcF
  | .fmvfs _ => some fun e => e.putS e.r e.srcF
  | .fmvsf f => some fun e => e.r.wrF f.dstN e.srcS
  | .fsel f => some fun e =>
    e.r.wrF f.dstN (BitVec.ofNat 64 ((if e.selector 0 then e.srcF else e.tsrcF).toNat % 2 ^ (floatFmt .fp64 f.fmt).width))
  | _ => none

/-- R155: the element width of an integer or bit vector instruction, and the exact value of its operation on element j. -/
def vectorResult : Instr → Option (Env → Nat × (Nat → Int))
  | .vadd _ => some fun e => (e.iw, fun j => e.iread (elem e.iw e.aV j) + e.iread (elem e.iw e.bV j))
  | .vsub _ => some fun e => (e.iw, fun j => e.iread (elem e.iw e.aV j) - e.iread (elem e.iw e.bV j))
  | .vmul _ => some fun e => (e.iw, fun j => e.iread (elem e.iw e.aV j) * e.iread (elem e.iw e.bV j))
  | .vmulh _ => some fun e => (e.iw, fun j => e.iread (elem e.iw e.aV j) * e.iread (elem e.iw e.bV j) / 2 ^ e.iw)
  | .vmin _ => some fun e => (e.iw, fun j => min (e.iread (elem e.iw e.aV j)) (e.iread (elem e.iw e.bV j)))
  | .vmax _ => some fun e => (e.iw, fun j => max (e.iread (elem e.iw e.aV j)) (e.iread (elem e.iw e.bV j)))
  | .vabs _ => some fun e => (e.iw, fun j => |e.iread (elem e.iw e.srcV j)|)
  | .vneg _ => some fun e => (e.iw, fun j => -e.iread (elem e.iw e.srcV j))
  | .vshl _ => some fun e => (e.iw, fun j => (elem e.iw e.aV j * 2 ^ elem e.iw e.bV j : Nat))
  | .vshr _ => some fun e => (e.iw, fun j => (elem e.iw e.aV j / 2 ^ elem e.iw e.bV j : Nat))
  | .vsra _ => some fun e => (e.iw, fun j => (elem e.iw e.aV j : Int).bmod (2 ^ e.iw) / (2 ^ elem e.iw e.bV j : Nat))
  | .vand _ => some fun e => (e.bw, fun j => (elem e.bw e.aV j &&& elem e.bw e.bV j : Nat))
  | .vor _ => some fun e => (e.bw, fun j => (elem e.bw e.aV j ||| elem e.bw e.bV j : Nat))
  | .vxor _ => some fun e => (e.bw, fun j => (elem e.bw e.aV j ^^^ elem e.bw e.bV j : Nat))
  | .vandn _ => some fun e => (e.bw, fun j => (elem e.bw e.aV j &&& (2 ^ e.bw - 1 - elem e.bw e.bV j) : Nat))
  | .vnot _ => some fun e => (e.bw, fun j => (2 ^ e.bw - 1 - elem e.bw e.srcV j : Nat))
  | _ => none

/-- The least and the greatest value of an integer element format (R139). -/
def elementRange (fmt : Nat) : Int × Int := if fmt = 13 then (-128, 127) else if fmt = 12 then (0, 4294967295) else (-2147483648, 2147483647)

/-- An exact element value clipped where SAT is set (R155). -/
def clipElement (f : Fields) (x : Int) : Int :=
  let r := elementRange f.fmt
  if f.sat then max r.1 (min r.2 x) else x

/-- The vector that an instruction wrote: register d, or the newest stq entry (R43). -/
def writtenVector (e : Env) (r : RegState) : Vec := if e.dstQ then (r.stq.getLast?.getD 0).setWidth 512 else r.rdV e.f.dstN

/-- Only the destination vector and the flags raised changed: an active element holds the low bits of its clipped value, an
inactive one its old value (R152, R155). -/
structure WritesElements (e : Env) (w : Nat) (x : Nat → Int) (r : RegState) : Prop where
  rest : r = { e.r with v := r.v, stq := r.stq, pend := r.pend }
  vectors : ∀ n, n ≠ e.f.dstN ∨ e.dstQ → r.rdV n = e.r.rdV n
  queue : if e.dstQ then ∃ y, r.stq = e.r.stq ++ [y] else r.stq = e.r.stq
  elements : ∀ j, j < e.lanes w → elem w (writtenVector e r) j =
    if e.live w j then (clipElement e.f (x j) % (2 ^ w : Nat)).toNat else elem w e.oldV j
  flags : r.pend = if ∃ j, j < e.lanes w ∧ e.live w j ∧ clipElement e.f (x j) ≠ x j then e.r.pend ||| 32 else e.r.pend

/-! Float results in the words of R111 to R114. -/

/-- The mode of a float instruction: RND 0 takes ARITH.STAT bits 7:6, and 1 to 4 override them (R111); no other is legal without a draw. -/
def ruleMode (f : Fields) (arith : Byte) : RMode :=
  if f.rnd = 1 ∨ f.rnd = 0 ∧ arith.toNat / 64 = 0 then .nearest
  else if f.rnd = 2 ∨ f.rnd = 0 ∧ arith.toNat / 64 = 1 then .toZero
  else if f.rnd = 3 ∨ f.rnd = 0 ∧ arith.toNat / 64 = 2 then .toPinf
  else if f.rnd = 4 ∨ f.rnd = 0 then .toNinf
  else .stochastic 0

/-- The registers with flags raised in the running chunk (R101). -/
def withFlags (r : RegState) (flags : Nat) : RegState := { r with pend := r.pend ||| BitVec.ofNat 8 flags }
/-- A float result in register d, the bits above its format clear (R61), with its flags. -/
def withFloat (e : Env) (c : Coded) : RegState := withFlags (e.r.wrF e.f.dstN (BitVec.ofNat 64 c.code)) c.flags

/-- Whether the first of two values is the lesser of the two, -0 being less than +0 (R112). -/
def lesser (x y : Val) : Bool := Val.lt x y || (Val.eq x y && x.sgn && !y.sgn)
/-- NV where an operand is a signalling NaN (R111). -/
def nanFlag (l : List Val) : Nat := if ∃ x ∈ l, x = .nan true then 16 else 0
/-- fmin and fmax of two codes: the one operand that is not NaN, or of two such the one that is picked (R112). -/
def pickOf (F : FloatFmt) (max : Bool) (a b : Nat) : Coded :=
  let x := F.decode a
  let y := F.decode b
  let code := match x, y with
    | .nan _, .nan _ => F.nanCode
    | .nan _, _ => b
    | _, .nan _ => a
    | _, _ => if (if max then lesser x y else lesser y x) then b else a
  ⟨code, nanFlag [x, y]⟩
/-- frnd of a code: an integral value of its format, with the sign of the operand (R112). -/
def integralOf (F : FloatFmt) (mode : RMode) (a : Nat) : Coded :=
  match F.decode a with
  | .nan s => ⟨F.nanCode, if s then 16 else 0⟩
  | .fin neg m x =>
    let k := (roundTo mode neg m x 0).1
    ⟨if k = 0 then F.withSign neg 0 else (F.roundFin mode false neg k 0).code, 0⟩
  | _ => ⟨a, 0⟩

/-- R112, R114: the rounded result of a scalar float instruction and the flags it raises. -/
def floatResult : Instr → Option (Env → Coded)
  | .fadd f => some fun e => let m := ruleMode f e.r.arith; e.ff.finish m (addExact m (e.ff.decode e.fa) (e.ff.decode e.fb))
  | .fsub f => some fun e => let m := ruleMode f e.r.arith; e.ff.finish m (addExact m (e.ff.decode e.fa) (e.ff.decode e.fb).neg)
  | .fmul f => some fun e => e.ff.finish (ruleMode f e.r.arith) (mulExact (e.ff.decode e.fa) (e.ff.decode e.fb))
  | .fdiv f => some fun e => e.ff.finish (ruleMode f e.r.arith) (divExact (e.ff.decode e.fa) (e.ff.decode e.fb))
  | .fsqrt f => some fun e => e.ff.finish (ruleMode f e.r.arith) (sqrtExact (e.ff.decode e.fsrc))
  | .fma f => some fun e =>
    let m := ruleMode f e.r.arith
    e.ff.finish m (fmaExact m (e.ff.decode e.fsrc) (e.ff.decode e.ftsrc) (e.ff.decode e.fold))
  | .fmin _ => some fun e => pickOf e.ff false e.fa e.fb
  | .fmax _ => some fun e => pickOf e.ff true e.fa e.fb
  | .frnd f => some fun e => integralOf e.ff (ruleMode f e.r.arith) e.fsrc
  | .fcvt f => some fun e =>
    let S := floatFmt .fp64 f.tsrcN
    e.ff.convert (ruleMode f e.r.arith) false (S.decode (e.srcF.toNat % 2 ^ S.width))
  | .icvtf f => some fun e =>
    let i : Int := if f.tsrcN = 0 then e.srcS.toInt else if f.tsrcN = 11 then (e.srcS.setWidth 32).toInt else (e.srcS.toNat % 2 ^ 32 : Nat)
    e.ff.convert (ruleMode f e.r.arith) false (Val.ofInt i 0 false)
  | _ => none

/-- R113: whether a float compare's condition holds, and the flags it raises; a NaN makes it false. -/
def compareOf (F : FloatFmt) (i : Instr) (a b : Nat) : Bool × Nat :=
  let x := F.decode a
  let y := F.decode b
  let nan := x.isNan || y.isNan
  match i with
  | .fcmplt _ | .vfcmplt _ => (!nan && Val.lt x y, if nan then 16 else 0)
  | .fcmple _ | .vfcmple _ => (!nan && !Val.lt y x, if nan then 16 else 0)
  | _ => (!nan && Val.eq x y, nanFlag [x, y])

/-- R113, R114: the registers that a float compare, fclass and fcvti leave. -/
def floatOutside : Instr → Option (Env → RegState)
  | .fcmpeq f => some fun e =>
    let c := compareOf e.ff (.fcmpeq f) e.fsrc e.ftsrc
    withFlags (e.r.wrP e.kind f.dstN (if c.1 then pOnes e.kind else 0)) c.2
  | .fcmplt f => some fun e =>
    let c := compareOf e.ff (.fcmplt f) e.fsrc e.ftsrc
    withFlags (e.r.wrP e.kind f.dstN (if c.1 then pOnes e.kind else 0)) c.2
  | .fcmple f => some fun e =>
    let c := compareOf e.ff (.fcmple f) e.fsrc e.ftsrc
    withFlags (e.r.wrP e.kind f.dstN (if c.1 then pOnes e.kind else 0)) c.2
  | .fclass _ => some fun e =>
    let normal (m : Nat) : Bool := 2 ^ e.ff.m ≤ m
    e.putS e.r (match e.ff.decode e.fsrc with
      | .inf true => 0x001 | .fin true m _ => if normal m then 0x002 else 0x004 | .zero true => 0x008 | .zero false => 0x010
      | .fin false m _ => if normal m then 0x040 else 0x020 | .inf false => 0x080 | .nan true => 0x100 | .nan false => 0x200)
  | .fcvti f => some fun e =>
    let lo : Int := if f.tsrcN = 0 then -2 ^ 63 else if f.tsrcN = 11 then -2 ^ 31 else 0
    let hi : Int := if f.tsrcN = 0 then 2 ^ 63 - 1 else if f.tsrcN = 11 then 2 ^ 31 - 1 else 2 ^ 32 - 1
    let c : Int × Nat := match e.ff.decode e.fsrc with
      | .zero _ => (0, 0)
      | .nan _ => (0, 16)
      | .inf neg => (if neg then lo else hi, 16)
      | .fin neg m x =>
        let k := roundTo (if f.rnd = 0 then .toZero else ruleMode f e.r.arith) neg m x 0
        let y : Int := if neg then -(k.1 : Int) else k.1
        if y < lo then (lo, 16) else if hi < y then (hi, 16) else (y, if k.2 then 1 else 0)
    withFlags (e.putS e.r (BitVec.ofInt 64 c.1)) c.2
  | _ => none

/-! Vector results in the words of R157 to R165. -/

/-- What a vector instruction does to its elements: how wide they are and how many, which it writes, what it writes and raises, and how
many random draws it counts (R145). -/
structure ElementRow where
  w : Nat
  n : Nat
  writes : Nat → Bool
  value : Nat → Coded
  drawn : Nat := 0

/-- The row of an instruction that its guard governs element by element (R152). -/
def guarded (e : Env) (w : Nat) (value : Nat → Coded) : ElementRow := { w := w, n := e.lanes w, writes := e.live w, value := value }
/-- The row of a float instruction of one operand, of two, and of one that rounds an exact value. -/
def floats2 (e : Env) (op : FloatFmt → Nat → Nat → Coded) : ElementRow :=
  guarded e e.vf.width fun j => op e.vf (elem e.vf.width e.aV j) (elem e.vf.width e.bV j)
def floats1 (e : Env) (op : FloatFmt → Nat → Coded) : ElementRow := guarded e e.vf.width fun j => op e.vf (elem e.vf.width e.srcV j)
def roundsOf (e : Env) (f : Fields) (op : Val → Exact) : ElementRow :=
  floats1 e fun F a => F.finish (ruleMode f e.r.arith) (op (F.decode a))
/-- A moved element. -/
def moved (x : Nat) : Coded := ⟨x, 0⟩

/-- R163: one lane of vdot. -/
def dotLane (pair : Nat) (f : Fields) (e : Env) (i : Nat) : Coded :=
  let g := pairTerms pair
  let A := (pairFmts pair).1
  let B := (pairFmts pair).2
  let a := (List.range g).map fun q => elem A.width e.pairA (g * i + q)
  let b := (List.range g).map fun q => elem B.width e.pairB (g * i + q)
  let c := elem 32 e.oldV i
  if 11 ≤ pair ∧ pair ≤ 13 then
    let x : Int := (c : Int).bmod (2 ^ 32) + ((a.zip b).map fun p => (p.1 : Int).bmod (2 ^ A.width) * (p.2 : Int).bmod (2 ^ B.width)).sum
    let y : Int := if f.sat then max (-2147483648) (min 2147483647 x) else x
    ⟨(y % (2 ^ 32 : Nat)).toNat, if y = x then 0 else 32⟩
  else
    let blk := g * i / 32
    let bA := (Forms.pairBlocks pair e.kind.vwidth).1
    let sa := if bA = 0 then .fin false 1 0 else scaleVal f.aux.toNat (e.r.rdF (f.tsrcN + blk)).toNat
    let sb := if (Forms.pairBlocks pair e.kind.vwidth).2 = 0 then .fin false 1 0
      else scaleVal f.aux.toNat (e.r.rdF (f.tsrcN + bA + blk)).toNat
    addFinal (ruleMode f e.r.arith) c (scaledBlock (products e.r.codebook A B a b) sa sb)

/-- R164: an element narrowed from format A to format B. -/
def narrowed (pair : Nat) (f : Fields) (mode : RMode) (x : Nat) : Coded :=
  match pairFmts pair with
  | (.flt A, .flt B) => B.convert mode f.sat (A.decode x)
  | (.flt A, _) => let c := convertInt (-128) 127 mode (A.decode x); ⟨(c.1 % 256).toNat, c.2⟩
  | _ =>
    let i : Int := (x : Int).bmod (2 ^ 32)
    let y : Int := if f.sat then max (-128) (min 127 i) else i
    ⟨(y % 256).toNat, if y = i then 0 else 32⟩

/-- R157, R158, R160, R163 to R165: the element row of a vector instruction. -/
def elementRow : Instr → Option (Env → ElementRow)
  | .vfadd f => some fun e => floats2 e fun F a b =>
    let m := ruleMode f e.r.arith
    F.finish m (addExact m (F.decode a) (F.decode b))
  | .vfsub f => some fun e => floats2 e fun F a b =>
    let m := ruleMode f e.r.arith
    F.finish m (addExact m (F.decode a) (F.decode b).neg)
  | .vfmul f => some fun e => floats2 e fun F a b => F.finish (ruleMode f e.r.arith) (mulExact (F.decode a) (F.decode b))
  | .vfdiv f => some fun e => floats2 e fun F a b => F.finish (ruleMode f e.r.arith) (divExact (F.decode a) (F.decode b))
  | .vfma f => some fun e => guarded e e.vf.width fun j =>
    let m := ruleMode f e.r.arith
    let v (x : Vec) : Val := e.vf.decode (elem e.vf.width x j)
    e.vf.finish m (fmaExact m (v e.srcV) (v e.tsrcV) (v e.oldV))
  | .vfms f => some fun e => guarded e e.vf.width fun j =>
    let m := ruleMode f e.r.arith
    let v (x : Vec) : Val := e.vf.decode (elem e.vf.width x j)
    e.vf.finish m (fmaExact m (v e.srcV).neg (v e.tsrcV) (v e.oldV))
  | .vfmin _ => some fun e => floats2 e fun F a b => pickOf F false a b
  | .vfmax _ => some fun e => floats2 e fun F a b => pickOf F true a b
  | .vfabs _ => some fun e => floats1 e fun F a => moved (a % 2 ^ (F.width - 1))
  | .vfneg _ => some fun e => floats1 e fun F a => moved ((a + 2 ^ (F.width - 1)) % 2 ^ F.width)
  | .vfsqrt f => some fun e => roundsOf e f sqrtExact
  | .vrcp f => some fun e => roundsOf e f (divExact (.fin false 1 0))
  | .vrsq f => some fun e => roundsOf e f rsqExact
  | .vexp2 f => some fun e => roundsOf e f exp2Exact
  | .vlog2 f => some fun e => roundsOf e f log2Exact
  | .vmov _ => some fun e => guarded e e.bw fun j => moved (elem e.bw e.srcV j)
  | .vperm _ => some fun e => guarded e e.bw fun j => moved (elem e.bw e.aV (elem e.bw e.bV j % e.lanes e.bw))
  | .vslide _ => some fun e =>
    let s := (List.range (e.lanes e.bw)).map (elem e.bw e.srcV) ++ (List.range (e.lanes e.bw)).map (elem e.bw e.tsrcV)
    guarded e e.bw fun j => moved (s.getD (j + e.immU) 0)
  | .vzip f => some fun e => guarded e e.bw fun j =>
    moved (elem e.bw (if j % 2 = 0 then e.srcV else e.tsrcV) (j / 2 + f.aux.toNat * (e.lanes e.bw / 2)))
  | .vunzip f => some fun e =>
    let h := e.lanes e.bw / 2
    guarded e e.bw fun j => moved (if j < h then elem e.bw e.srcV (2 * j + f.aux.toNat) else elem e.bw e.tsrcV (2 * (j - h) + f.aux.toNat))
  | .vsplat f => some fun e => guarded e e.bw fun _ => moved ((if f.aux = 1 then e.srcF else e.srcS).toNat % 2 ^ e.bw)
  | .vins f => some fun e => guarded e e.bw fun j =>
    moved (if j = e.immU then (if f.aux = 1 then e.srcF else e.srcS).toNat % 2 ^ e.bw else elem e.bw e.oldV j)
  | .vsel _ => some fun e =>
    { w := e.bw, n := e.lanes e.bw, writes := fun _ => true
      value := fun j => moved (elem e.bw (if e.selector (j * e.bw / 8) then e.srcV else e.tsrcV) j) }
  | .vdot pair f => some fun e => guarded e 32 (dotLane pair.toNat f e)
  | .vcvtw pair f => some fun e =>
    let p := pairFmts pair.toNat
    guarded e p.1.width fun j =>
      let x := elem p.2.width e.srcV (f.aux.toNat * e.lanes p.1.width + j)
      match p with
      | (.flt A, .flt B) => A.convert .nearest false (B.decode x)
      | (.flt A, _) => A.convert .nearest false (Val.ofInt ((x : Int).bmod 256) 0 false)
      | _ => moved (((x : Int).bmod 256 % (2 ^ 32 : Nat)).toNat)
  | .vcvtn pair f => some fun e =>
    let p := pairFmts pair.toNat
    let ns := e.lanes p.1.width
    let first := f.aux.toNat * ns
    let writes (j : Nat) : Bool := decide (first ≤ j ∧ j < first + ns) && e.live p.2.width j
    let mode (j : Nat) : RMode := if 5 ≤ f.rnd then .stochastic (e.rb j)
      else if f.rnd = 0 ∧ pair = 30 then .toZero else ruleMode f e.r.arith
    { w := p.2.width, n := if p.2.width = 6 then e.kind.vwidth / 8 else e.kind.vwidth / p.2.width
      writes := writes
      value := fun j => narrowed pair.toNat f (mode j) (elem p.1.width e.srcV (j - first))
      drawn := if f.rnd = 5 ∧ (List.range ns).any fun i => writes (first + i) then 1 else 0 }
  | _ => none

/-- The flags that some of the results raise are merged into those of the chunk, bit by bit (R156). -/
def RaisesFlags (e : Env) (raised : Nat → Prop) (r : RegState) : Prop :=
  ∀ k < 8, r.pend.getLsbD k = true ↔ e.r.pend.getLsbD k = true ∨ raised k

/-- Only the destination vector, the flags raised and the count of draws changed: an element that is written holds its result, any other
its old value, and nothing stands above the elements (R134, R152). -/
structure WritesRow (e : Env) (x : ElementRow) (r : RegState) : Prop where
  rest : r = { e.r with v := r.v, stq := r.stq, pend := r.pend, rngCtr := e.r.rngCtr + BitVec.ofNat 32 x.drawn }
  vectors : ∀ n, n ≠ e.f.dstN ∨ e.dstQ → r.rdV n = e.r.rdV n
  queue : if e.dstQ then ∃ y, r.stq = e.r.stq ++ [y] else r.stq = e.r.stq
  elements : ∀ j, j < x.n → elem x.w (writtenVector e r) j = if x.writes j then (x.value j).code % 2 ^ x.w else elem x.w e.oldV j
  above : (∃ j, j < x.n ∧ x.writes j = true) → (writtenVector e r).toNat < 2 ^ (x.w * x.n)
  flags : RaisesFlags e (fun k => ∃ j, j < x.n ∧ x.writes j = true ∧ (x.value j).flags.testBit k = true) r

/-- R158: the condition of a vector compare on element j, and the flags it raises. -/
def elementCompare : Instr → Option (Env → Nat × (Nat → Bool × Nat))
  | .vcmpeq _ => some fun e => (e.iw, fun j => (decide (e.iread (elem e.iw e.srcV j) = e.iread (elem e.iw e.tsrcV j)), 0))
  | .vcmplt _ => some fun e => (e.iw, fun j => (decide (e.iread (elem e.iw e.srcV j) < e.iread (elem e.iw e.tsrcV j)), 0))
  | .vcmple _ => some fun e => (e.iw, fun j => (decide (e.iread (elem e.iw e.srcV j) ≤ e.iread (elem e.iw e.tsrcV j)), 0))
  | .vfcmpeq f => some fun e => (e.vf.width, fun j => compareOf e.vf (.vfcmpeq f) (elem e.vf.width e.srcV j) (elem e.vf.width e.tsrcV j))
  | .vfcmplt f => some fun e => (e.vf.width, fun j => compareOf e.vf (.vfcmplt f) (elem e.vf.width e.srcV j) (elem e.vf.width e.tsrcV j))
  | .vfcmple f => some fun e => (e.vf.width, fun j => compareOf e.vf (.vfcmple f) (elem e.vf.width e.srcV j) (elem e.vf.width e.tsrcV j))
  | _ => none

/-- Only predicate d and the flags changed: the bits of an active element are its condition, the bits of any other stay (R152, R158). -/
structure WritesBits (e : Env) (w : Nat) (c : Nat → Bool × Nat) (r : RegState) : Prop where
  rest : r = { e.r with p := r.p, pend := r.pend }
  others : ∀ n, n ≠ e.f.dstN → r.rdP e.kind n = e.r.rdP e.kind n
  zero : e.f.dstN = 0 → r.p = e.r.p
  written : e.f.dstN ≠ 0 → ∀ j, j < e.lanes w → ∀ b, b < w / 8 →
    (r.rdP e.kind e.f.dstN).getLsbD (j * (w / 8) + b) =
      if e.live w j then (c j).1 else (e.r.rdP e.kind e.f.dstN).getLsbD (j * (w / 8) + b)
  flags : RaisesFlags e (fun k => ∃ j, j < e.lanes w ∧ e.live w j = true ∧ (c j).2.testBit k = true) r

/-- The terms of a reduction: the active elements in their order, the others absent (R159). -/
def activeTerms {α : Type} (e : Env) (w : Nat) (x : Nat → α) : List (Option α) :=
  (List.range (e.lanes w)).map fun j => if e.live w j then some (x j) else none

/-- R159, R160: the registers that a reduction or vext leaves. -/
def reductionResult : Instr → Option (Env → RegState)
  | .vredsum f => some fun e =>
    let range := elementRange f.fmt
    let node (x y : Int × Nat) : Int × Nat :=
      let s := x.1 + y.1
      let c := if f.sat then max range.1 (min range.2 s) else s
      (if f.fmt = 12 then c % (2 ^ 32 : Nat) else c.bmod (2 ^ e.iw), x.2 ||| y.2 ||| (if c = s then 0 else 32))
    let t := (tsum node (activeTerms e e.iw fun j => (e.iread (elem e.iw e.srcV j), 0))).getD (0, 0)
    withFlags (e.putS e.r (BitVec.ofInt 64 t.1)) t.2
  | .vredmax _ => some fun e =>
    e.putS e.r (BitVec.ofInt 64 ((tsum max (activeTerms e e.iw fun j => e.iread (elem e.iw e.srcV j))).getD 0))
  | .vredmin _ => some fun e =>
    e.putS e.r (BitVec.ofInt 64 ((tsum min (activeTerms e e.iw fun j => e.iread (elem e.iw e.srcV j))).getD 0))
  | .vfredsum f => some fun e =>
    let m := ruleMode f e.r.arith
    let node (x y : Coded) : Coded :=
      let r := e.vf.finish m (addExact m (e.vf.decode x.code) (e.vf.decode y.code))
      ⟨r.code, x.flags ||| y.flags ||| r.flags⟩
    withFloat e ((tsum node (activeTerms e e.vf.width fun j => moved (elem e.vf.width e.srcV j))).getD ⟨0, 0⟩)
  | .vfredmax _ => some fun e =>
    let node (x y : Coded) : Coded := let r := pickOf e.vf true x.code y.code; ⟨r.code, x.flags ||| y.flags ||| r.flags⟩
    withFloat e ((tsum node (activeTerms e e.vf.width fun j => moved (elem e.vf.width e.srcV j))).getD ⟨0, 0⟩)
  | .vfredmin _ => some fun e =>
    let node (x y : Coded) : Coded := let r := pickOf e.vf false x.code y.code; ⟨r.code, x.flags ||| y.flags ||| r.flags⟩
    withFloat e ((tsum node (activeTerms e e.vf.width fun j => moved (elem e.vf.width e.srcV j))).getD ⟨0, 0⟩)
  | .vext f => some fun e =>
    let x := elem e.bw e.srcV e.immU
    if f.aux = 1 then e.r.wrF f.dstN (BitVec.ofNat 64 x)
    else if f.fmt ∈ [0, 11, 13] then e.putS e.r (BitVec.ofInt 64 ((x : Int).bmod (2 ^ e.bw)))
    else e.putS e.r (BitVec.ofNat 64 x)
  | _ => none

/-! Commands and tiles in the words of R174 and R193. -/

/-- R174: doubleword w of the pair that a builder leaves. -/
def commandWord : Instr → Option (Env → Nat → Dword)
  | .mcmd _ => some fun e w => if w = 0 then BitVec.ofNat 64 (e.srcS.toNat % 2 ^ 56 + e.immU * 2 ^ 56) else 0
  | .gcmd _ => some fun e w => if w = 0 then BitVec.ofNat 64 (e.srcS.toNat % 2 ^ 56 + (1 * 16 + e.immU) * 2 ^ 56) else 0
  | .xcmd _ => some fun e w => if w = 0 then BitVec.ofNat 64 (e.srcS.toNat % 2 ^ 56 + (4 * 16 + e.immU) * 2 ^ 56) else 0
  | .scmd _ => some fun e w => if w = 0 then BitVec.ofNat 64 (e.srcS.toNat % 2 ^ 56 + (2 * 16 + e.immU) * 2 ^ 56) else 0
  | .ccmd _ => some fun e w => if w = 0 then BitVec.ofNat 64 (e.srcS.toNat % 2 ^ 56 + (3 * 16 + e.immU) * 2 ^ 56) else 0
  | .cmdset f => some fun e w => if w = f.aux.toNat then e.srcS else pairWord e w
  | .cmdvc _ => some fun e w =>
    if w = 0 then BitVec.ofNat 64 ((pairWord e 0).toNat / 2 ^ 16 * 2 ^ 16 + e.srcS.toNat % 2 ^ 16) else pairWord e w
  | .cmdadr f => some fun e w =>
    if w = f.aux.toNat then BitVec.ofNat 64 ((pairWord e w).toNat / 2 ^ 56 * 2 ^ 56 + e.srcS.toNat % 2 ^ 56) else pairWord e w
  | .mma pair f => some fun e w =>
    if w = 0 then BitVec.ofNat 64 (e.srcS.toNat % 2 ^ 47 + (if f.sat then 2 ^ 47 else 0) + f.rnd * 2 ^ 48 + pair.toNat * 2 ^ 51) else 0
  | _ => none
where
  /-- Doubleword w of the pair vd, vd + 1 as it stands. -/
  pairWord (e : Env) (w : Nat) : Dword := BitVec.ofNat 64 ((e.r.rdV (e.f.dstN + w / 4)).toNat / 2 ^ (64 * (w % 4)))

/-- Only the pair vd, vd + 1 changed, and where RND is 5 the count of draws (R145, R174). -/
structure WritesPair (e : Env) (i : Instr) (word : Nat → Dword) (r : RegState) : Prop where
  rest : r = { e.r with v := r.v, rngCtr := match i with | .mma _ f => if f.rnd = 5 then e.r.rngCtr + 1 else e.r.rngCtr | _ => e.r.rngCtr }
  others : ∀ n, n ≠ e.f.dstN → n ≠ e.f.dstN + 1 → r.rdV n = e.r.rdV n
  words : ∀ w < 8, BitVec.ofNat 64 ((r.rdV (e.f.dstN + w / 4)).toNat / 2 ^ (64 * (w % 4))) = word w

/-- R193: one element of mtmma: R147 of the old element and the products of row i of ma with row j of mb, or R149 for .i8. -/
def tileDot (e : Env) (f : Fields) (i j : Nat) : Coded :=
  let T := tileFmt f.fmt
  let a := (List.range (512 / T.width)).map (elem T.width (rowOf e.srcM i))
  let b := (List.range (512 / T.width)).map (elem T.width (rowOf e.tsrcM j))
  let c := elem 32 (rowOf e.oldM i) j
  if f.fmt = 13 then
    let x : Int := (c : Int).bmod (2 ^ 32) + ((a.zip b).map fun p => (p.1 : Int).bmod 256 * (p.2 : Int).bmod 256).sum
    let y : Int := if f.sat then max (-2147483648) (min 2147483647 x) else x
    ⟨(y % (2 ^ 32 : Nat)).toNat, if y = x then 0 else 32⟩
  else addFinal (ruleMode f e.r.arith) c (scaledBlock (products e.r.codebook T T a b) (.fin false 1 0) (.fin false 1 0))

/-- R193: an addition of two 32-bit tile elements. -/
def tileSum (e : Env) (f : Fields) (x y : Nat) : Coded :=
  if f.fmt = 11 then
    let s : Int := (x : Int).bmod (2 ^ 32) + (y : Int).bmod (2 ^ 32)
    let c : Int := if f.sat then max (-2147483648) (min 2147483647 s) else s
    ⟨(c % (2 ^ 32 : Nat)).toNat, if c = s then 0 else 32⟩
  else
    let m := ruleMode f e.r.arith
    FloatFmt.fp32.finish m (addExact m (FloatFmt.fp32.decode x) (FloatFmt.fp32.decode y))

/-- R193: the random draws that a tile instruction counts (R145), the width of the elements that it computes, and each one. -/
def tileElement : Instr → Option (Env → Nat × Nat × (Nat → Nat → Coded))
  | .mtmma f => some fun e => (0, 32, tileDot e f)
  | .mtadd f => some fun e => (0, 32, fun i j => tileSum e f (elem 32 (rowOf e.aM i) j) (elem 32 (rowOf e.bM i) j))
  | .mtcvt f => some fun e => match tileFmt f.fmt with
    | .flt F => (if f.rnd = 5 then 1 else 0, F.width, fun i j =>
        F.convert (if 5 ≤ f.rnd then .stochastic (e.rb (16 * i + j)) else ruleMode f e.r.arith) f.sat
          (FloatFmt.fp32.decode (elem 32 (rowOf e.srcM i) j)))
    | _ => (if f.rnd = 5 then 1 else 0, 8, fun _ _ => moved 0)
  | _ => none

/-- Only the destination tile, the flags raised and the count of draws changed: the low bits of each row hold its 16 elements, and the
bits above are 0 (R193). -/
structure WritesTile (e : Env) (drawn w : Nat) (g : Nat → Nat → Coded) (r : RegState) : Prop where
  rest : r = { e.r with m := r.m, pend := r.pend, rngCtr := e.r.rngCtr + BitVec.ofNat 32 drawn }
  others : ∀ n, n ≠ e.f.dstN → r.rdM n = e.r.rdM n
  elements : ∀ i < 16, ∀ j < 16, elem w (rowOf (r.rdM e.f.dstN) i) j = (g i j).code % 2 ^ w
  above : ∀ i < 16, (rowOf (r.rdM e.f.dstN) i).toNat < 2 ^ (16 * w)
  flags : RaisesFlags e (fun k => ∃ i < 16, ∃ j < 16, (g i j).flags.testBit k = true) r

/-- R193: the registers that a move of tiles, a clear or a row reduction leaves. -/
def TileMove : Instr → Option (Env → RegState → Prop)
  | .mtzero f => some fun e r => r = e.r.wrM f.dstN 0
  | .mtmov f => some fun e r => r = e.r.wrM f.dstN e.srcM
  | .mtmovRowIn f => some fun e r => r = { e.r with m := r.m } ∧ (∀ n, n ≠ f.dstN → r.rdM n = e.r.rdM n) ∧
      ∀ i < 16, rowOf (r.rdM f.dstN) i = if i = e.immU then e.srcV else rowOf (e.r.rdM f.dstN) i
  | .mtmovRowOut f => some fun e r => r = e.r.wrV f.dstN (rowOf e.srcM e.immU)
  | .mtred f => some fun e r =>
      let node (x y : Coded) : Coded := let c := tileSum e f x.code y.code; ⟨c.code, x.flags ||| y.flags ||| c.flags⟩
      WritesRow e { w := 32, n := 16, writes := fun _ => true, value := fun i =>
        (tsum node ((List.range 16).map fun j => some (moved (elem 32 (rowOf e.srcM i) j)))).getD ⟨0, 0⟩ } r
  | _ => none

/-! Memory instructions. -/

/-- A load: whether its addresses are aligned, the addresses of its bytes, and the registers it leaves from the little-endian
number those bytes make (R193, R200, R201). -/
structure LoadRow where
  fm : Form
  f : Fields
  aligned : Env → Prop
  addrs : Env → List Dword
  regs : Env → Nat → RegState

/-- A scalar load of n bytes at a multiple of n, outside the engine-port window (R196, R201). -/
def scalarLoadRow (fm : Form) (f : Fields) (n : Nat) (regs : Env → Nat → RegState) : LoadRow where
  fm := fm
  f := f
  aligned e := e.ea.toNat % n = 0 ∧ ¬(0x00FF040000000000 ≤ e.ea.toNat ∧ e.ea.toNat < 0x00FF040000000400)
  addrs e := (List.range n).map fun i => e.ea + BitVec.ofNat 64 i
  regs := regs

def loadRow : Instr → Option LoadRow
  | .ld8 f => some (scalarLoadRow Forms.ld f 1 fun e x => e.putS e.r (BitVec.ofNat 64 x))
  | .ld8s f => some (scalarLoadRow Forms.ld f 1 fun e x => e.putS e.r ((BitVec.ofNat 8 x).signExtend 64))
  | .ld16 f => some (scalarLoadRow Forms.ld f 2 fun e x => e.putS e.r (BitVec.ofNat 64 x))
  | .ld16s f => some (scalarLoadRow Forms.ld f 2 fun e x => e.putS e.r ((BitVec.ofNat 16 x).signExtend 64))
  | .ld32 f => some (scalarLoadRow Forms.ld f 4 fun e x => e.putS e.r (BitVec.ofNat 64 x))
  | .ld32s f => some (scalarLoadRow Forms.ld f 4 fun e x => e.putS e.r ((BitVec.ofNat 32 x).signExtend 64))
  | .ld64 f => some (scalarLoadRow Forms.ld f 8 fun e x => e.putS e.r (BitVec.ofNat 64 x))
  | .ldf f => some (scalarLoadRow Forms.ldfF f (floatBytes f.fmt) fun e x => e.putF e.r (BitVec.ofNat 64 x))
  | .vld f => some {
      fm := Forms.vldF, f := f
      aligned := fun e => e.words ≠ [] → e.ea.toNat % 4 = 0
      addrs := fun e => e.words.flatMap fun j => span (e.ea + BitVec.ofNat 64 (4 * j)) 4
      regs := fun e x => e.spread 32 e.words x }
  | .vlds f => some {
      fm := Forms.vldsF, f := f
      aligned := fun e => (e.strided ≠ [] → e.ea.toNat % 4 = 0) ∧ ∀ p ∈ e.strided, p.2.toNat % (e.bw / 8) = 0
      addrs := fun e => e.strided.flatMap fun p => span p.2 (e.bw / 8)
      regs := fun e x => e.spread e.bw (e.strided.map (·.1)) x }
  | .mtld f => some {
      fm := Forms.mtmem, f := f
      aligned := fun e => ∀ a ∈ e.rowAddrs, a.toNat % 64 = 0
      addrs := fun e => e.rowAddrs.flatMap fun a => span a 64
      regs := fun e x => e.r.wrM f.dstN (BitVec.ofNat 8192 x) }
  | _ => none

/-- A store: whether its addresses are aligned, and its bytes, each with its address (R193, R200, R201). -/
structure StoreRow where
  fm : Form
  f : Fields
  aligned : Env → Prop
  bytes : Env → List (Dword × Byte)

/-- A scalar store of the low n bytes of a register at a multiple of n (R201). -/
def scalarStoreRow (fm : Form) (f : Fields) (n : Nat) (src : Env → Dword) : StoreRow where
  fm := fm
  f := f
  aligned e := e.ea.toNat % n = 0
  bytes e := (List.range n).map fun i => (e.ea + BitVec.ofNat 64 i, BitVec.ofNat 8 ((src e).toNat / 256 ^ i))

def storeRow : Instr → Option StoreRow
  | .st8 f => some (scalarStoreRow Forms.st f 1 fun e => e.r.rdS f.dstN)
  | .st16 f => some (scalarStoreRow Forms.st f 2 fun e => e.r.rdS f.dstN)
  | .st32 f => some (scalarStoreRow Forms.st f 4 fun e => e.r.rdS f.dstN)
  | .st64 f => some (scalarStoreRow Forms.st f 8 fun e => e.r.rdS f.dstN)
  | .stf f => some (scalarStoreRow Forms.stfF f (floatBytes f.fmt) fun e => e.r.rdF f.dstN)
  | .vst f => some {
      fm := Forms.vstF, f := f
      aligned := fun e => e.words ≠ [] → e.ea.toNat % 4 = 0
      bytes := fun e => e.words.flatMap fun j => bytesAt (e.ea + BitVec.ofNat 64 (4 * j)) 4 (elem 32 (e.r.rdV f.dstN) j) }
  | .vsts f => some {
      fm := Forms.vstsF, f := f
      aligned := fun e => (e.strided ≠ [] → e.ea.toNat % 4 = 0) ∧ ∀ p ∈ e.strided, p.2.toNat % (e.bw / 8) = 0
      bytes := fun e => e.strided.flatMap fun p => bytesAt p.2 (e.bw / 8) (elem e.bw (e.r.rdV f.dstN) p.1) }
  | .mtst f => some {
      fm := Forms.mtmem, f := f
      aligned := fun e => ∀ a ∈ e.rowAddrs, a.toNat % 64 = 0
      bytes := fun e => (e.rowAddrs.zip (List.range 16)).flatMap fun p => bytesAt p.1 64 (rowOf (e.r.rdM f.dstN) p.2).toNat }
  | _ => none

/-- R204: the new value of an atomic of w bits from the old value and b, and whether it was clipped. -/
def rule204 (f : Fields) (i : Instr) (w old b : Nat) : Nat × Bool :=
  let lo : Int := if f.fmt = 12 then 0 else -2 ^ (w - 1)
  let hi : Int := if f.fmt = 12 then 2 ^ w - 1 else 2 ^ (w - 1) - 1
  let rd (n : Nat) : Int := if f.fmt = 12 then n else (n : Int).bmod (2 ^ w)
  let sum := rd old + rd b
  match i with
  | .amoadd _ => (((if f.sat then max lo (min hi sum) else sum) % (2 ^ w : Nat)).toNat, f.sat && (decide (sum < lo) || decide (hi < sum)))
  | .amoand _ => (old &&& b, false)
  | .amoor _ => (old ||| b, false)
  | .amoxor _ => (old ^^^ b, false)
  | .amomin _ => (if (old : Int).bmod (2 ^ w) ≤ (b : Int).bmod (2 ^ w) then old else b, false)
  | .amomax _ => (if (old : Int).bmod (2 ^ w) ≤ (b : Int).bmod (2 ^ w) then b else old, false)
  | .amominn _ => (min old b, false)
  | .amomaxn _ => (max old b, false)
  | _ => (b, false)

/-- The fields and the formats of an atomic (R199). -/
def atomicForm : Instr → Option (Form × Fields)
  | .amoadd f => some (Forms.amo [0, 11, 12] [0, 1] f, f)
  | .amoand f => some (Forms.amo [0, 11, 12] [0] f, f)
  | .amoor f => some (Forms.amo [0, 11, 12] [0] f, f)
  | .amoxor f => some (Forms.amo [0, 11, 12] [0] f, f)
  | .amomin f => some (Forms.amo [0, 11] [0] f, f)
  | .amomax f => some (Forms.amo [0, 11] [0] f, f)
  | .amominn f => some (Forms.amo [0, 12] [0] f, f)
  | .amomaxn f => some (Forms.amo [0, 12] [0] f, f)
  | .amoswp f => some (Forms.amo [0, 11, 12] [0] f, f)
  | .amocas f => some (Forms.amo [0, 11, 12] [0] f, f)
  | _ => none

/-- Whether an atomic writes: amocas only where the old value is the one it compares with (R204). -/
def atomicWrites (i : Instr) (e : Env) (w old : Nat) : Bool :=
  match i with | .amocas _ => old == e.oldS.toNat % 2 ^ w | _ => true

/-! Instructions whose effect lies in registers and in effects staged until the chunk commits (R207). -/

structure StagedRow where
  fm : Form
  ok : CoreId → Fields → Bool := alwaysOk
  f : Fields
  cond : Env → State → Prop := fun _ _ => True
  regs : Env → State → RegState := fun e _ => e.r
  effects : Env → State → List Effect := fun _ _ => []
  /-- what it leaves of its context besides -/
  ctx : Ctx → Ctx := id
  /-- what it leaves of everything else -/
  base : State → State := id

/-- The rows of a table complete: where its condition holds, each leaves its registers and stages its effects. -/
def StagedComplete (rows : Instr → Option StagedRow) : Prop :=
  ∀ (i : Instr) (x : StagedRow) (s : State), rows i = some x → Issues x.fm x.ok x.f s →
    x.cond (envOf x.fm x.f s) (s.entered x.fm x.f) →
    Completes i s (OwnStep x.fm x.f s (x.base s)
      (((x.ctx s.opened).withRegs (x.regs (envOf x.fm x.f s) (s.entered x.fm x.f))).withEffects
        (x.effects (envOf x.fm x.f s) (s.entered x.fm x.f)))
      (s.after x.fm x.f) x.fm.ends.isHolding)

/-- The engine ports (R171, R172, R181, R184, R186). -/
def enginePortRow : Instr → Option StagedRow
  | .push f => some {
      fm := Forms.pushF, f := f
      cond := fun e s => hasRoom s e.at' f.dstN = true ∧ checkPort f.dstN (dwordsOf e.pairA ++ dwordsOf e.pairB) = 0
      regs := fun e _ => e.r
      effects := fun e _ => [.push f.dstN (dwordsOf e.pairA ++ dwordsOf e.pairB)] }
  | .pop f => some {
      fm := Forms.popF, f := f
      cond := fun e s => ((s.ctx e.at').port f.srcN).output ≠ []
      regs := fun e s => e.putS e.r (((s.ctx e.at').port f.srcN).output.headD 0)
      effects := fun _ _ => [.popped f.srcN] }
  | .popq f => some {
      fm := Forms.popqF, f := f
      cond := fun _ _ => True
      regs := fun e s => match ((s.ctx e.at').port f.srcN).output with
        | [] => (e.putS e.r 0).wrP e.kind f.tsrcN 0
        | x :: _ => (e.putS e.r x).wrP e.kind f.tsrcN (pOnes e.kind)
      effects := fun e s => if ((s.ctx e.at').port f.srcN).output = [] then [] else [.popped f.srcN] }
  | .engst f => some {
      fm := Forms.engstF, f := f
      cond := fun _ _ => True
      regs := fun e s => e.putS e.r (engstWord s e.at' f.srcN f.aux.toNat)
      effects := fun _ _ => [] }
  | .engabort f => some {
      fm := Forms.engabortF, f := f
      cond := fun _ _ => True
      regs := fun e _ => e.r
      effects := fun _ _ => [.engabort f.srcN] }
  | .slotld f => some {
      fm := Forms.slotldF, f := f
      cond := fun _ _ => True
      regs := fun e _ => e.r
      effects := fun e _ => [.slotld e.srcS e.immU] }
  | .rowprog f => some {
      fm := Forms.rowprogF, f := f
      cond := fun _ _ => True
      regs := fun e s => e.putS e.r (rowprogWord (s.ctx e.at'))
      effects := fun _ _ => [] }
  | .cbload f => some {
      fm := Forms.cbloadF, f := f
      cond := fun e s => hasRoom s e.at' 0 = true
      regs := fun e _ => e.r
      effects := fun e _ => [.codebook (BitVec.ofNat 256 e.srcV.toNat)] }
  | _ => none

/-- Counters, triggers, timetable selection, the weight selection, and layer queries (R75, R218, R251, R252, R257, R266, R267). -/
def signalRow : Instr → Option StagedRow
  | .wait f => some {
      fm := Forms.waitF, f := f
      cond := fun e s => (s.ctx e.at').waitWord ≠ none ∨
        min (e.srcS.toNat % 2 ^ 31 + e.immU) (2 ^ 31 - 1) ≤ (s.counter e.at'.core f.tsrcN).count.toNat
      regs := fun e s =>
        let c := s.counter e.at'.core f.tsrcN
        e.putS e.r ((s.ctx e.at').waitWord.getD (BitVec.ofNat 64 ((if c.err then 2 ^ 31 else 0) + c.count.toNat)))
      effects := fun _ _ => []
      ctx := fun c => { c with waitWord := none } }
  | .arrive f => some {
      fm := Forms.arriveF, f := f
      cond := fun _ _ => True
      regs := fun e _ => e.r
      effects := fun e _ => [.arrive f.dstN (BitVec.ofNat 16 (e.srcS.toNat % 2 ^ 16))] }
  | .trig f => some {
      fm := Forms.trigF, f := f
      cond := fun _ _ => True
      regs := fun e _ => e.r
      effects := fun e _ => [.trig (e.srcS.toNat % 2 ^ 12)] }
  | .cclr f => some {
      fm := Forms.cclrF, f := f
      cond := fun _ _ => True
      regs := fun e _ => e.r
      effects := fun _ _ => [.cclr f.dstN] }
  | .ttsel f => some {
      fm := Forms.ttselF, f := f
      cond := fun _ _ => True
      regs := fun e _ => e.r
      effects := fun e _ => [.ttsel (min e.r.voteRes.toNat (e.immU - 1))] }
  | .ttgo f => some {
      fm := Forms.ttgoF, f := f
      cond := fun _ _ => True
      regs := fun e _ => e.r
      effects := fun _ _ => [.ttgo] }
  | .ttst f => some {
      fm := Forms.ttstF, f := f
      cond := fun e s => (s.core e.at'.core).tt.running = none
      regs := fun e s => e.putS e.r (ttStat (s.core e.at'.core).tt)
      effects := fun _ _ => [] }
  | .wsel f => some {
      fm := Forms.wselF, f := f
      cond := fun _ _ => True
      regs := fun e _ => e.r
      effects := fun e _ => [.wsel (BitVec.ofNat 4 e.immU)] }
  | .layq f => some {
      fm := Forms.layqF, f := f
      cond := fun _ _ => True
      regs := fun e s => e.putS e.r (layqWord s e.at' f.aux.toNat)
      effects := fun _ _ => [] }
  | _ => none

/-- Prefetches and chunk.end have no effect of their own in a machine that runs one instruction at a time; nor has a fence, but that of
device or fabric scope (0, 4, 5), after which the core's instruction cache holds nothing (R125, R203, R208, R209). -/
def hintRow : Instr → Option StagedRow
  | .pf f => some { fm := Forms.pfF, f := f }
  | .pfw f => some { fm := Forms.pfF, f := f }
  | .chunkEnd f => some { fm := Forms.chunkEndF, f := f }
  | .fence f => some {
      fm := Forms.fenceF, f := f
      base := fun s => if f.scope ∈ [0, 4, 5] then s.modCore s.holder.core fun k => { k with icache := [], fetchLine := none } else s }
  | _ => none

/-- The control-register instructions and tlbw (R121, R122, R226). -/
def csrRow : Instr → Option StagedRow
  | .csrr f => some {
      fm := Forms.csrrF, ok := csrrOk, f := f
      cond := fun e s => f.immU = 0x307 → (s.ctx e.at').spreqs = []
      regs := fun e s => e.putS (latchStamp s f.immU e.r) (csrValue s e.at' f.immU)
      effects := fun _ _ => [] }
  | .csrw f => some {
      fm := Forms.csrwF, ok := csrwOk, f := f
      cond := fun _ _ => True
      regs := fun e _ => e.r
      effects := fun e _ => [.csr f.immU 0 e.srcS] }
  | .csrs f => some {
      fm := Forms.csrsF, ok := csrwOk, f := f
      cond := fun e s => f.immU = 0x307 → (s.ctx e.at').spreqs = []
      regs := fun e s => e.putS (latchStamp s f.immU e.r) (csrValue s e.at' f.immU)
      effects := fun e _ => [.csr f.immU 1 e.srcS] }
  | .csrc f => some {
      fm := Forms.csrsF, ok := csrwOk, f := f
      cond := fun e s => f.immU = 0x307 → (s.ctx e.at').spreqs = []
      regs := fun e s => e.putS (latchStamp s f.immU e.r) (csrValue s e.at' f.immU)
      effects := fun e _ => [.csr f.immU 2 e.srcS] }
  | .tlbw f => some {
      fm := Forms.tlbwF, f := f
      cond := fun e _ =>
        let sel := e.oldS.toNat
        let req := bits sel 0 32
        let fc := bits sel 32 8
        let die := bits sel 40 4
        let c := (reqTarget req die).1.core
        isPriv e.kind = true ∧ sel < 2 ^ 44 ∧ die ≤ 8 ∧ (fc = 0 ∨ (fc = 0x10 ∨ fc = 0x11 ∨ fc = 0xFF) ∧ bits req 12 4 ≠ 15) ∧
          bitOf e.srcS.toNat 1 = false ∧ e.tsrcS.toNat % 256 = 0 ∧ targetExists req die c = true ∧ serves e.at'.core c = true
      regs := fun e _ => e.r
      effects := fun e _ => [.tlbw e.oldS e.srcS e.tsrcS] }
  | _ => none

/-- Helpers and work queries (R85, R89). -/
def helperRow : Instr → Option StagedRow
  | .join f => some {
      fm := Forms.joinF, f := f
      cond := fun e s =>
        let h := e.srcS.toNat
        1 ≤ h ∧ h ≤ 10 ∧ h ≠ e.at'.ctx ∧ (s.ctx ⟨e.at'.core, h⟩).status = .ended ∧
          ∀ k, k < 11 → k ≠ e.at'.ctx → .joined h ∉ (s.ctx ⟨e.at'.core, k⟩).chunk.effects
      regs := fun e s => e.putS e.r ((s.ctx ⟨e.at'.core, e.srcS.toNat⟩).r.rdS 1)
      effects := fun e _ => [.joined e.srcS.toNat] }
  | .workq f => some {
      fm := Forms.workqF, f := f
      cond := fun e s => e.srcS.toNat % 16 = 0 ∧ e.srcS.toNat / 2 ^ 40 = 0xFF01 ∧ ∃ l, windowReach s e.at' e.srcS = .loc l
      regs := fun e s => e.putS e.r (if queriesOut (s.ctx e.at') = 2 then 1 else 0)
      effects := fun e s => if queriesOut (s.ctx e.at') = 2 then [] else [.workq e.srcS f.aux.toNat] }
  | _ => none

/-! Control flow. -/

/-- An instruction that decides where its context goes on: the registers it leaves, the pc, and whether it ends its chunk. -/
structure ControlRow where
  fm : Form
  f : Fields
  cond : Env → Prop
  regs : Env → RegState
  pc : Env → VAddr
  ends : Bool

/-- The branch target addr + 2 × I, and the address after the chain (R105). -/
def ruleTarget (e : Env) : VAddr := BitVec.ofInt 56 (e.r.pc.toNat + 2 * e.f.immS)
def ruleNext (e : Env) : VAddr := e.r.pc + BitVec.ofNat 56 (2 * e.f.chainLen e.fm.paged)

/-- R105, R106, R119, R120. -/
def controlRow : Instr → Option ControlRow
  | .br f => some ⟨Forms.branch, f, fun _ => True, fun e => e.r, ruleTarget, false⟩
  | .brz f => some ⟨Forms.branchOn, f, fun _ => True, fun e => e.r, fun e => if e.srcS = 0 then ruleTarget e else ruleNext e, false⟩
  | .brnz f => some ⟨Forms.branchOn, f, fun _ => True, fun e => e.r, fun e => if e.srcS ≠ 0 then ruleTarget e else ruleNext e, false⟩
  | .loop f => some ⟨Forms.loopF, f, fun _ => True, fun e => e.putS e.r (e.oldS - 1),
      fun e => if (e.dstQ ∨ f.dstN ≠ 0) ∧ e.oldS ≠ 1 then ruleTarget e else ruleNext e, false⟩
  | .call f => some ⟨Forms.branch, f, fun _ => True, fun e => e.r.wrS 31 ((ruleNext e).setWidth 64), ruleTarget, false⟩
  | .jmp f => some ⟨Forms.jump, f, fun e => e.srcS.toNat % 2 = 0, fun e => e.r, fun e => e.srcS.setWidth 56, false⟩
  | .callr f => some ⟨Forms.jump, f, fun e => e.srcS.toNat % 2 = 0, fun e => e.r.wrS 31 ((ruleNext e).setWidth 64),
      fun e => e.srcS.setWidth 56, false⟩
  | .ret f => some ⟨Forms.bare, f, fun e => (e.r.rdS 31).toNat % 2 = 0, fun e => e.r, fun e => (e.r.rdS 31).setWidth 56, false⟩
  | .loopset f => some ⟨Forms.jump, f, fun _ => True, fun e => { e.r with loopCnt := e.srcS, loopTop := ruleNext e }, ruleNext, false⟩
  | .loopend f => some ⟨Forms.bare, f, fun _ => True, fun e => { e.r with loopCnt := if 1 < e.r.loopCnt.toNat then e.r.loopCnt - 1 else 0 },
      fun e => if 1 < e.r.loopCnt.toNat then e.r.loopTop else ruleNext e, false⟩
  | .nop f => some ⟨Forms.bare, f, fun _ => True, fun e => e.r, ruleNext, false⟩
  | .trap f => some ⟨Forms.trapF, f, fun e => e.r.tvec ≠ 0 ∧ e.r.active = false,
      fun e => { e.r with
        code := 0x03, info := BitVec.ofNat 32 e.immU, faddr := e.r.pc.setWidth 64, epc := ruleNext e, active := true
        ldq := [], ldqDue := [] },
      fun e => e.r.tvec, true⟩
  | .rte f => some ⟨Forms.rteF, f, fun e => e.r.active = true, fun e => { e.r with active := false }, fun e => e.r.epc, true⟩
  | _ => none

/-- An instruction that yields the pipe to another context: its own context, everything else as in `base` but for counters of
events, the steps that fall due, and the pipe, which goes to the next ready context in number (R129). -/
structure Yields (s base : State) (c : Ctx) (due : List Due) (t : State) : Prop where
  own : t.ctx s.holder = c
  rest : t = { base with cores := t.cores, agenda := t.agenda, free := t.free }
  others : ∀ d, d ≠ s.holder.core → t.core d = base.core d
  core : t.core s.holder.core =
    { base.core s.holder.core with
      ctxs := (t.core s.holder.core).ctxs, evc := (t.core s.holder.core).evc, holder := (t.core s.holder.core).holder }
  contexts : ∀ n, n ≠ s.holder.ctx → t.ctx ⟨s.holder.core, n⟩ = base.ctx ⟨s.holder.core, n⟩
  pipe : (t.core s.holder.core).holder = (t.modCore s.holder.core fun k => { k with holder := s.holder.ctx }).pick s.holder.core
  due : t.agenda = base.agenda ++ due

/-- A context stopped by a precise trap at an instruction: CODE, INFO, FAULT.ADDR and EPC are set, every other register of the
instruction is as before, and its message is due (R118). -/
def Ctx.trapped (c : Ctx) (t : Trap) (next : VAddr) : Ctx :=
  { c.dropAhead with
    r := { c.r with code := t.code, info := t.info, faddr := t.addr, epc := if t.next then next else c.r.pc, ldq := [], ldqDue := [] }
    status := .stopped, pendFault := none, msgDue := true, chunk := { Chunk.empty with ckpt := c.r } }

/-- The state after a precise trap of the issuing context. -/
def TrapStep (fm : Form) (f : Fields) (s : State) (x : Trap) (t : State) : Prop :=
  Yields s s ((s.ctx s.holder).trapped x (s.after fm f)) [.faultMessage s.holder.core s.holder.ctx] t

/-- The chunk before an instruction ends, and the instruction waits for its commit (R118, R205, R207). -/
structure EndsChunk (s t : State) : Prop where
  own : t.ctx s.holder = { s.ctx s.holder with chunk := { (s.ctx s.holder).chunk with ended := true } }
  only : OnlyContext s t s.holder
  due : t.agenda = s.agenda

/-- The precise traps that the words of an instruction or its operands alone decide: form, fields, and the trap. -/
def trapRow : Instr → Option (Form × Fields × (Env → State → Option Trap))
  | .brk f => some (Forms.trapF, f, fun e _ => some ⟨0x04, BitVec.ofNat 32 e.immU, e.r.pc.setWidth 64, false⟩)
  | .trap f => some (Forms.trapF, f, fun e _ =>
      if e.r.tvec = 0 ∨ e.r.active = true then some ⟨0x03, BitVec.ofNat 32 e.immU, e.r.pc.setWidth 64, true⟩ else none)
  | .rte f => some (Forms.rteF, f, fun e _ => if e.r.active = false then some ⟨0x01, 0, e.r.pc.setWidth 64, false⟩ else none)
  | .jmp f => some (Forms.jump, f, fun e _ => if e.srcS.toNat % 2 = 1 then some ⟨0x05, 0, e.srcS, false⟩ else none)
  | .callr f => some (Forms.jump, f, fun e _ => if e.srcS.toNat % 2 = 1 then some ⟨0x05, 0, e.srcS, false⟩ else none)
  | .ret f => some (Forms.bare, f, fun e _ => if (e.r.rdS 31).toNat % 2 = 1 then some ⟨0x05, 0, e.r.rdS 31, false⟩ else none)
  | .ld16 f => some (Forms.ld, f, fun e _ => if e.ea.toNat % 2 ≠ 0 then some ⟨0x05, 0, e.ea, false⟩ else none)
  | .ld16s f => some (Forms.ld, f, fun e _ => if e.ea.toNat % 2 ≠ 0 then some ⟨0x05, 0, e.ea, false⟩ else none)
  | .ld32 f => some (Forms.ld, f, fun e _ => if e.ea.toNat % 4 ≠ 0 then some ⟨0x05, 0, e.ea, false⟩ else none)
  | .ld32s f => some (Forms.ld, f, fun e _ => if e.ea.toNat % 4 ≠ 0 then some ⟨0x05, 0, e.ea, false⟩ else none)
  | .ld64 f => some (Forms.ld, f, fun e _ => if e.ea.toNat % 8 ≠ 0 then some ⟨0x05, 0, e.ea, false⟩ else none)
  | .st16 f => some (Forms.st, f, fun e _ => if e.ea.toNat % 2 ≠ 0 then some ⟨0x05, 0, e.ea, false⟩ else none)
  | .st32 f => some (Forms.st, f, fun e _ => if e.ea.toNat % 4 ≠ 0 then some ⟨0x05, 0, e.ea, false⟩ else none)
  | .st64 f => some (Forms.st, f, fun e _ => if e.ea.toNat % 8 ≠ 0 then some ⟨0x05, 0, e.ea, false⟩ else none)
  | .vld f => some (Forms.vldF, f, fun e _ => if e.words ≠ [] ∧ e.ea.toNat % 4 ≠ 0 then some ⟨0x05, 0, e.ea, false⟩ else none)
  | .vst f => some (Forms.vstF, f, fun e _ => if e.words ≠ [] ∧ e.ea.toNat % 4 ≠ 0 then some ⟨0x05, 0, e.ea, false⟩ else none)
  | .mark f => some (Forms.markF, f, fun e s =>
      let p := e.r.rdS 30
      if p.toNat % 16 ≠ 0 then some ⟨0x05, 0, p, false⟩
      else if stackTopOf s e.at' < p.toNat ∨ p.toNat < stackFloor s e.at' + 16 then some ⟨0x0A, 0, p - 16, false⟩ else none)
  | .enter f => some (Forms.enterF, f, fun e s =>
      let p := e.r.rdS 30
      if e.srcS.toNat % 8 ≠ 0 then some ⟨0x05, 0, e.srcS, false⟩
      else if p.toNat % 16 ≠ 0 then some ⟨0x05, 0, p, false⟩
      else if stackTopOf s e.at' < p.toNat ∨ p.toNat < stackFloor s e.at' + 16 * e.immU then
        some ⟨0x0A, 0, p - BitVec.ofNat 64 (16 * e.immU), false⟩ else none)
  | .leave f => some (Forms.bare, f, fun e s =>
      let p := e.r.rdS 30
      if p.toNat % 16 ≠ 0 ∨ p.toNat < stackFloor s e.at' ∨ stackTopOf s e.at' < p.toNat + 16 then some ⟨0x0B, 0, p, false⟩ else none)
  | .csrr f => some (Forms.csrrF, f, fun e _ => if csrReadable e.kind f.immU = false then some ⟨0x01, 0, e.r.pc.setWidth 64, false⟩ else none)
  | .csrw f => some (Forms.csrwF, f, fun e _ => if csrWritable e.at'.core f.immU = false then some ⟨0x01, 0, e.r.pc.setWidth 64, false⟩ else none)
  | .bar f => some (Forms.barF, f, fun e _ =>
      if e.kind = .l0 ∧ e.at'.ctx ≠ 0 then some ⟨0x08, BitVec.ofNat 32 e.at'.ctx, e.r.pc.setWidth 64, false⟩ else none)
  | _ => none

/-! The frame stack. -/

/-- An instruction on the context's frame stack (R82, R109, R110, R299). -/
structure StackRow where
  fm : Form
  f : Fields
  cond : Env → State → Prop
  /-- the bytes of each of its loads -/
  reads : Env → List (List Nat)
  stores : Env → State → List (Nat × Byte)
  regs : Env → State → RegState

/-- Whether no byte of a stack read is poisoned (R318). -/
def cleanStack (s : State) (a : CtxId) (va n : Nat) : Prop :=
  ∀ l ∈ tcmBytes a va n, l / 64 ∈ s.poison → SMap.has (s.ctx a).chunk.stores l = true

def stackRow : Instr → Option StackRow
  | .enter f => some {
      fm := Forms.enterF, f := f
      cond := fun e s =>
        let p := (e.r.rdS 30).toNat
        e.srcS.toNat % 8 = 0 ∧ p % 16 = 0 ∧ p ≤ stackTopOf s e.at' ∧ stackFloor s e.at' + 16 * e.immU ≤ p
      reads := fun _ => []
      stores := fun e _ =>
        let n := (e.r.rdS 30).toNat - 16 * e.immU
        tcmStore e.at' n 8 (e.r.rdS 31).toNat ++ tcmStore e.at' (n + 8) 8 (e.immU * 2 ^ 53 + e.srcS.toNat / 8 % 2 ^ 53)
      regs := fun e _ => e.r.wrS 30 (e.r.rdS 30 - BitVec.ofNat 64 (16 * e.immU)) }
  | .leave f => some {
      fm := Forms.bare, f := f
      cond := fun e s =>
        let p := (e.r.rdS 30).toNat
        let size := s.see e.at' (tcmBytes e.at' (p + 8) 8) / 2 ^ 53
        p % 16 = 0 ∧ stackFloor s e.at' ≤ p ∧ p + 16 ≤ stackTopOf s e.at' ∧ cleanStack s e.at' (p + 8) 8 ∧
          size ≠ 0 ∧ p + 16 * size ≤ stackTopOf s e.at' ∧ cleanStack s e.at' p 8
      reads := fun e => [tcmBytes e.at' ((e.r.rdS 30).toNat + 8) 8, tcmBytes e.at' (e.r.rdS 30).toNat 8]
      stores := fun _ _ => []
      regs := fun e s =>
        let p := (e.r.rdS 30).toNat
        (e.r.wrS 31 (BitVec.ofNat 64 (s.see e.at' (tcmBytes e.at' p 8)))).wrS 30
          (e.r.rdS 30 + BitVec.ofNat 64 (16 * (s.see e.at' (tcmBytes e.at' (p + 8) 8) / 2 ^ 53))) }
  | .mark f => some {
      fm := Forms.markF, f := f
      cond := fun e s =>
        let p := (e.r.rdS 30).toNat
        p % 16 = 0 ∧ p ≤ stackTopOf s e.at' ∧ stackFloor s e.at' + 16 ≤ p
      reads := fun _ => []
      stores := fun e _ =>
        let n := (e.r.rdS 30).toNat - 16
        tcmStore e.at' n 8 (ruleTarget e).toNat ++ tcmStore e.at' (n + 8) 8 (e.srcS.toNat % 2 ^ 16)
      regs := fun e _ => e.r.wrS 30 (e.r.rdS 30 - 16) }
  | .unmark f => some {
      fm := Forms.unmarkF, f := f
      cond := fun e s =>
        let p := (e.r.rdS 30).toNat
        p % 16 = 0 ∧ stackFloor s e.at' ≤ p ∧ p + 16 ≤ stackTopOf s e.at' ∧ cleanStack s e.at' (p + 8) 8 ∧
          s.see e.at' (tcmBytes e.at' (p + 8) 8) / 2 ^ 53 = 0
      reads := fun e => [tcmBytes e.at' ((e.r.rdS 30).toNat + 8) 8]
      stores := fun _ _ => []
      regs := fun e s =>
        let d := s.see e.at' (tcmBytes e.at' ((e.r.rdS 30).toNat + 8) 8)
        let r := e.putS e.r (BitVec.ofNat 64 (d % 2 ^ 17))
        r.wrS 30 (r.rdS 30 + 16) }
  | _ => none

/-! Instructions that read memory before they act. -/

/-- An instruction that reads bytes and then leaves registers and staged effects: its condition, the addresses of its bytes,
and what it makes of their little-endian number (R200). -/
structure ReadRow where
  fm : Form
  f : Fields
  cond : Env → State → Prop
  addrs : Env → List Dword
  regs : Env → State → Nat → RegState
  effects : Env → State → Nat → List Effect

/-- The doublewords of a number. -/
def dwordsIn (x n : Nat) : List Dword := (List.range n).map fun i => BitVec.ofNat 64 (x / 2 ^ (64 * i))

/-- Weight loads, slinfo of a handle, and jenq of a card without a page table of its own (R73, R251, R309). -/
def readRow : Instr → Option ReadRow
  | .rwld f => some {
      fm := Forms.wldF, f := f
      cond := fun e s => e.ea.toNat % 16 = 0 ∧ setInUse s e.at'.core true f.aux.toNat = false
      addrs := fun e => span e.ea 128
      regs := fun e _ _ => e.r
      effects := fun _ _ x => [.rwld f.aux.toNat ((List.range 128).map fun i => BitVec.ofNat 8 (x / 256 ^ i))] }
  | .pwld f => some {
      fm := Forms.wldF, f := f
      cond := fun e s => e.ea.toNat % 16 = 0 ∧ setInUse s e.at'.core false f.aux.toNat = false
      addrs := fun e => span e.ea 32
      regs := fun e _ _ => e.r
      effects := fun _ _ x => [.pwld f.aux.toNat ((List.range 32).map fun i => BitVec.ofNat 8 (x / 256 ^ i))] }
  | .slinfo f => some {
      fm := Forms.slinfoF, f := f
      cond := fun e _ => f.aux.toNat = 0 ∧ e.srcS.toNat % 64 = 0
      addrs := fun e => span e.srcS 32
      regs := fun e _ x => e.putS e.r (BitVec.ofNat 64 (sliceWord x))
      effects := fun _ _ _ => [] }
  | .jenq f => some {
      fm := Forms.jenqF, f := f
      cond := fun e _ => e.tsrcS.toNat % 64 = 0
      addrs := fun e => span e.tsrcS 64
      regs := fun e s x => e.putS e.r (BitVec.ofNat 64 (jenqCode s e.at' e.srcS.toNat (dwordsIn x 8) []))
      effects := fun e s x =>
        if jenqCode s e.at' e.srcS.toNat (dwordsIn x 8) [] = 0 then [.jenq e.srcS.toNat (dwordsIn x 8) []] else [] }
  | _ => none

/-- Whether jenq reads a cycle table with its card: the card has one, and the checks before the rest of check 0x03 pass (R26, R73, log 80). -/
def readsTable (i : Instr) (e : Env) (s : State) (x : Nat) : Prop :=
  (∃ f, i = .jenq f) ∧ hasTable (dwordsIn x 8) = true ∧ jenqCode s e.at' e.srcS.toNat (dwordsIn x 8) [] ∉ [0x12, 0x11, 0x01, 0x02]

/-- The state after a read of an instruction: its lines are recorded and its bytes counted, and an entry that served it alone
is gone (R207, R231, R378). -/
def State.afterRead (s : State) (a : CtxId) (locs : List Nat) : State := (s.noteRead a locs).useOnce a 0

/-! Fused gangs (R92). -/

/-- A fused gang of several members, all at the same instruction. -/
structure GangReady (s : State) (g : Nat) (ms : List CtxId) : Prop where
  members : (s.gangOf g).members = ms
  fused : (s.gangOf g).fused = true
  lockstep : (s.gangOf g).solo = none
  many : 1 < ms.length
  distinct : ms.Nodup
  each : ∀ m ∈ ms, m.ctx = 0 ∧ (s.ctx m).gang = some g
  holder : s.holder ∈ ms
  same : ∀ m ∈ ms, (s.ctx m).r.pc = (s.ctx s.holder).r.pc

/-- What a member of a gang sees; what stands in stq is a free value. -/
def envOfMember (fm : Form) (f : Fields) (s : State) (ms : List CtxId) (m : CtxId) (n : Nat) : Env :=
  ⟨m, f, fm, (s.ctx m).r, (s.ctx (ms.headD s.holder)).r, Config.staleQueue n, (s.dom (s.ctx m).dom).superstep⟩

/-! Rendezvous and links. -/

/-- A bar or a vote of a context that meets itself alone: a context of no card (R259, R262). -/
def voteRow : Instr → Option StagedRow
  | .bar f => some { fm := Forms.barF, f := f }
  | .voteAll f => some { fm := Forms.voteF, f := f, regs := fun e _ =>
      let one := e.srcP.toNat % 2 = 1
      { e.r.wrP e.kind f.dstN (if one then pOnes e.kind else 0) with voteRes := if one then 1 else 0 } }
  | .voteAny f => some { fm := Forms.voteF, f := f, regs := fun e _ =>
      let one := e.srcP.toNat % 2 = 1
      { e.r.wrP e.kind f.dstN (if one then pOnes e.kind else 0) with voteRes := if one then 1 else 0 } }
  | .voteSum f => some { fm := Forms.voteSumF, f := f, regs := fun e _ =>
      { e.putS e.r e.srcS with voteRes := BitVec.ofInt 32 (min (max e.srcS.toInt 0) (2 ^ 32 - 1)) } }
  | _ => none

/-- The form and the value of a rendezvous instruction (R259, R262). -/
def arrivalRow : Instr → Option (Form × Fields × Nat × (Env → Dword))
  | .bar f => some (Forms.barF, f, 0, fun _ => 0)
  | .voteAll f => some (Forms.voteF, f, 1, Env.srcP)
  | .voteAny f => some (Forms.voteF, f, 2, Env.srcP)
  | .voteSum f => some (Forms.voteSumF, f, 3, Env.srcS)
  | _ => none

/-- The steps that an arrival makes due: the domain's barrier or vote, once every participant has arrived. -/
def dueAt (s : State) (d : Nat) : List Due :=
  if allArrived s d then [if (formsOf s d).contains 0 then .barrierCommit d else .voteCommit d] else []

/-- A link form: its form, its fields, its kind (0 restr.put, 1 restr.collect, 2 prolg.add, 3 prolg.put), whether its partner
is above it, its count of elements and its mask, and the words of its block (R243, R245). -/
structure LinkRow where
  fm : Form
  f : Fields
  kind : Nat
  up : Bool
  mask : Env → Nat
  words : Env → Nat → Nat
  countOk : Env → Nat → Bool

def linkRow : Instr → Option LinkRow
  | .restrPut f => some ⟨Forms.restrPutF, f, 0, true, fun _ => 1, fun _ b => b, fun _ b => decide (1 ≤ b ∧ b ≤ 2048)⟩
  | .restrCollect f => some ⟨Forms.restrCollectF, f, 1, false, fun e => e.tsrcS.toNat % 256, fun e b => 8 * b / e.stride,
      fun e b => decide (1 ≤ b ∧ b ≤ 2048) && b % e.stride == 0⟩
  | .prolgAdd f => some ⟨Forms.prolgAddF, f, 2, true, fun _ => 1, fun _ b => b,
      fun e b => decide (1 ≤ b ∧ b ≤ 2048) && b % e.stride == 0⟩
  | .prolgPut f => some ⟨Forms.prolgPutF, f, 3, false, fun e => e.tsrcS.toNat % 256, fun _ p => p, fun _ p => decide (1 ≤ p ∧ p ≤ 16384)⟩
  | _ => none

/-- The checks of a link form pass (R32, R246): a put is outside any compute phase; a partner layer, a count in range, a mask that names a child, and a block of whole
words within the core's TCM. -/
def LinkRow.fits (x : LinkRow) (e : Env) (s : State) : Prop :=
  (x.kind = 0 ∨ x.kind = 3 → s.phased e.at' = true → (s.dom (s.ctx e.at').dom).exch = true) ∧
  hasLayer s e x.up = true ∧ x.countOk e e.srcS.toNat = true ∧ x.mask e ≠ 0 ∧ e.oldS.toNat % 4 = 0 ∧
    e.oldS.toNat / 2 ^ 40 = 0xFF00 ∧ e.oldS.toNat % 2 ^ 40 + 4 * x.words e e.srcS.toNat ≤ tcmSize e.kind

/-- The children that a prolg.put is still to serve: those it names, or those left of an offer of the same instruction that was withdrawn while
it waited (R245, R254). -/
def putMask (e : Env) (s : State) : BitVec 8 :=
  match (s.ctx e.at').link with
  | some o => if o.kind = 3 ∧ o.ready = false ∧ o.next = ruleNext e then o.m else BitVec.ofNat 8 e.tsrcS.toNat
  | none => BitVec.ofNat 8 e.tsrcS.toNat

/-- The offer a link form makes: its block is read now where it is a prolg.put, and at the rendezvous otherwise (R243, R245). -/
def LinkRow.offer (x : LinkRow) (e : Env) (s : State) : LinkOp where
  kind := x.kind
  stride := if bitOf x.f.aux.toNat 2 then 2 else 1
  op := x.f.aux.toNat % 4
  a := e.oldS
  n := e.srcS.toNat
  m := if x.kind = 1 then BitVec.ofNat 8 e.tsrcS.toNat else if x.kind = 3 then putMask e s else 0
  data := if x.kind = 3 then blockWords s e.at'.core e.oldS e.srcS.toNat else []
  bad := decide (x.kind = 3 ∧ ∃ l ∈ wordLocsAt e.at'.core e.oldS e.srcS.toNat, l / 64 ∈ s.poison)
  rnd := if x.f.rnd = 0 then bits e.r.arith.toNat 6 2 + 1 else x.f.rnd
  sat := x.f.sat
  ws := e.r.wsel
  order := s.ticks
  ready := true
  next := ruleNext e

/-! Engines, channels and completions. -/

/-- The byte at a location after some writes in order: the last one to it, or what stood there. -/
def byteAfter (m : Memory) (w : List (Nat × Byte)) (n : Nat) : Byte :=
  match w.reverse.find? fun e => e.1 == n with
  | some e => e.2
  | none => Memory.byte m n

/-- No entry of a domain's journal stands at a location (R323): the frame of a write that may journal leaves the entries out. -/
def Unjournaled (t : State) (d n : Nat) : Prop := ∀ e ∈ (t.dom d).journal, ∀ p, e.loc = some p → n < p ∨ p + 72 ≤ n

/-- What an engine's unit of work leaves (R179, R180): its bytes are written and no other byte changes but those of journal entries; the head
command has moved on, or ended; the same context's registers, status, results and other ports, and every other context's, are as before. A
gathered chunk of a fused gather makes the matrix unit due (R188). -/
structure UnitStep (s : State) (a : CtxId) (p : Nat) (h : Command) (w : List (Nat × Byte)) (t : State) : Prop where
  bytes : ∀ n, Unjournaled t (s.ctx a).dom n → Memory.byte t.mem n = byteAfter s.mem w n
  port : (t.ctx a).port p = { (s.ctx a).port p with input := h :: ((s.ctx a).port p).input.drop 1 }
  ports : ∀ b q, (b, q) ≠ (a, p) → (t.ctx b).port q = (s.ctx b).port q
  contexts : ∀ b, (t.ctx b).r = (s.ctx b).r ∧ (t.ctx b).status = (s.ctx b).status
  rest : t = { s with
    cores := t.cores, doms := t.doms, dies := t.dies, mem := t.mem, poison := t.poison, dirty := t.dirty
    jseq := t.jseq, agenda := t.agenda }
  due : t.agenda = s.agenda ++ [if h.outcome.isSome then .completion a.core a.ctx p else .engine a.core a.ctx p] ++
    if p = 1 ∧ cmdOp h.dw = 1 ∧ h.slot = true then [.engine a.core a.ctx 0] else []

/-- A step of an engine: its context and port, the commands it takes, the addresses of an index it reads first, its accesses,
and its work: the bytes it writes, and the command after it. -/
structure EngineRow where
  a : CtxId
  port : Nat
  ready : Command → Prop
  index : Command → List Dword
  runs : State → Command → List Nat → List (Nat × List Dword)
  work : State → Command → List Nat → List (List Nat) → List (Nat × Byte) × Command

/-- What each engine step does with its head command (R177, R187, R188, R271, R272). -/
def engineRow : Instr → Option EngineRow
  | .matrixMul core ctx => some {
      a := ⟨core, ctx⟩, port := 0
      ready := fun h => h.isCodebook = false ∧ cmdOp h.dw = 0 ∧ h.prog < cmdValid h.dw
      index := fun _ => []
      runs := fun _ h _ => matrixRuns h.dw h.prog
      work := fun s h _ ls =>
        let row := matrixRow s h.dw h (s.ctx ⟨core, ctx⟩).r.mxCb h.prog ls
        (codedBytes (ls.getD 4 []) (outBytes h.dw) (row.map (·.code)), rowDone h h.dw (orFlags row)) }
  | .matrixClear core ctx => some {
      a := ⟨core, ctx⟩, port := 0
      ready := fun h => h.isCodebook = false ∧ cmdOp h.dw = 1 ∧ h.prog < cmdValid h.dw
      index := fun _ => []
      runs := fun _ h _ => [(1, span (off (dwAddr h.dw 3) (h.prog * cmdField h.dw 4 16 16)) (32 * (cmdField h.dw 5 48 8 + 1) * outBytes h.dw))]
      work := fun _ h _ ls => ((ls.getD 0 []).map fun l => (l, 0), rowDone h h.dw 0) }
  | .gather core ctx => some {
      a := ⟨core, ctx⟩, port := 1
      ready := fun h => cmdOp h.dw = 0 ∧ h.prog < cmdValid h.dw
      index := fun h => span (off (dwAddr h.dw 1) (4 * h.prog)) 4
      runs := fun s h il =>
        let ix := (0, span (off (dwAddr h.dw 1) (4 * h.prog)) 4)
        let n := cmdField h.dw 5 48 16
        if cmdField h.dw 5 0 32 ≤ s.number il then [ix]
        else [ix, (0, span (off (dwAddr h.dw 2) (s.number il * cmdField h.dw 4 32 32)) n),
          (1, span (off (dwAddr h.dw 3) (h.prog * cmdField h.dw 4 0 32)) n)]
      work := fun s h il ls =>
        if cmdField h.dw 5 0 32 ≤ s.number il then
          ([], (({ h with prog := h.prog + 1 } : Command).note 3 (BitVec.ofNat 64 (s.number il))).upTo (cmdValid h.dw))
        else ((ls.getD 2 []).zip ((ls.getD 1 []).map fun l => Memory.byte s.mem l),
          ({ h with prog := h.prog + 1, done := h.done + 1 } : Command).upTo (cmdValid h.dw)) }
  | .gmul core ctx => some {
      a := ⟨core, ctx⟩, port := 1
      ready := fun h => cmdOp h.dw = 1 ∧ h.slot = false
      index := fun h => if cmdValid h.dw ≤ h.prog then [] else span (off (dwAddr h.dw 1) (4 * h.prog)) 4
      runs := fun s h il =>
        let d := h.dw
        let fm := pairFmts (cmdPair d)
        let m := cmdField d 5 56 8 + 1
        let ix := (0, span (off (dwAddr d 1) (4 * h.prog)) 4)
        if cmdValid d ≤ h.prog then
          [(if cmdField d 0 46 1 = 1 then 3 else 1,
            (List.range m).flatMap fun i => span (off (dwAddr d 3) (i * cmdField d 4 16 16)) (32 * outBytes d))]
        else if cmdField d 5 0 32 ≤ s.number il then [ix]
        else [ix,
          (0, (List.range m).flatMap fun i => span (off (dwAddr d 6) (i * cmdField d 4 48 16 + 4 * h.prog * fm.1.width)) (4 * fm.1.width)),
          (0, (List.range 32).flatMap fun t =>
            span (off (dwAddr d 2) (s.number il * cmdField d 7 32 32 + t * cmdField d 4 32 16)) (fm.2.width * 32 / 8))]
      work := fun s h il ls =>
        let d := h.dw
        let fm := pairFmts (cmdPair d)
        let m := cmdField d 5 56 8 + 1
        let old (i j : Nat) : Option Nat :=
          if cmdField d 0 46 1 = 1 then some (bits (s.number (ls.getD 0 [])) (8 * outBytes d * (32 * i + j)) (8 * outBytes d)) else none
        let one : Val := .fin false 1 0
        let a (x : Nat × Nat × Nat) (i : Nat) := (List.range 32).map fun t => bits x.2.1 (fm.1.width * (32 * i + t)) fm.1.width
        let b (x : Nat × Nat × Nat) (j : Nat) := (List.range 32).map fun t => bits x.2.2 (fm.2.width * (32 * t + j)) fm.2.width
        let out := (List.range m).flatMap fun i => (List.range 32).map fun j =>
          if Forms.pairInt (cmdPair d) then
            writeBack d h i j (old i j) [] ((h.chunks.map fun x => intDot fm.1 fm.2 (a x i) (b x j)).sum)
          else writeBack d h i j (old i j) ((List.range (cmdValid d)).map fun q =>
            (h.chunks.find? fun x => x.1 == q).map fun x => chunkPart h.codebook d (a x i) (b x j) one one) 0
        if cmdValid d ≤ h.prog then
          (codedBytes (ls.getD 0 []) (outBytes d) (out.map (·.code)), { h with flg := h.flg ||| flgOf (orFlags out) }.finish)
        else if cmdField d 5 0 32 ≤ s.number il then
          ([], { h with begun := true, prog := h.prog + 1 }.note 3 (BitVec.ofNat 64 (s.number il)))
        else ([], { h with
          begun := true, slot := true, chunks := h.chunks ++ [(h.prog, s.number (ls.getD 1 []), s.number (ls.getD 2 []))] }) }
  | .topk core ctx => some {
      a := ⟨core, ctx⟩, port := 3
      ready := fun h => cmdOp h.dw = 0 ∧ h.prog < cmdValid h.dw ∧ cmdField h.dw 0 53 3 < 6
      index := fun _ => []
      runs := fun _ h _ =>
        let n := 8 + 4 * 2 ^ cmdField h.dw 0 53 3
        [(if cmdField h.dw 0 52 1 = 1 then 3 else 0, span (off (dwAddr h.dw 1) (256 * h.prog)) 256),
         (1, span (off (dwAddr h.dw 2) (h.prog * n)) n)]
      work := fun s h _ ls =>
        let src := ls.getD 0 []
        let el := (List.range 64).map fun i => bits (s.number src) (32 * i) 32
        let keep := topIndices (2 ^ cmdField h.dw 0 53 3) el
        let image := leBytes 8 ((keep.map fun i => 2 ^ i).sum) ++ keep.flatMap fun i => leBytes 4 (el.getD i 0)
        ((ls.getD 1 []).zip image ++
          (if cmdField h.dw 0 52 1 = 1 then keep.flatMap fun i => (List.range 4).map fun b => (src.getD (4 * i + b) 0, 0) else []),
         ({ h with prog := h.prog + 1, done := h.done + 1 } : Command).upTo (cmdValid h.dw)) }
  | .csum core ctx => some {
      a := ⟨core, ctx⟩, port := 2
      ready := fun h => cmdOp h.dw = 0 ∧ h.prog < cmdValid h.dw
      index := fun _ => []
      runs := fun _ h _ =>
        let n := min 16 (cmdValid h.dw - h.prog)
        [(0, (List.range (cmdField h.dw 0 51 3 + 1)).flatMap fun j =>
            span (off (dwAddr h.dw 1) (j * cmdField h.dw 3 32 32 + 4 * h.prog)) (4 * n)),
         (1, span (off (dwAddr h.dw 2) (4 * h.prog)) (4 * n))]
      work := fun s h _ ls =>
        let n := min 16 (cmdValid h.dw - h.prog)
        let node := match cmdField h.dw 0 54 2 with
          | 0 => node32 .nearest
          | 1 => mergeNode (FloatFmt.fp32.minmax true)
          | _ => mergeNode (FloatFmt.fp32.minmax false)
        let out := (List.range n).map fun i => (tsum node ((List.range (cmdField h.dw 0 51 3 + 1)).map fun j =>
          some ⟨bits (s.number (ls.getD 0 [])) (32 * (n * j + i)) 32, 0⟩)).getD ⟨0, 0⟩
        (codedBytes (ls.getD 1 []) 4 (out.map (·.code)),
          ({ h with prog := h.prog + n, done := h.done + n, flg := h.flg ||| flgOf (orFlags out) } : Command).upTo (cmdValid h.dw)) }
  | _ => none

/-- The bytes a unit reads, each with the address that names it. -/
def readBytes (runs : List (Nat × List Dword)) (ls : List (List Nat)) : List (Nat × Dword) :=
  ((ls.zip runs).filter fun x => x.2.1 != 1).flatMap fun x => x.1.zip x.2.2

/-- The step of an engine whose head command has nothing left to do, and the commands for which that holds. -/
def emptyRow : Instr → Option (CtxId × Nat × (Command → Prop))
  | .matrixMul core ctx => some (⟨core, ctx⟩, 0, fun h => h.isCodebook = false ∧ cmdOp h.dw = 0 ∧ cmdValid h.dw ≤ h.prog)
  | .matrixClear core ctx => some (⟨core, ctx⟩, 0, fun h => h.isCodebook = false ∧ cmdOp h.dw = 1 ∧ cmdValid h.dw ≤ h.prog)
  | .matrixMarker core ctx => some (⟨core, ctx⟩, 0, fun h => h.isCodebook = false ∧ cmdOp h.dw = 2)
  | .gather core ctx => some (⟨core, ctx⟩, 1, fun h => cmdOp h.dw = 0 ∧ cmdValid h.dw ≤ h.prog)
  | .topk core ctx => some (⟨core, ctx⟩, 3, fun h => cmdOp h.dw = 0 ∧ cmdValid h.dw ≤ h.prog)
  | .csum core ctx => some (⟨core, ctx⟩, 2, fun h => cmdOp h.dw = 0 ∧ cmdValid h.dw ≤ h.prog)
  | _ => none

/-- The head command of a queue changed, and nothing else but counters of events. -/
structure HeadStep (s : State) (a : CtxId) (p : Nat) (h : Command) (due : List Due) (t : State) : Prop where
  port : (t.ctx a).port p = { (s.ctx a).port p with input := h :: ((s.ctx a).port p).input.drop 1 }
  ctx : t.ctx a = { s.ctx a with ports := (t.ctx a).ports, misses := (t.ctx a).misses }
  only : OnlyContext s t a
  due : t.agenda = s.agenda ++ due

/-- A copy channel's step and its operation (R212). -/
def channelRow : Instr → Option (Nat × Nat × Nat)
  | .copy cl ch => some (cl, ch, 0)
  | .mcast cl ch => some (cl, ch, 1)
  | .fill cl ch => some (cl, ch, 2)
  | _ => none

/-- The data of a piece of a copy: the source's bytes, or the pattern of a fill repeated from the row's start (R212). -/
def copyData (s : State) (d : List Dword) (b n : Nat) (src : List Nat) : List Byte :=
  if cmdOp d = 2 then (List.range n).map fun i => BitVec.ofNat 8 (cmdField d 5 0 64 / 256 ^ ((b + i) % 8))
  else src.map fun l => Memory.byte s.mem l

/-- What a piece of a copy leaves: its bytes are written and no other byte changes but those of journal entries, the operation has moved on
or ended, and every context's registers, status and queues are as before. -/
structure CopyStep (s : State) (cl ch : Nat) (o : ChanOp) (w : List (Nat × Byte)) (t : State) : Prop where
  bytes : ∀ n, Unjournaled t (s.ctx o.owner).dom n → Memory.byte t.mem n = byteAfter s.mem w n
  chan : t.chan cl ch = { s.chan cl ch with active := some o, done := o.cmd.prog }
  channels : ∀ k c, (k, c) ≠ (cl, ch) → t.chan k c = s.chan k c
  contexts : ∀ b, (t.ctx b).r = (s.ctx b).r ∧ (t.ctx b).status = (s.ctx b).status ∧ (t.ctx b).ports = (s.ctx b).ports
  rest : t = { s with
    cores := t.cores, clus := t.clus, doms := t.doms, dies := t.dies, mem := t.mem, poison := t.poison
    dirty := t.dirty, jseq := t.jseq, agenda := t.agenda }
  due : t.agenda = s.agenda ++ [if o.cmd.outcome.isSome then .completion o.owner.core o.owner.ctx o.port else .channel cl ch]

/-- One core changed, and nothing else; steps may have fallen due. -/
structure OnlyCore (s : State) (c : CoreId) (x : Core) (due : List Due) (t : State) : Prop where
  rest : t = { s with cores := t.cores, agenda := t.agenda }
  own : t.core c = x
  others : ∀ d, d ≠ c → t.core d = s.core d
  due : t.agenda = s.agenda ++ due

/-- The completion element of a command: TAG, STATUS, FLG and DONE (R170). -/
def elementOf (h : Command) (st : Byte) : Dword :=
  BitVec.ofNat 64 (cmdField h.dw 0 0 16 * 2 ^ 32 + st.toNat * 2 ^ 24 + h.flg.toNat % 32 * 2 ^ 16 + h.done % 2 ^ 16)

/-! Commits. -/

/-- The state in which a committing chunk's staged effects begin to act: its stores are visible, its flags are merged, its lines are
in the journal of a phase-structured card with what stood there, and its writes are recorded against the chunks that have read
a home of theirs (R207, R323). -/
structure Committed (s : State) (a : CtxId) (u : State) : Prop where
  bytes : ∀ n, Unjournaled u (s.ctx a).dom n → Memory.byte u.mem n = byteAfter s.mem (s.ctx a).chunk.held n
  own : u.ctx a = { s.ctx a with
    r := { (s.ctx a).r with arith := (s.ctx a).r.arith ||| (s.ctx a).r.pend, pend := 0 }
    chunk := { Chunk.empty with against := (u.ctx a).chunk.against } }
  later : (s.ctx a).ahead = [] → (u.ctx a).chunk.against = []
  kept : (s.ctx a).ahead ≠ [] → ∀ x ∈ (s.ctx a).chunk.against, x ∈ (u.ctx a).chunk.against
  others : ∀ b, b ≠ a → u.ctx b = { s.ctx b with chunk := { (s.ctx b).chunk with against := (u.ctx b).chunk.against } }
  recorded : ∀ b, b ≠ a → ∀ x ∈ (s.ctx b).chunk.against, x ∈ (u.ctx b).chunk.against
  journal : s.phased a = true → ∀ e ∈ (s.ctx a).chunk.held, isHost e.1 = false →
    (∃ j ∈ (s.dom (s.ctx a).dom).journal, j.line = e.1 / 64) ∨
    ∃ j ∈ (u.dom (s.ctx a).dom).journal, j.line = e.1 / 64 ∧
      ((∀ i, i < 64 → Unjournaled u (s.ctx a).dom (e.1 / 64 * 64 + i)) → j.pre = Memory.getBytes s.mem (e.1 / 64 * 64) 64)
  rest : u = { s with
    cores := u.cores, doms := u.doms, dies := u.dies, mem := u.mem, poison := u.poison, dirty := u.dirty, jseq := u.jseq }

/-- The value that a staged csrw (op 0), csrs (1) or csrc (2) gives a control register, bit by bit (R7, R121): RW bits take the value, or
are set or cleared by its ones; W1C bits are cleared by a csrw's ones; every other bit is kept. -/
def csrBit (n op : Nat) (old v : Dword) (i : Nat) : Bool :=
  let o := bitOf old.toNat i
  let x := bitOf v.toNat i
  if bitOf (csrRw n) i then (match op with | 0 => x | 1 => o || x | _ => o && !x)
  else if op = 0 ∧ bitOf (csrW1c n) i = true then o && !x
  else o

/-- The control registers whose write is an action (R94, R315, R336, R355, R356), and STACK.CFG, which may name many cores (R70). -/
def csrActs : List Nat := [0x040, 0x115, 0x116, 0x305, 0x306, 0x641, 0x643]

/-- Whether a register keeps a new value as it is: it exists where it is named, and the value is one that its own rule allows
(R70, R78, R130, R347, R349, R377). -/
structure Settles (s : State) (a : CtxId) (n : Nat) (x : Dword) : Prop where
  die : n = 0x120 ∨ n = 0x121 → (csrTarget s a.core).2.2.1 ≤ 8
  counters : 0x730 ≤ n → n ≤ 0x74F → evcDie s a.core ≤ 8
  cluster : 0x720 ≤ n → n ≤ 0x72F → clusterOf a.core ≠ none
  stall : n = 0x401 → a.core.kind = .l0
  classes : 0x308 ≤ n → n ≤ 0x30F →
    bits x.toNat 0 16 = 0 ∨ bits x.toNat 0 16 < bits x.toNat 16 16 ∧ bits x.toNat 16 16 < bits x.toNat 32 16
  power : n = 0x604 → 1 ≤ bits x.toNat 48 16 ∧ bits x.toNat 48 16 ≤ 3600 ∧ bits x.toNat 32 16 ≤ bits x.toNat 48 16 ∧
    10 ≤ bits x.toNat 0 16 ∧ bits x.toNat 0 16 ≤ 2000
  boost : 0x610 ≤ n → n ≤ 0x633 → x.toNat % 4 ≠ 3 ∧ ∃ cl, boostCluster s a.core (n - 0x610) = some cl ∧ clusterHeld s cl = true
  core : 0x710 ≤ n → n ≤ 0x713 → (bits x.toNat 0 8 = 0 ∨ 0x01 ≤ bits x.toNat 0 8 ∧ bits x.toNat 0 8 ≤ 0x0B) ∧
    (bits x.toNat 8 8 ≤ 10 ∨ bits x.toNat 8 8 = 0xFF)
  clusterEvents : 0x720 ≤ n → n ≤ 0x727 →
    (bits x.toNat 0 8 = 0 ∨ 0x20 ≤ bits x.toNat 0 8 ∧ bits x.toNat 0 8 ≤ 0x25) ∧ bits x.toNat 8 8 = 0xFF
  dieEvents : 0x730 ≤ n → n ≤ 0x73F →
    (bits x.toNat 0 8 = 0 ∨ 0x40 ≤ bits x.toNat 0 8 ∧ bits x.toNat 0 8 ≤ 0x4A) ∧ bits x.toNat 8 8 = 0xFF

/-! Queues. -/

/-- The bytes of a descriptor that the device writes back: its words 2 to 4 (R65). -/
def descBytes (s : State) (q : Nat) : List Nat := (List.range 24).map (descLoc s q + 16 + ·)

/-- A queue changed and its descriptor in memory shows it: TAIL and HEAD, DW3 as `flags` says, CHEAD and DEALT. No other byte, no other
queue and no context's registers change (R65, R66). -/
structure QueueStep (s : State) (q : Nat) (x : Queue) (flags : Dword) (chead : Nat) (due : List Due) (t : State) : Prop where
  own : t.queue q = x
  others : ∀ p, p ≠ q → t.queue p = s.queue p
  counts : t.dword (descLoc s q + 16) = BitVec.ofNat 64 (x.head.toNat * 2 ^ 32 + x.tail.toNat)
  flags : t.dword (descLoc s q + 24) = flags
  dealt : t.dword (descLoc s q + 32) = BitVec.ofNat 64
    ((x.head + BitVec.ofNat 32 (x.cards.filter fun n => (s.card n).dealtAll).length).toNat * 2 ^ 32 + chead % 2 ^ 32)
  bytes : ∀ n, n ∉ descBytes s q → Memory.byte t.mem n = Memory.byte s.mem n
  contexts : ∀ b, (t.ctx b).r = (s.ctx b).r ∧ (t.ctx b).status = (s.ctx b).status
  rest : t = { s with
    cores := t.cores, queues := t.queues, dies := t.dies, mem := t.mem, poison := t.poison, dirty := t.dirty, agenda := t.agenda }
  due : t.agenda = s.agenda ++ due

/-- DW3 of a queue's descriptor in memory: EN is bit 0 and ERR bit 2 (R65). -/
def flagsOf (s : State) (q : Nat) : Dword := s.dword (descLoc s q + 24)

/-- TAIL after a doorbell: its low 31 bits are TAILW, and bit 31 flips where TAILW is below the old ones (R66). -/
def tailAfter (x : Queue) (tailw : BitVec 31) : W32 :=
  let top := x.tail.toNat / 2 ^ 31
  BitVec.ofNat 32 ((if tailw.toNat < x.tail.toNat % 2 ^ 31 then 1 - top else top) * 2 ^ 31 + tailw.toNat)

/-- A new TAIL is allowed: it takes no published card back, and the ring holds what it publishes (R66). -/
def tailFits (x : Queue) (tail : W32) : Prop := x.depth ≤ (tail - x.head).toNat ∧ (tail - x.head).toNat ≤ x.size

/-- A queue is disabled: it has no slot; every card of it not yet wholly dealt is refused with STATUS 0x14, or ends with it once its
running contexts have ended (R66, R68). -/
structure QueueDisabled (s : State) (q : Nat) (x : Queue) (flags : Dword) (t : State) : Prop where
  own : t.queue q = { x with en := false }
  others : ∀ p, p ≠ q → t.queue p = s.queue p
  flags : t.dword (descLoc s q + 24) = flags
  refused : ∀ n ∈ x.cards, (s.card n).dealtAll = false → (s.card n).next = 0 → (s.card n).nextB = 0 →
    t.card n = { s.card n with refused := some 0x14, status := 0x14, done := true }
  ending : ∀ n ∈ x.cards, (s.card n).dealtAll = false → ((s.card n).next ≠ 0 ∨ (s.card n).nextB ≠ 0) →
    t.card n = { s.card n with status := 0x14, next := (s.card n).recCount, nextB := (s.card n).recCount } ∧ .cardRetirement n ∈ t.agenda
  cards : ∀ n, (n ∉ x.cards ∨ (s.card n).dealtAll = true) → t.card n = s.card n
  slots : ∀ y ∈ (t.layer x.layerNo).slots, y.queue ≠ q
  bytes : ∀ n, n ∉ descBytes s q → Memory.byte t.mem n = Memory.byte s.mem n
  contexts : ∀ b, (t.ctx b).r = (s.ctx b).r ∧ (t.ctx b).status = (s.ctx b).status
  due : .completionRecordWrite q ∈ t.agenda

/-- A queue with its descriptor as memory holds it: the distributor reads it at a doorbell; the ASID stays that of its enabling (R9, R65). -/
def described (s : State) (q : Nat) : Queue :=
  { s.queue q with desc := (List.range 8).map fun i =>
      if i = 3 then BitVec.ofNat 64 ((s.dword (descLoc s q + 24)).toNat % 2 ^ 48 + (s.queue q).asid * 2 ^ 48) else s.dword (descLoc s q + 8 * i) }

/-- A queue as its enabling leaves it: counts of 0, and the descriptor read from memory (R66). -/
def enabled (s : State) (q : Nat) : Queue :=
  { s.queue q with
    desc := (List.range 8).map fun i => s.dword (descLoc s q + 8 * i)
    en := true, head := 0, tail := 0, chead := 0, cards := [], waitEnable := none, err := if bitOf (flagsOf s q).toNat 2 then 1 else 0 }

/-- The boot core has enabled the doorbell block (R373). -/
def hostReady (s : State) : Prop := bitOf s.dev.ready.toNat 28 = true

/-- A doorbell that enables a queue, or the deferred enabling that waited for HEAD to equal TAIL (R66). -/
def Enables (i : Instr) (s : State) (q : Nat) (tailw : BitVec 31) : Prop :=
  (s.queue q).head = (s.queue q).tail ∧
    (i = .queueEnable q tailw ∧ (s.queue q).en = false ∧ hostReady s ∨
      i = .queueEnableDeferred q ∧ ∃ w, (s.queue q).waitEnable = some w ∧ tailw = w.setWidth 31)

/-- What another card's step may do to a card: one without records whose turn has come is over at once (R27). -/
def SameOrEmpty (s t : State) (m : Nat) : Prop :=
  t.card m = s.card m ∨ (s.card m).recCount = 0 ∧ (s.card m).fired = true ∧ t.card m = { s.card m with done := true }

/-- A head card whose trigger counter stands at its threshold is to fire (R74). -/
def headFires (t : State) (q : Nat) : Prop :=
  ∀ m, t.headCard q = some m → (t.card m).fired = false →
    (t.card m).field 4 32 16 ≤ (SMap.read (0 : W32) t.dev.trig ((t.card m).field 4 0 12)).toNat → .triggerFire q ∈ t.agenda

/-! Export effects (R73, R75, R204, R205, R326). -/

/-- The number of an atomic in a staged effect. -/
def atomicNo : Instr → Nat
  | .amoadd _ => 0 | .amoand _ => 1 | .amoor _ => 2 | .amoxor _ => 3 | .amomin _ => 4 | .amomax _ => 5 | .amominn _ => 6
  | .amomaxn _ => 7 | .amoswp _ => 8 | _ => 9

/-- What an export effect of a context of a core does as it is performed. A trigger counter counts up to its maximum, and a head card that waits
on it may fire (R75). A store's bytes are written (R205); an atomic reads, computes and writes its word at once, and a clipped result shows in
its context's ARITH.STAT (R204). A job card enters its queue: its bytes in the ring, TAIL one higher, the card last in the queue; where the queue
has been disabled meanwhile it is refused, the model's choice (R73, log 77). Nothing else of a context changes. -/
def Performed (s : State) (c : CoreId) (x : Export) (t : State) : Prop :=
  (Memory.wf s.mem → Memory.wf t.mem) ∧ (∀ b, (t.ctx b).status = (s.ctx b).status) ∧
  match x.fx with
  | .trig k =>
    let v := SMap.read (0 : W32) s.dev.trig k
    t = { s with dev := { s.dev with trig := t.dev.trig }, agenda := t.agenda } ∧
    SMap.read (0 : W32) t.dev.trig k = (if v.toNat = 2 ^ 32 - 1 then v else v + 1) ∧
    (∀ j, j ≠ k → SMap.read (0 : W32) t.dev.trig j = SMap.read 0 s.dev.trig j) ∧
    ∀ q n, s.headCard q = some n → (s.card n).fired = false → (s.card n).field 4 0 12 = k → .triggerFire q ∈ t.agenda
  | .hostStore l _ =>
    t = { s with cores := t.cores, dies := t.dies, mem := t.mem, poison := t.poison, dirty := t.dirty } ∧
    (Memory.wf s.mem → ∀ n, Memory.byte t.mem n = byteAfter s.mem l n) ∧ ∀ b, (t.ctx b).r = (s.ctx b).r
  | .hostAmo loc op fmt sat b cmp _ =>
    let w := if fmt = 0 then 64 else 32
    let at' := (List.range (w / 8)).map (loc + ·)
    let old := s.number at'
    let a : CtxId := ⟨c, x.ctx⟩
    t = { s with cores := t.cores, dies := t.dies, mem := t.mem, poison := t.poison, dirty := t.dirty } ∧
    ∀ i fm f, atomicForm i = some (fm, f) → atomicNo i = op → f.fmt = fmt → f.sat = sat → fmt ∈ [0, 11, 12] →
      let new := rule204 f i w old (b.toNat % 2 ^ w)
      (Memory.wf s.mem → ∀ n, Memory.byte t.mem n =
        if op = 9 ∧ old ≠ cmp.toNat % 2 ^ w ∨ n ∉ at' then Memory.byte s.mem n else BitVec.ofNat 8 (new.1 / 256 ^ (n - loc))) ∧
      ((s.ctx a).mate = none → (s.ctx a).status ≠ .free →
        (t.ctx a).r = { (s.ctx a).r with arith := if new.2 then (s.ctx a).r.arith ||| 32 else (s.ctx a).r.arith } ∧
        ∀ b, b ≠ a → (t.ctx b).r = (s.ctx b).r)
  | .jenq q card table =>
    let y := s.queue q
    let n := s.nextCard
    t = { s with
      cores := t.cores, queues := t.queues, cards := t.cards, layers := t.layers, dies := t.dies, mem := t.mem, poison := t.poison
      dirty := t.dirty, agenda := t.agenda, nextCard := n + 1 } ∧
    t.queue q = { y with tail := y.tail + 1, cards := y.cards ++ [n] } ∧ (∀ p, p ≠ q → t.queue p = s.queue p) ∧
    (t.card n).dw = card ∧ (t.card n).table = table ∧ (t.card n).queue = q ∧
    (t.card n).num = (y.head + BitVec.ofNat 32 y.cards.length).toNat ∧ (∀ m, m ≠ n → SameOrEmpty s t m) ∧
    (y.en = true → (t.card n).refused = none ∧ .dealingRound y.layerNo ∈ t.agenda ∧ headFires t q) ∧
    (y.en = false → (t.card n).refused = some 0x14 ∧ (t.card n).done = true ∧ .completionRecordWrite q ∈ t.agenda) ∧
    (Memory.wf s.mem → ∀ l, l ∉ descBytes s q → Memory.byte t.mem l =
      byteAfter s.mem (card.zipIdx.flatMap fun w => dwordBytes (distLoc y.asid (y.ring + 64 * (y.tail.toNat % y.size) + 8 * w.2)) [w.1]) l) ∧
    ∀ b, (t.ctx b).r = (s.ctx b).r
  | _ => True

/-- Exports of some cores act one after another. -/
def ActInOrder : List (CoreId × Export) → State → State → Prop
  | [], s, t => t = s
  | (c, x) :: l, s, t => ∃ u, Performed s c x u ∧ ActInOrder l u t

/-- The export buffers of a domain's cores have been released: their exports have acted in staging order, core by core in ascending FLAT, and
then layer; the buffers are empty, and the flags that an export raised stand in its context (R204, R326). -/
def Released (s : State) (d : Nat) (t : State) : Prop :=
  ∃ (cs : List CoreId) (u v : State), cs.Perm (coresIn s d) ∧
    cs.Pairwise (fun a b => a.idx < b.idx ∨ a.idx = b.idx ∧ layerOf a.kind ≤ layerOf b.kind) ∧ u = { s with cores := u.cores } ∧
    (∀ b, (u.ctx b).r.arith = (s.ctx b).r.arith) ∧
    ActInOrder (cs.flatMap fun c => (s.core c).exports.map fun x => (c, x)) u v ∧
    t.mem = v.mem ∧ t.poison = v.poison ∧ t.queues = v.queues ∧ t.cards = v.cards ∧ t.nextCard = v.nextCard ∧ t.dev.trig = v.dev.trig ∧
    (∀ x ∈ v.agenda, x ∈ t.agenda) ∧ (∀ b, (t.core b.core).ctxs ≠ [] → (t.ctx b).r.arith = (v.ctx b).r.arith) ∧
    ∀ c ∈ cs, (t.core c).exports = []

/-- The scratchpad's side of a domain's commit: the frees that it was asked for take effect, and its allocations stand (R95). -/
def BlocksCommitted (s : State) (d : Nat) (t : State) : Prop :=
  ∀ k, (t.cluster k).blocks =
    ((s.cluster k).blocks.filter fun b => b.pend != some d).map fun b => if b.dom = d then { b with fresh := false } else b

/-! Placement and the ends of work. -/

/-- A context as it stood, but for what a commit or a write has recorded against its chunk (R207). -/
def Unmoved (s t : State) (b : CtxId) : Prop :=
  t.ctx b = { s.ctx b with chunk := { (s.ctx b).chunk with against := (t.ctx b).chunk.against } }

/-- A control context has started on a core: the card's entry and level, s1 and s2, the top of its stack in s30, and every other
scalar register 0; it is a member of its domain, and a core that did not hold the card last has its counters cleared (R64, R82,
R256, R258). -/
structure Started (s : State) (n : Nat) (c : CoreId) (s1 s2 : Dword) (t : State) : Prop where
  live : (t.ctx ⟨c, 0⟩).status = .live
  card : (t.ctx ⟨c, 0⟩).card = some n
  space : (t.ctx ⟨c, 0⟩).asid = (s.card n).asid
  entry : (t.ctx ⟨c, 0⟩).r.pc = BitVec.ofNat 56 (if (s.card n).cyc then bits ((s.card n).table.getD (layerOf c.kind) 0).toNat 0 56
    else (s.card n).field 0 0 56)
  level : (t.ctx ⟨c, 0⟩).r.level = BitVec.ofNat 4 (if (s.card n).cyc then bits ((s.card n).table.getD (layerOf c.kind) 0).toNat 60 4 else 0)
  first : (t.ctx ⟨c, 0⟩).r.rdS 1 = s1
  count : (t.ctx ⟨c, 0⟩).r.rdS 2 = s2
  stack : (t.ctx ⟨c, 0⟩).r.rdS 30 = BitVec.ofNat 64 (tcmWindow + tcmSize c.kind)
  zero : ∀ j, j ≠ 1 → j ≠ 2 → j ≠ 30 → (t.ctx ⟨c, 0⟩).r.rdS j = 0
  member : ⟨c, 0⟩ ∈ (t.dom (t.ctx ⟨c, 0⟩).dom).members
  counters : (s.core c).lastCard ≠ some n → (t.core c).counters = []

/-- A card has been killed: its contexts, its operations, its staged exports and its save areas are gone, its timetables stand
still, its journals are dropped without being restored, and no other context and no byte of memory changes but those of its queue's descriptor
(R65, R79, R366). -/
structure Killed (s : State) (n : Nat) (status : Byte) (t : State) : Prop where
  card : t.card n = { s.card n with killed := true, status := status }
  cores : ∀ a ∈ s.ctxsOf n, (t.core a.core).ctxs = [] ∧ (t.core a.core).exports = [] ∧ (t.core a.core).tt.running = none ∧
    (t.core a.core).tt.armed = none
  others : ∀ b, (∀ a ∈ s.ctxsOf n, a.core ≠ b.core) → Unmoved s t b
  channels : ∀ k ch o, (t.chan k ch).active = some o → o.owner ∉ s.ctxsOf n
  domains : ∀ d, d ≠ 0 → (s.dom d).card = n → (t.dom d).journal = [] ∧ (t.dom d).members = []
  areas : ∀ x ∈ t.areas, x.card ≠ n
  mem : Memory.wf s.mem → ∀ m, m ∉ descBytes s (s.card n).queue → Memory.byte t.mem m = Memory.byte s.mem m
  due : .cardRetirement n ∈ t.agenda

/-- What the allocator leaves of a request: its result in SPALLOC.RES, where a squash of the open chunk leaves it, the next request due, nothing else of a context and no byte
of memory changed (R94, R95). -/
structure Served (s : State) (a : CtxId) (rest : List W32) (res : Nat) (t : State) : Prop where
  own : t.ctx a = { s.ctx a with
    spreqs := rest, r := { (s.ctx a).r with spres := BitVec.ofNat 32 res }
    chunk := { (s.ctx a).chunk with ckpt := { (s.ctx a).chunk.ckpt with spres := BitVec.ofNat 32 res } } }
  others : ∀ b, b ≠ a → t.ctx b = s.ctx b
  mem : t.mem = s.mem
  due : ∀ y ∈ rest.head?, (if bitOf y.toNat 31 then Due.spallocFree a.core a.ctx else .spallocAllocate a.core a.ctx) ∈ t.agenda

/-! Saving, restoring, errors and messages. -/

/-- A core's control context leaves with its helpers: a save area holds their registers, what they waited for is tried again at the
resume, the core is free, and no other core's context and no byte of memory changes but those of the pool of save areas, which holds the saves
(R331; the pool's place and form are log 95). -/
structure Left (s : State) (n : Nat) (c : CoreId) (t : State) : Prop where
  free : (t.core c).ctxs = []
  area : ∃ x, t.areas = s.areas ++ [x] ∧ x.card = n ∧ x.held = false ∧ x.timeless = false ∧ x.cores.map Saved.core = [c] ∧
    ∀ y ∈ x.cores, ∀ k, (SMap.read Ctx.reset y.data.ctxs k).r = { (s.ctx ⟨c, k⟩).r with ldq := [], ldqDue := [] } ∧
      (SMap.read Ctx.reset y.data.ctxs k).status = match (s.ctx ⟨c, k⟩).status with | .waiting _ => .live | z => z
  others : ∀ b, b.core ≠ c → Unmoved s t b
  mem : Memory.wf s.mem → ∀ m, Memory.byte t.mem m = byteAfter s.mem (dwordBytes savePool (saveWords t)) m

/-- A message of a unit of a context is in its mailbox, or held outside where the box has no room for its class or another of its class is held;
nothing else but events and the box has changed (R314). -/
structure Posted (s : State) (who : CtxId) (unit : Nat) (c : CoreId) (m : List Dword) (t : State) : Prop where
  box :
    let b := (s.core c).mailbox
    (b.room m = true ∧ (∀ x ∈ b.held, isMissMsg x.2.2 ≠ isMissMsg m) → (t.core c).mailbox = { b with msgs := b.msgs ++ [m] }) ∧
    (¬(b.room m = true ∧ ∀ x ∈ b.held, isMissMsg x.2.2 ≠ isMissMsg m) → (t.core c).mailbox = { b with held := b.held ++ [(who, unit, m)] })
  boxes : ∀ d, d ≠ c → (t.core d).mailbox = (s.core d).mailbox
  registers : ∀ b, (t.ctx b).r = (s.ctx b).r ∧ (t.ctx b).status = (s.ctx b).status
  rest : t = { s with cores := t.cores, clus := t.clus }

/-- The pre-image of a journal entry: the 64 bytes behind its 8-byte tag where it stands in memory, else those that the core's own store holds
(R323). -/
def preByte (s : State) (e : JEntry) (i : Nat) : Byte :=
  match e.loc with | some p => Memory.byte s.mem (p + 8 + i) | none => e.pre.getD i 0

/-- The journal entries' own bytes lie in no line that the journal holds: journal memory is not journaled (R323, R324). -/
def Apart (l : List JEntry) : Prop := ∀ e ∈ l, ∀ p, e.loc = some p → ∀ f ∈ l, p + 72 ≤ f.line * 64 ∨ f.line * 64 + 64 ≤ p

/-- The state of a memory after a journal is undone: each line it holds has its pre-image, and every other byte is as before, but for some
bytes written besides (R328). -/
def Undone (s : State) (l : List JEntry) (also : List Nat) (t : State) : Prop :=
  (∀ e ∈ l, ∀ i, i < 64 → e.line * 64 + i ∉ also → Memory.byte t.mem (e.line * 64 + i) = preByte s e i) ∧
    ∀ m, m ∉ also → (∀ e ∈ l, e.line ≠ m / 64) → Memory.byte t.mem m = Memory.byte s.mem m

/-- No pre-image of a journal is uncorrectable: no line was poisoned as it was recorded, and no entry stands in a poisoned line (R318, R328). -/
def Sound (s : State) (l : List JEntry) : Prop :=
  ∀ e ∈ l, e.poisoned = false ∧ ∀ p, e.loc = some p → ∀ i, i < 72 → (p + i) / 64 ∉ s.poison

/-! Checkpoints, power and readiness. -/

/-- A checkpoint operation has ended with a CODE: BUSY 0, DONE 1, ACK and OP as they were; only steps that fall due change besides
(R336). -/
structure Ended (s : State) (code : Nat) (t : State) : Prop where
  stat : t.dev.ckptStat = BitVec.ofNat 64 (2 ^ 30 + code * 2 ^ 16 + s.dev.ckptStat.toNat % 256)
  rest : t = { s with dev := { s.dev with ckptStat := t.dev.ckptStat, ckptNeed := 0 }, agenda := t.agenda, areas := t.areas }
  areas : t.areas = if s.dev.ckptStat.toNat % 16 = 1 then s.areas.map fun x => { x with timeless := true } else s.areas

/-- The walk of R350 over clusters with their requests, steps and falls: each one's new step and fall, and the permits left. -/
def boostWalk (thr : Bool) (req prev : Nat → Nat) (fall : Nat → Bool) : List Nat → Nat → List (Nat × Nat × Bool) × Nat
  | [], pool => ([], pool)
  | c :: cs, pool =>
    let need := if thr then 0 else req c
    let x : Nat × Bool × Nat :=
      if fall c ∨ req c = 0 then (0, false, pool)
      else if 0 < need ∧ need ≤ pool then (need, false, pool - need)
      else if need = 2 ∧ pool = 1 then (1, false, 0)
      else if prev c = 2 then (1, true, pool)
      else (0, false, pool)
    let r := boostWalk thr req prev fall cs x.2.2
    ((c, x.1, x.2.1) :: r.1, r.2)

/-- One cluster's gating changed, and steps may have fallen due (R356). -/
structure Gated (s : State) (cl : Nat) (k : Cluster) (due : List Due) (t : State) : Prop where
  rest : t = { s with clus := t.clus, agenda := s.agenda ++ due }
  own : t.cluster cl = k
  others : ∀ d, d ≠ cl → t.cluster d = s.cluster d

/-- A cluster is ON again: its L0 TLBs are empty, its event counters clear, nothing retained, and dealing goes on (R356, R357). -/
structure SwitchedOn (s : State) (cl : Nat) (t : State) : Prop where
  own : t.cluster cl = { s.cluster cl with gate := .on, wakeLatched := false, retained := [], evc := [] }
  others : ∀ d, d ≠ cl → t.cluster d = s.cluster d
  tlbs : ∀ i < 16, ∀ e ∈ (t.core ⟨.l0, cl * 16 + i⟩).tlb.slots, e.valid = false
  contexts : ∀ b, t.ctx b = s.ctx b
  deals : .dealingRound 0 ∈ t.agenda
  rest : t = { s with cores := t.cores, clus := t.clus, agenda := t.agenda }

/-- The 32 bytes of a telemetry record (R354). -/
def telemetryRecord (t : State) : List Byte :=
  numW 8 t.dev.energyStamp.toNat ++ numW 8 t.dev.telEnergy.toNat ++ numW 2 t.dev.meas ++ numW 2 (t.dev.gov / 1000000)
    ++ numW 2 ((if t.dev.flr then 1 else 0) + (if t.dev.thr then 2 else 0) + (if bits t.dev.ptpStat.toNat 30 2 = 2 then 4 else 0))
    ++ numW 2 (t.clus.filter fun c => c.2.boostCur != 0).length ++ List.replicate 8 0

/-- What waited for readiness has been tried again: memory reads 0 where `zeroed` says, and elsewhere no byte changed but those that the device
keeps in the queues' descriptors; cards without records may have ended, and no context moved (R27, R65, R372, R374). -/
structure Retried (s : State) (zeroed : Nat → Prop) (t : State) : Prop where
  zero : ∀ n, zeroed n → (∀ q ∈ s.queues, n ∉ descBytes t q.1) → Memory.byte t.mem n = 0
  bytes : ∀ n, ¬ zeroed n → (∀ q ∈ s.queues, n ∉ descBytes t q.1) → Memory.byte t.mem n = Memory.byte s.mem n
  cards : ∀ n, t.card n = s.card n ∨ ((s.card n).recCount = 0 ∧ t.card n = { s.card n with done := true })
  queues : t.queues = s.queues
  due : ∀ l < 4, .dealingRound l ∈ t.agenda

/-- A function has become ready: its bit is 1, its memories read 0, what waited for it is tried again, and no context moved (R372, R374). -/
structure BroughtUp (s : State) (bit : Nat) (zeroed : Nat → Prop) (t : State) : Prop where
  ready : t.dev = { s.dev with ready := s.dev.ready ||| BitVec.ofNat 64 (2 ^ bit) }
  again : Retried s zeroed t
  contexts : ∀ b, Unmoved s t b
  rest : t = { s with
    cores := t.cores, dies := t.dies, dev := t.dev, mem := t.mem, poison := t.poison, dirty := t.dirty, agenda := t.agenda, layers := t.layers,
    cards := t.cards }

end Sys2Proof.Machine
end

