-- ==== Sys2Proof/Certificates/Slice0/Obligations.lean ====
section
/-! DEFINITION. The statements for the provers. -/

open Sys2Proof Sys2Proof.Machine

/-- R64, R82, R372, R395: at reset only the boot core runs, its four contexts live with every scalar register 0 but s30, the top of each one's
stack, on empty memory in its canonical form; every other core is as a core at reset and no function is ready. (The pc is 0 by log entry
3, and empty memory reads 0 by log entry 4: the model's choices.) -/
def Obligations.ResetLeavesOnlyTheBootCoreRunning : Prop :=
  Memory.wf State.reset.mem ∧ State.reset.mem = [] ∧ State.reset.dev.ready = 0 ∧ State.reset.dev.readyCl = [] ∧
  State.reset.agenda = [] ∧ State.reset.cards = [] ∧ State.reset.queues = [] ∧
  (∀ k < 4,
    let c := State.reset.ctx ⟨⟨.boot, 0⟩, k⟩
    c.status = .live ∧ c.r.pc = 0 ∧ c.r.arith = 0 ∧ c.r.rdS 30 = BitVec.ofNat 64 (0x00FF000000000000 + 0x40000 - k * 0x1000) ∧
    ∀ n < 32, n ≠ 30 → c.r.rdS n = 0) ∧
  ∀ c, c ≠ ⟨.boot, 0⟩ → State.reset.core c = Core.reset

/-- Every step keeps the canonical form of memory: addresses rise strictly and no entry equals what an unlisted address reads as, so that
equal memories are equal data. The form, and the 0 that a byte nobody has written reads as, are the model's choice (log 4); R372 gives that 0
for the device's own memories once they are ready. -/
def Obligations.EveryStepKeepsMemoryCanonical : Prop :=
  ∀ (s t : State), Memory.wf s.mem → step s = .next t → Memory.wf t.mem

/-- R39 to R46, R49, R51: the words of a well-formed instruction, whatever follows them, decode to it, every operand at every value the
encoding admits, with their number as its length. -/
def Obligations.DecodeOfEncodeIsTheInstruction : Prop :=
  ∀ (i : Instr) (rest : List Half), i.key ≠ none → i.wf = true → decode (encode i ++ rest) = .instr i (encode i).length

/-- R39 to R46, R49, R51 to R58: words written out from the encoding tables decode to the instructions they stand for; an opcode of page 7 is
reserved, MAJOR 27 without a page prefix and a fifth prefix are malformed. -/
def Obligations.WordsDecodeAsTheSpecWritesThem : Prop :=
  decode [0xE830, 0xF581, 0x0090] = .instr (.add ⟨1, 2, 0, some ⟨false, false, 3, false, 0⟩, some ⟨11, 0, 0, true⟩, []⟩) 3 ∧
  decode [0xF801, 0x3805] = .instr (.enter ⟨0, 0, 0, none, none, [1]⟩) 2 ∧
  decode [0xE100, 0xE830, 0xF681, 0xD890] = .instr (.vadd ⟨1, 2, 0, some ⟨false, false, 3, false, 0⟩, some ⟨13, 0, 0, true⟩, []⟩) 4 ∧
  decode [0xE51A, 0xFB04, 0xDA00] = .instr (.csrr ⟨4, 0, 0, none, none, [0x304]⟩) 3 ∧
  decode [0xE522, 0xD800] = .instr (.park ⟨0, 0, 0, none, none, []⟩) 2 ∧
  decode [0xE700, 0xD800] = .reserved 0x700 2 ∧
  decode [0xD800] = .illegal 1 ∧
  decode [0xF800, 0xF800, 0xF800, 0xF800, 0xF800] = .illegal 5

/-- R46, R47, R50, R129: when a core issues, the chain at its holder's pc decodes, and the step is exec of the instruction it decodes to, at
the state one cycle later, its lines then in the core's instruction cache (R125; an answer that served one fetch is then used up, R231); a
reserved code and a malformed chain are steps of their own; a step the schedule names is exec of it. -/
def Obligations.StepRunsTheDecodedInstruction : Prop :=
  (∀ (s : State) (i : Instr) (ts : List Turn), s.turns = .run i :: ts → step s = exec i { s with turns := ts }) ∧
  ∀ (s : State) (c : CoreId) (ts : List Turn) (l : List Half) (i : Instr) (n : Nat),
    (s.turns = .issue c :: ts ∨ s.turns = [] ∧ ts = [] ∧ s.agenda = [] ∧ pending s = none ∧ nextCore s = some c) →
    let u : State := { coreTick { s with turns := ts } c with cur := c }
    clockRuns s c = true → mayIssue u c = true → (∀ m ∈ u.together u.holder, (u.ctx m).pendFault = none) →
    fetchHalves u (u.fetcher u.holder) 5 (u.ctx u.holder).r.pc = .ok l → (decode l).step = some (i, n) →
    let v := u.fetched (u.fetcher u.holder) (u.ctx u.holder).r.pc n
    (∀ b, v.ctx b = s.ctx b) ∧ v.mem = s.mem ∧ v.ticks = s.ticks + 1 ∧ v.holder = ⟨c, (s.core c).holder⟩ ∧
      (∀ d, v.core d = { s.core d with
        evc := (v.core d).evc, icache := (v.core d).icache, fetchLine := (v.core d).fetchLine, icacheDrop := (v.core d).icacheDrop }) ∧
      step s = match exec i v with
        | .next t => .next (fetchUsed v t v.holder)
        | o => o

/-- R99, R102 (with R100 and R104): each scalar integer instruction writes d with the value of the rule, computed here with exact integers,
raises SAT in its chunk where R100 clipped it, and changes nothing else. -/
def Obligations.IntegerInstructionsGiveRuleResults : Prop :=
  ∀ (i : Instr) (x : RegRow) (v : Env → Dword × Bool) (s : State), integerRow i = some x → integerResult i = some v →
    Issues x.fm x.ok x.f s →
    Completes i s (RegStep x.fm x.f s (withResult (envOf x.fm x.f s) (v (envOf x.fm x.f s))) (s.after x.fm x.f) false)

/-- R103: a compare writes its whole predicate register, a predicate instruction acts bit by bit, a write of p0 is discarded, and nothing else
changes. -/
def Obligations.PredicateInstructionsGiveRuleBits : Prop :=
  ∀ (i : Instr) (x : RegRow) (bit : Env → Nat → Bool) (s : State), integerRow i = some x → predicateBit i = some bit →
    Issues x.fm x.ok x.f s →
    ∃ r, WritesPredicate (envOf x.fm x.f s) (bit (envOf x.fm x.f s)) r ∧
      Completes i s (RegStep x.fm x.f s r (s.after x.fm x.f) false)

/-- R111 to R115: a scalar float instruction completes. An arithmetic one or a conversion to a float writes its destination with the exact
result rounded once, and raises the flags of that rounding; a compare writes its predicate, fclass its one bit and fcvti its integer, with
their flags; a move or a sign operation writes the bits of its source, at the width of its format, and raises nothing. Nothing else
changes. -/
def Obligations.ScalarFloatInstructionsGiveRuleResults : Prop :=
  (∀ (i : Instr) (x : RegRow) (c : Env → Coded) (s : State), floatRow i = some x → floatResult i = some c → Issues x.fm x.ok x.f s →
    Completes i s (RegStep x.fm x.f s (withFloat (envOf x.fm x.f s) (c (envOf x.fm x.f s))) (s.after x.fm x.f) false)) ∧
  (∀ (i : Instr) (x : RegRow) (v : Env → RegState) (s : State), floatRow i = some x → floatOutside i = some v → Issues x.fm x.ok x.f s →
    Completes i s (RegStep x.fm x.f s (v (envOf x.fm x.f s)) (s.after x.fm x.f) false)) ∧
  ∀ (i : Instr) (x : RegRow) (v : Env → RegState) (s : State), floatRow i = some x → moveResult i = some v → Issues x.fm x.ok x.f s →
    Completes i s (RegStep x.fm x.f s (v (envOf x.fm x.f s)) (s.after x.fm x.f) false)

/-- R152, R155 to R158, R160 to R165: a vector instruction completes. An integer or bit instruction gives each active element the low bits of
its exact result, clipped where SAT is set; a float, permute, move, dot or conversion instruction gives each element that it writes the
result of its row and merges its flags; a compare gives the predicate bits of each active element its condition. Every other element and
bit keeps its value, and nothing else changes. -/
def Obligations.VectorInstructionsActElementwise : Prop :=
  (∀ (i : Instr) (x : RegRow) (v : Env → Nat × (Nat → Int)) (s : State), vectorRow i = some x → vectorResult i = some v →
    Issues x.fm x.ok x.f s →
    ∃ r, WritesElements (envOf x.fm x.f s) (v (envOf x.fm x.f s)).1 (v (envOf x.fm x.f s)).2 r ∧
      Completes i s (RegStep x.fm x.f s r (s.after x.fm x.f) false)) ∧
  (∀ (i : Instr) (x : RegRow) (v : Env → ElementRow) (s : State), vectorRow i = some x → elementRow i = some v → Issues x.fm x.ok x.f s →
    ∃ r, WritesRow (envOf x.fm x.f s) (v (envOf x.fm x.f s)) r ∧ Completes i s (RegStep x.fm x.f s r (s.after x.fm x.f) false)) ∧
  ∀ (i : Instr) (x : RegRow) (v : Env → Nat × (Nat → Bool × Nat)) (s : State), vectorRow i = some x → elementCompare i = some v →
    Issues x.fm x.ok x.f s →
    ∃ r, WritesBits (envOf x.fm x.f s) (v (envOf x.fm x.f s)).1 (v (envOf x.fm x.f s)).2 r ∧
      Completes i s (RegStep x.fm x.f s r (s.after x.fm x.f) false)

/-- R159, R160: a reduction completes with the canonical sum of its active elements, and vext with its element, in the scalar destination.
R174: a command builder completes with the doublewords of its command in its vector pair. R192, R193: a tile instruction on registers
completes with each element of its result, or the tile or row it moves or reduces. Nothing else changes. -/
def Obligations.ReductionsCommandsAndTilesGiveRuleResults : Prop :=
  (∀ (i : Instr) (x : RegRow) (v : Env → RegState) (s : State), vectorRow i = some x → reductionResult i = some v →
    Issues x.fm x.ok x.f s → Completes i s (RegStep x.fm x.f s (v (envOf x.fm x.f s)) (s.after x.fm x.f) false)) ∧
  (∀ (i : Instr) (x : RegRow) (v : Env → Nat → Dword) (s : State), commandRow i = some x → commandWord i = some v →
    Issues x.fm x.ok x.f s →
    ∃ r, WritesPair (envOf x.fm x.f s) i (v (envOf x.fm x.f s)) r ∧ Completes i s (RegStep x.fm x.f s r (s.after x.fm x.f) false)) ∧
  (∀ (i : Instr) (x : RegRow) (v : Env → Nat × Nat × (Nat → Nat → Coded)) (s : State), tileRow i = some x → tileElement i = some v →
    Issues x.fm x.ok x.f s →
    let y := v (envOf x.fm x.f s)
    ∃ r, WritesTile (envOf x.fm x.f s) y.1 y.2.1 y.2.2 r ∧ Completes i s (RegStep x.fm x.f s r (s.after x.fm x.f) false)) ∧
  ∀ (i : Instr) (x : RegRow) (v : Env → RegState → Prop) (s : State), tileRow i = some x → TileMove i = some v → Issues x.fm x.ok x.f s →
    ∃ r, v (envOf x.fm x.f s) r ∧ Completes i s (RegStep x.fm x.f s r (s.after x.fm x.f) false)

/-- R42: a scalar instruction whose guard is false writes nothing: the pc moves to the next instruction, the instruction is counted in its
chunk, and nothing else changes. -/
def Obligations.FalseGuardOnlyAdvances : Prop :=
  ∀ (i : Instr) (x : ChainRow) (s : State), chainRow i = some x → Alone s →
    x.fm.legal s.holder.core.kind x.f = true → x.ok s.holder.core x.f = true → x.fm.guard = .scalar →
    guardBit s.holder.core.kind x.f (s.ctx s.holder).r = false →
    Completes i s fun t =>
      t.ctx s.holder = ({ s.opened with r := { (s.ctx s.holder).r with pc := s.after x.fm x.f }, status := .live }).countOne false ∧
      OnlyContext s t s.holder ∧ t.dies = s.dies ∧ t.agenda = s.agenda ∧ t.free = s.free

/-- R200, R201, R193: a load whose bytes can all be read, none poisoned, at aligned addresses leaves the little-endian value of those bytes,
as the context sees them, in its destination; their lines are recorded, and nothing else changes. -/
def Obligations.LoadsReturnTheBytesRead : Prop :=
  ∀ (i : Instr) (x : LoadRow) (s : State) (locs : List Nat), loadRow i = some x → Issues x.fm alwaysOk x.f s →
    let e := envOf x.fm x.f s
    let u := s.entered x.fm x.f
    x.aligned e → reachAll u s.holder 0 0 true (x.addrs e) = .ok locs → u.poisonAt s.holder (locs.zip (x.addrs e)) = none →
    Completes i s (OwnStep x.fm x.f s (s.useOnce s.holder 0)
      ((s.opened.withReads locs).withRegs (x.regs e (u.see s.holder locs))) (s.after x.fm x.f) false)

/-- R200, R201, R207, R193: a store whose bytes can all be written at aligned addresses is held by the context's chunk: no byte of memory
changes, the context itself sees each byte it stored and every other byte as before, the chunk keeps the end of the first lease its store
used (R231), and nothing else changes. In a phase-structured card the bytes of host-visible memory are staged as an export (R326). -/
def Obligations.StoresAreHeldByTheChunk : Prop :=
  ∀ (i : Instr) (x : StoreRow) (s : State) (locs : List Nat), storeRow i = some x → Issues x.fm alwaysOk x.f s →
    let e := envOf x.fm x.f s
    let u := s.entered x.fm x.f
    let l := locs.zip ((x.bytes e).map (·.2))
    x.aligned e → reachAll u s.holder 0 1 true ((x.bytes e).map (·.1)) = .ok locs →
    Completes i s fun t =>
      OwnStep x.fm x.f s (s.useOnce s.holder 0) ((s.opened.withLease (leaseOver s s.holder ((x.bytes e).map (·.1)))).withWrites
        (u.phased s.holder) ((x.bytes e).map (·.1)) l) (s.after x.fm x.f) false t ∧
      t.mem = s.mem ∧
      (∀ n, n ∉ locs → t.seeByte s.holder n = u.seeByte s.holder n) ∧
      (¬(u.phased s.holder = true ∧ locs.any isHost = true) → locs.Nodup → ∀ p ∈ l, t.seeByte s.holder p.1 = p.2)

/-- R204, R205: an atomic at an aligned address that can be read and written returns the old value and holds the new one with its chunk's
stores; host-visible memory needs the chunk to begin with it. At device or fabric scope it is also a fence (R206). -/
def Obligations.AtomicsReadAndWriteOnce : Prop :=
  ∀ (i : Instr) (fm : Form) (f : Fields) (s : State) (locs : List Nat), atomicForm i = some (fm, f) → Issues fm alwaysOk f s →
    let e := envOf fm f s
    let u := s.entered fm f
    let n := if f.fmt = 0 then 8 else 4
    let old := u.see s.holder locs
    let new := rule204 f i (8 * n) old (e.tsrcS.toNat % 2 ^ (8 * n))
    let d : Dword := if f.fmt = 11 then (BitVec.ofNat 32 old).signExtend 64 else BitVec.ofNat 64 old
    e.ea.toNat % n = 0 → reachAll u s.holder 0 3 true (span e.ea n) = .ok locs →
    u.poisonAt s.holder (locs.zip (span e.ea n)) = none →
    (locs.any isHost = true → (s.ctx s.holder).chunk.count = 0 ∧ u.phased s.holder = false) →
    let fenced := if f.scope ∈ [4, 5] then s.modCore s.holder.core fun k => { k with icache := [], fetchLine := none } else s
    Completes i s (OwnStep fm f s (fenced.useOnce s.holder 0)
      ((let c := (s.opened.withLease (leaseOver s s.holder (span e.ea n))).withReads locs
        if atomicWrites i e (8 * n) old then
          c.withStores ((List.range n).map fun k => (locs.getD k 0, BitVec.ofNat 8 (new.1 / 256 ^ k)))
        else c).withRegs (withResult e (d, new.2))) (s.after fm f) false)

/-- R171, R172, R181 to R186: each instruction on an engine port leaves its registers and stages its effect; nothing else changes. R75, R218,
R251, R252, R257, R266, R267: counters, triggers, timetable selection and the layer queries. R203, R208, R209: prefetches change nothing
but the pc, chunk.end ends its chunk, and a fence, in a machine that performs accesses in order, only advances, a device or fabric one
with the core's instruction cache emptied (R125). R121, R122, R226: a control register the core has is read at issue, and written when
the chunk commits. R85, R89: join takes the result of an ended helper, workq posts a query or answers 1 where two are out. -/
def Obligations.StagedInstructionsComplete : Prop :=
  (StagedComplete enginePortRow) ∧
  (StagedComplete signalRow) ∧
  (StagedComplete hintRow) ∧
  (StagedComplete csrRow) ∧
  (StagedComplete helperRow)

/-- R105, R106, R119, R120: each control instruction leaves the registers of its rule and goes on at the pc of its rule; trap with a handler
and rte end their chunk; nothing else changes, but that trap with a handler discards what the access half has done ahead (R128). The targets
of jmp, callr and ret are the low 56 bits of their register, which the rules do not say: bits 63:56 are lost by log 67 (the model's choice). -/
def Obligations.ControlInstructionsGoWhereTheRuleSays : Prop :=
  ∀ (i : Instr) (x : ControlRow) (s : State), controlRow i = some x → Issues x.fm alwaysOk x.f s → x.cond (envOf x.fm x.f s) →
    let r := x.regs (envOf x.fm x.f s)
    let pc := x.pc (envOf x.fm x.f s)
    ((∀ f, i ≠ .trap f) → Completes i s (RegStep x.fm x.f s r pc x.ends)) ∧
    ((∃ f, i = .trap f) → Completes i s fun t => OwnStep x.fm x.f s s (s.opened.withRegs r).dropAhead pc x.ends t ∧ t.dies = s.dies)

/-- R82, R109, R110, R299: enter and mark push, leave and unmark pop, within the bounds of the context's frame stack. -/
def Obligations.StackInstructionsPushAndPop : Prop :=
  ∀ (i : Instr) (x : StackRow) (s : State), stackRow i = some x → Issues x.fm alwaysOk x.f s →
    let e := envOf x.fm x.f s
    let u := s.entered x.fm x.f
    x.cond e u →
    Completes i s (OwnStep x.fm x.f s s ((((x.reads e).foldl Ctx.withReads s.opened).withStores (x.stores e u)).withRegs (x.regs e u))
      (s.after x.fm x.f) false)

/-- R118, R119, R105, R200: a precise trap that the operands decide, at the start of a chunk, records its cause, its INFO, FAULT.ADDR and EPC,
changes no other register of the instruction and no memory, stops the context, makes its message due and gives the pipe to the next ready
context. R118: the same traps in a chunk that has run instructions end that chunk first, and change nothing else. -/
def Obligations.PreciseTrapsRecordAndStop : Prop :=
  (∀ (i : Instr) (fm : Form) (f : Fields) (trap : Env → State → Option Trap) (x : Trap) (s : State),
     trapRow i = some (fm, f, trap) → Issues fm alwaysOk f s → (s.ctx s.holder).chunk.count = 0 →
     trap (envOf fm f s) (s.entered fm f) = some x → Completes i s (TrapStep fm f s x)) ∧
  (∀ (i : Instr) (fm : Form) (f : Fields) (trap : Env → State → Option Trap) (x : Trap) (s : State),
     trapRow i = some (fm, f, trap) → Issues fm alwaysOk f s → (s.ctx s.holder).chunk.count ≠ 0 →
     trap (envOf fm f s) (s.entered fm f) = some x → Completes i s (EndsChunk s))

/-- R49, R50: an instruction whose fields its form or its core does not allow takes the illegal-instruction trap, whatever its guard:
FAULT.ADDR and EPC hold its address, and nothing else of it happens. R46, R50: a reserved code, met at the start of a chunk, records cause
2, its code, FAULT.ADDR and EPC, stops its context, makes its message due and parks its core; a malformed chain takes the
illegal-instruction trap; in a chunk that has run instructions, each ends that chunk first. -/
def Obligations.IllegalAndReservedCodesTrap : Prop :=
  (∀ (i : Instr) (x : ChainRow) (s : State), chainRow i = some x → Alone s →
     (x.fm.legal s.holder.core.kind x.f && x.ok s.holder.core x.f) = false → (s.ctx s.holder).chunk.count = 0 →
     Completes i s (TrapStep x.fm x.f s ⟨0x01, 0, (s.ctx s.holder).r.pc.setWidth 64, false⟩)) ∧
  (∀ (s : State),
     let a := s.holder
     let c := s.ctx a
     (∀ code, c.chunk.count = 0 → Completes (.reservedOpcode code) s fun t =>
       OnlyCore s a.core { s.core a.core with ctxs := (t.core a.core).ctxs, parked := some a.ctx } [.faultMessage a.core a.ctx] t ∧
       t.ctx a = { c with
         r := { c.r with code := 2, info := code.setWidth 32, faddr := c.r.pc.setWidth 64, epc := c.r.pc }
         status := .stopped, msgDue := true } ∧
       ∀ n, n ≠ a.ctx → t.ctx ⟨a.core, n⟩ = s.ctx ⟨a.core, n⟩) ∧
     (c.chunk.count = 0 → Completes .illegalChain s
       (Yields s s (c.trapped ⟨0x01, 0, c.r.pc.setWidth 64, false⟩ c.r.pc) [.faultMessage a.core a.ctx])) ∧
     (c.chunk.count ≠ 0 → (∀ code, Completes (.reservedOpcode code) s (EndsChunk s)) ∧ Completes .illegalChain s (EndsChunk s)))

/-- R42, R207: an instruction described as ending the chunk before it does so where its guard holds, before it acts. R43, R127, R129, R130: an
instruction that needs more ldq entries than there are, or a place in a full stq, stalls with no effect: QSTALL counts it, and the pipe
goes to the next ready context. -/
def Obligations.ChunksEndBeforeAndQueuesStall : Prop :=
  (∀ (i : Instr) (x : ChainRow) (s : State), chainRow i = some x → Alone s →
     x.fm.legal s.holder.core.kind x.f = true → x.ok s.holder.core x.f = true →
     (x.fm.guard = .scalar → guardBit s.holder.core.kind x.f (s.ctx s.holder).r = true) →
     x.fm.ends.isBefore = true → (s.ctx s.holder).chunk.count ≠ 0 → Completes i s (EndsChunk s)) ∧
  (∀ (i : Instr) (x : ChainRow) (s : State), chainRow i = some x → Alone s →
     x.fm.legal s.holder.core.kind x.f = true → x.ok s.holder.core x.f = true →
     (x.fm.guard = .scalar → guardBit s.holder.core.kind x.f (s.ctx s.holder).r = true) →
     (x.fm.ends.isBefore = true → (s.ctx s.holder).chunk.count = 0) →
     let c := s.opened
     let stall (w : Wait) := Yields s s { c with
       r := { c.r with qstall := if c.r.qstall = 0xFFFFFFFF then 0xFFFFFFFF else c.r.qstall + 1 }, status := .waiting w } []
     (c.r.ldq.length < x.fm.ldqNeed x.f → Completes i s (stall (.ldq (x.fm.ldqNeed x.f)))) ∧
       (x.fm.ldqNeed x.f ≤ c.r.ldq.length → x.fm.stqDst x.f = true → 8 ≤ (s.ctx s.holder).stqHeld → Completes i s (stall .stq)))

/-- R73, R251, R309: weight loads, slinfo of a handle and jenq read their bytes, record their lines, and leave their registers and staged
effects; nothing else changes. R73: jenq of a card with a cycle table reads the card and, where the checks before the table pass (log 80:
the model's choice), then the table, and answers with its outcome code; a card that is accepted is staged for its queue. -/
def Obligations.InstructionsThatReadThenAct : Prop :=
  (∀ (i : Instr) (x : ReadRow) (s : State) (locs : List Nat), readRow i = some x → Issues x.fm alwaysOk x.f s →
     let e := envOf x.fm x.f s
     let u := s.entered x.fm x.f
     let v := u.afterRead s.holder locs
     let n := u.see s.holder locs
     x.cond e u → reachAll u s.holder 0 0 true (x.addrs e) = .ok locs → u.poisonAt s.holder (locs.zip (x.addrs e)) = none →
     ¬readsTable i e v n →
     Completes i s (OwnStep x.fm x.f s (s.useOnce s.holder 0)
       (((s.opened.withReads locs).withRegs (x.regs e v n)).withEffects (x.effects e v n)) (s.after x.fm x.f) x.fm.ends.isHolding)) ∧
  (∀ (f : Fields) (s : State) (l1 l2 : List Nat), Issues Forms.jenqF alwaysOk f s →
     let e := envOf Forms.jenqF f s
     let u := s.entered Forms.jenqF f
     let v := u.afterRead s.holder l1
     let w := v.afterRead s.holder l2
     let card := dwordsIn (u.see s.holder l1) 8
     let at2 := span (BitVec.ofNat 64 ((card.headD 0).toNat % 2 ^ 56)) 32
     let table := dwordsIn (v.see s.holder l2) 4
     let code := jenqCode w s.holder e.srcS.toNat card table
     e.tsrcS.toNat % 64 = 0 → reachAll u s.holder 0 0 true (span e.tsrcS 64) = .ok l1 →
     u.poisonAt s.holder (l1.zip (span e.tsrcS 64)) = none → readsTable (.jenq f) e v (u.see s.holder l1) →
     reachAll v s.holder 0 0 true at2 = .ok l2 → v.poisonAt s.holder (l2.zip at2) = none →
     Completes (.jenq f) s (OwnStep Forms.jenqF f s ((s.useOnce s.holder 0).useOnce s.holder 0)
       ((((s.opened.withReads l1).withReads l2).withRegs (e.putS e.r (BitVec.ofNat 64 code))).withEffects
         (if code = 0 then [.jenq e.srcS.toNat card table] else [])) (s.after Forms.jenqF f) false))

/-- R128, R129, R202: a queue load never stalls the pipe: its bytes, read now, are on their way to ldq behind those before them; an access
made ahead of it lands at once where ldq has room and nothing is on its way, and a fault found ahead is taken here, at its own
instruction. Nothing else changes. R127, R202: qst stores the low bytes of the oldest stq entry and removes it; the bytes are held by the
chunk. -/
def Obligations.QueueLoadsAndStoresMoveEntries : Prop :=
  (∀ (i : Instr) (fm : Form) (f : Fields) (n : Nat) (s : State),
     (i = .qld f ∧ fm = Forms.qldF ∧ n = 2 ^ f.aux.toNat ∨ i = .qvld f ∧ fm = Forms.qvldF ∧ n = 32) → Issues fm alwaysOk f s →
     let e := envOf fm f s
     let u := s.entered fm f
     e.ea.toNat % (if n = 32 then 4 else n) = 0 →
     (∀ locs, aheadOf (s.ctx s.holder) false = none → reachAll u s.holder 0 0 true (span e.ea n) = .ok locs →
       u.poisonAt s.holder (locs.zip (span e.ea n)) = none →
       Completes i s (OwnStep fm f s (s.useOnce s.holder 0)
         ((s.opened.withReads locs).withRegs { e.r with ldqDue := e.r.ldqDue ++ [BitVec.ofNat 256 (u.see s.holder locs)] })
         (s.after fm f) false)) ∧
     (∀ h, aheadOf (s.ctx s.holder) false = some h → h.fault = none → u.poisonAt s.holder (h.locs.zip (span e.ea n)) = none →
       Completes i s (OwnStep fm f s s
         (({ s.opened.withReads h.locs with ahead := (s.ctx s.holder).ahead.drop 1 } : Ctx).withRegs
           (if e.r.ldqDue = [] ∧ e.r.ldq.length < 8 then { e.r with ldq := e.r.ldq ++ [h.data] }
            else { e.r with ldqDue := e.r.ldqDue ++ [h.data] })) (s.after fm f) false)) ∧
     (∀ h code info va, aheadOf (s.ctx s.holder) false = some h → h.fault = some (code, info, va) → code ≠ 0x17 →
       (s.ctx s.holder).chunk.count = 0 → Completes i s (TrapStep fm f s ⟨code, info, va, false⟩))) ∧
  (∀ (f : Fields) (s : State) (x : BitVec 256) (q : List (BitVec 256)) (locs : List Nat), Issues Forms.qstF alwaysOk f s →
     let e := envOf Forms.qstF f s
     let u := s.entered Forms.qstF f
     let n := 2 ^ f.aux.toNat
     let c := (s.opened.withLease (leaseOver s s.holder (span e.ea n))).withWrites (u.phased s.holder)
       (span e.ea n) (locs.zip ((List.range n).map fun i => BitVec.ofNat 8 (x.toNat / 256 ^ i)))
     e.ea.toNat % (if n = 32 then 4 else n) = 0 → (∀ h, aheadOf (s.ctx s.holder) true = some h → h.fault = none) → e.r.stq = x :: q →
     reachAll u s.holder 0 1 true (span e.ea n) = .ok locs →
     Completes (.qst f) s (OwnStep Forms.qstF f s (s.useOnce s.holder 0)
       (({ c with ahead := if (aheadOf (s.ctx s.holder) true).isSome then c.ahead.drop 1 else c.ahead } : Ctx).withRegs { e.r with stq := q })
       (s.after Forms.qstF f) false))

/-- R88, R89: start of a code address takes the lowest helper that is free, or that the starter's own chunk has joined, reserved until the
start commits, and answers its number, or 0 where there is none. R124: park stops its context, whose earlier effects have committed; its end is due, and the pipe goes on. -/
def Obligations.StartReservesAndParkEnds : Prop :=
  (∀ (f : Fields) (s : State), Issues Forms.startF alwaysOk f s →
     let e := envOf Forms.startF f s
     let isFree (h : Nat) : Prop := (s.ctx ⟨s.holder.core, h⟩).status = .free ∨
       (s.ctx ⟨s.holder.core, h⟩).status = .ended ∧ s.opened.chunk.hasJoined h = true
     e.srcS.toNat % 2 = 0 →
     (∀ h, 1 ≤ h → h ≤ 10 → isFree h → (∀ k, 1 ≤ k → k < h → ¬isFree k) →
       Completes (.start f) s (OwnStep Forms.startF f s (s.modCtx ⟨s.holder.core, h⟩ fun c => { c with status := .reserved })
         ((s.opened.withRegs (e.putS e.r (BitVec.ofNat 64 h))).withEffects [.start h (e.srcS.setWidth 56) e.tsrcS])
         (s.after Forms.startF f) Forms.startF.ends.isHolding)) ∧
     ((∀ k, 1 ≤ k → k ≤ 10 → ¬isFree k) →
       Completes (.start f) s (OwnStep Forms.startF f s s (s.opened.withRegs (e.putS e.r 0))
         (s.after Forms.startF f) Forms.startF.ends.isHolding))) ∧
  (∀ (f : Fields) (s : State), Issues Forms.parkF alwaysOk f s →
     Completes (.park f) s (Yields s s { s.ctx s.holder with status := .parking, chunk := Chunk.empty }
       [.contextEnd s.holder.core s.holder.ctx]))

/-- R233: tlbinv of a firmware core sends its shoot-down to every core it names and waits for them; it completes once every one has answered,
or at once where none is named. -/
def Obligations.TlbinvShootsDownAndCompletes : Prop :=
  ∀ (f : Fields) (s : State), Issues Forms.tlbinvF alwaysOk f s →
    let e := envOf Forms.tlbinvF f s
    let u := s.entered Forms.tlbinvF f
    let a := e.srcS
    let b := e.tsrcS
    let ts := (u.cores.map fun x => coreOfKey x.1).filter fun c => shootTarget s.holder.core (b.toNat % 16) c && !(u.core c).gated
    isPriv s.holder.core.kind = true → a.toNat % 4096 = 0 → a.toNat < 2 ^ 56 → bits b.toNat 8 40 = 0 → bits b.toNat 6 2 ≠ 3 →
    ((s.ctx s.holder).shot = true ∨ ts = [] →
      Completes (.tlbinv f) s (OwnStep Forms.tlbinvF f s s { s.opened with shot := false } (s.after Forms.tlbinvF f)
        Forms.tlbinvF.ends.isHolding)) ∧
    ((s.ctx s.holder).shot = false → ts ≠ [] → ts.Nodup → Completes (.tlbinv f) s fun t =>
      t.ctx s.holder = { s.opened with shot := true, status := .waiting .shootdown } ∧ t.mem = s.mem ∧
      t.agenda = s.agenda ++ ts.map .shootdownMessage ∧
      ∀ c ∈ ts, (t.core c).shoot = (s.core c).shoot ++ [(s.holder, a, b, false)])

/-- R92: an instruction of a fused gang issues in every member, each on its own registers, and every member stands after it; no other context
and no byte of memory changes. R93: split in a fused gang clears FUSED, and every member continues at the next instruction, the chunks that hold it
marked (they commit or are squashed together: log 68); elsewhere it has no effect. R93: fuse has no effect but to end the chunk before it in
a context of no gang, in a gang of one and in a fused gang; in a split gang it waits for the other members. -/
def Obligations.FusedGangsIssueSplitAndFuse : Prop :=
  (∀ (i : Instr) (x : RegRow) (s : State) (g : Nat) (ms : List CtxId), integerRow i = some x → GangReady s g ms →
     (∀ m ∈ ms, Unheld x.fm x.ok x.f s m ∧ (x.fm.guard = .scalar → guardBit m.core.kind x.f (s.ctx m).r = true)) →
     Completes i s fun t => t.mem = s.mem ∧ (∀ m, m ∉ ms → t.ctx m = s.ctx m) ∧
       ∀ m ∈ ms, ∃ n, t.ctx m = ({ (s.ctx m).beginChunk with
         r := leftRegs x.fm x.f (x.regs (envOfMember x.fm x.f s ms m n)) (s.after x.fm x.f), status := .live }).countOne false) ∧
  ((∀ (f : Fields) (s : State), Issues Forms.splitF alwaysOk f s →
     Completes (.split f) s (OwnStep Forms.splitF f s s s.opened (s.after Forms.splitF f) false)) ∧
   ∀ (f : Fields) (s : State) (g : Nat) (ms : List CtxId), GangReady s g ms → (∀ m ∈ ms, Unheld Forms.splitF alwaysOk f s m) →
     Completes (.split f) s fun t => t.mem = s.mem ∧ t.gangs = SMap.put s.gangs g { s.gangOf g with fused := false } ∧
       (∀ m, m ∉ ms → t.ctx m = s.ctx m) ∧
       ∀ m ∈ ms, t.ctx m = ({ (s.ctx m).beginChunk with
         r := leftRegs Forms.splitF f (s.ctx m).r (s.after Forms.splitF f), status := .live
         chunk := { (s.ctx m).beginChunk.chunk with split := true } }).countOne false) ∧
  ((∀ (f : Fields) (s : State), Issues Forms.fuseF alwaysOk f s →
     (¬∃ g, (s.ctx s.holder).gang = some g ∧ s.holder.ctx = 0 ∧ (s.gangOf g).fused = false ∧ 1 < (s.gangOf g).members.length) →
     Completes (.fuse f) s (OwnStep Forms.fuseF f s s s.opened (s.after Forms.fuseF f) false)) ∧
   (∀ (f : Fields) (s : State) (g : Nat), Issues Forms.fuseF alwaysOk f s → (s.ctx s.holder).gang = some g → s.holder.ctx = 0 →
     (s.gangOf g).fused = false → 1 < (s.gangOf g).members.length →
     Completes (.fuse f) s (Yields s s { s.opened with status := .waiting .fuse } [])) ∧
   ∀ (f : Fields) (s : State) (g : Nat) (ms : List CtxId), GangReady s g ms → (∀ m ∈ ms, Unheld Forms.fuseF alwaysOk f s m) →
     Completes (.fuse f) s fun t => t.mem = s.mem ∧ t.gangs = s.gangs ∧
       ∀ m ∈ ms, t.ctx m = ({ (s.ctx m).beginChunk with
         r := leftRegs Forms.fuseF f (s.ctx m).r (s.after Forms.fuseF f), status := .live }).countOne false)

/-- R259, R262 (a context of no card meets itself alone: log entry 2): bar only advances, and a vote gives its own value. R258, R259, R262: a
participant of a domain offers its form and its value and waits; the last one to arrive makes the domain's barrier or vote due. -/
def Obligations.BarriersAndVotesArriveAndWait : Prop :=
  (∀ (i : Instr) (x : StagedRow) (s : State), voteRow i = some x → Issues x.fm alwaysOk x.f s →
     (s.ctx s.holder).dom = 0 → (s.holder.core.kind = .l0 → s.holder.ctx = 0) →
     Completes i s (OwnStep x.fm x.f s s (s.opened.withRegs (x.regs (envOf x.fm x.f s) (s.entered x.fm x.f))) (s.after x.fm x.f)
       x.fm.ends.isHolding)) ∧
  (∀ (i : Instr) (fm : Form) (f : Fields) (form : Nat) (value : Env → Dword) (s : State), arrivalRow i = some (fm, f, form, value) →
     Issues fm alwaysOk f s → (s.ctx s.holder).dom ≠ 0 → (s.holder.core.kind = .l0 → s.holder.ctx = 0) →
     let e := envOf fm f s
     let x : Arrival := ⟨form, f.dstN, e.dstQ, fm.ldqNeed f, value e, s.after fm f⟩
     let v := (s.entered fm f).modCtx s.holder fun c => { c with arrival := some x }
     Completes i s (Yields s s { s.opened with arrival := some x, status := .waiting .rendezvous } (dueAt v (s.ctx s.holder).dom)))

/-- R243, R245, R246, R254: a link form whose checks pass offers its block to the layer above or to the children it names and waits; the
rendezvous of the parent is due; a prolg.put whose offer was withdrawn is made again for the children it has not served. In a redundant pair the offer waits for its partner's (R321), so the context here has no partner. R249: a fold
restriction reads the fine block, writes the coarse one and raises LEVEL.CUR; a fold prolongation reads both, writes the fine one and
lowers it. Both are within the core's TCM, and nothing else changes. -/
def Obligations.LinkFormsOfferAndFoldsWork : Prop :=
  (∀ (i : Instr) (x : LinkRow) (s : State), linkRow i = some x → Issues x.fm alwaysOk x.f s → (s.ctx s.holder).mate = none →
     let e := envOf x.fm x.f s
     let u := s.entered x.fm x.f
     x.fits e u →
     Completes i s (Yields s { s with merge := s.merge.filter fun y => !(y.who == s.holder && y.chan == 200) }
       { s.opened with link := some (x.offer e u), status := .waiting .link } (if x.kind = 0 ∨ x.kind = 2 then ((parentOf s.holder.core).map .linkRendezvous).toList else [.linkRendezvous s.holder.core]))) ∧
  ((∀ (f : Fields) (s : State) (l1 l2 : List Nat), Issues Forms.restrfF alwaysOk f s →
     let e := envOf Forms.restrfF f s
     let u := s.entered Forms.restrfF f
     let b := e.tsrcS.toNat
     let v := u.afterRead s.holder l1
     let x := u.see s.holder l1
     let w := restrictSet v s.holder.core (bits e.r.wsel.toNat 2 2)
     let outs := (List.range (8 * b / e.stride)).map fun k =>
       restrictOut w (fun j => some (bits x (32 * j) 32)) b e.stride e.linkOp e.mode f.sat k
     let bytes := outs.zipIdx.flatMap fun (c : Coded × Nat) => bytesAt (e.oldS + BitVec.ofNat 64 (4 * c.2)) 4 c.1.code
     foldCheck e e.srcS e.oldS (e.r.level != 15) = none → reachAll u s.holder 0 0 true (span e.srcS (32 * b)) = .ok l1 →
     u.poisonAt s.holder (l1.zip (span e.srcS (32 * b))) = none → reachAll v s.holder 0 1 true (bytes.map (·.1)) = .ok l2 →
     Completes (.restrf f) s (OwnStep Forms.restrfF f s ((s.useOnce s.holder 0).useOnce s.holder 0)
       (((s.opened.withReads l1).withWrites (u.phased s.holder) (bytes.map (·.1)) (l2.zip (bytes.map (·.2)))).withRegs
         ({ e.r with level := e.r.level + 1 }.raise (orFlags outs))) (s.after Forms.restrfF f) Forms.restrfF.ends.isHolding)) ∧
   ∀ (f : Fields) (s : State) (l1 l2 l3 : List Nat), Issues Forms.prolgfF alwaysOk f s →
     let e := envOf Forms.prolgfF f s
     let u := s.entered Forms.prolgfF f
     let b := e.tsrcS.toNat
     let p := 8 * b / e.stride
     let v := u.afterRead s.holder l1
     let v2 := v.afterRead s.holder l2
     let x := u.see s.holder l1
     let z := v.see s.holder l2
     let y : List W32 := (List.range p).map fun i => BitVec.ofNat 32 (bits x (32 * i) 32)
     let w := prolongSet v2 s.holder.core (bits e.r.wsel.toNat 0 2)
     let outs : List (Nat × Coded) := (List.range (8 * b)).filterMap fun j =>
       (prolongOut w y p e.stride j (bits z (32 * j) 32) e.mode f.sat).map fun r => (j, r)
     let bytes := outs.flatMap fun (c : Nat × Coded) => bytesAt (e.oldS + BitVec.ofNat 64 (4 * c.1)) 4 c.2.code
     foldCheck e e.oldS e.srcS (e.r.level != 0) = none →
     reachAll u s.holder 0 0 true (span e.srcS (4 * p)) = .ok l1 → u.poisonAt s.holder (l1.zip (span e.srcS (4 * p))) = none →
     reachAll v s.holder 0 0 true (span e.oldS (32 * b)) = .ok l2 → v.poisonAt s.holder (l2.zip (span e.oldS (32 * b))) = none →
     reachAll v2 s.holder 0 1 true (bytes.map (·.1)) = .ok l3 →
     Completes (.prolgf f) s (OwnStep Forms.prolgfF f s (((s.useOnce s.holder 0).useOnce s.holder 0).useOnce s.holder 0)
       ((((s.opened.withReads l1).withReads l2).withWrites (u.phased s.holder) (bytes.map (·.1)) (l3.zip (bytes.map (·.2)))).withRegs
         ({ e.r with level := e.r.level - 1 }.raise (orFlags (outs.map Prod.snd)))) (s.after Forms.prolgfF f)
       Forms.prolgfF.ends.isHolding))

/-- R266: ttld of an image whose entries pass every check, into a slot that is not running, stages the slot's new contents. -/
def Obligations.TimetableLoadStagesACheckedImage : Prop :=
  ∀ (f : Fields) (s : State) (l1 l2 : List Nat) (ws : List (Dword × Dword)), Issues Forms.ttldF alwaysOk f s →
    let e := envOf Forms.ttldF f s
    let u := s.entered Forms.ttldF f
    let v := u.noteRead s.holder l1
    let h := u.see s.holder l1
    let x := v.see s.holder l2
    e.srcS.toNat % 16 = 0 → (s.core s.holder.core).tt.running ≠ some f.aux.toNat →
    reachEach u s.holder 0 0 false (span e.srcS 16) = .ok l1 → u.poisonAt s.holder (l1.zip (span e.srcS 16)) = none →
    1 ≤ h → h ≤ 255 → reachEach v s.holder 0 0 false (span (e.srcS + 16) (16 * h)) = .ok l2 →
    v.poisonAt s.holder (l2.zip (span (e.srcS + 16) (16 * h))) = none →
    ws = (List.range h).map (fun i => (BitVec.ofNat 64 (x / 2 ^ (128 * i)), BitVec.ofNat 64 (x / 2 ^ (128 * i + 64)))) →
    ttChecks s.holder.core 0 [] ws = none →
    Completes (.ttld f) s (OwnStep Forms.ttldF f s (s.useOnce s.holder 0)
      (((s.opened.withReads l1).withReads l2).withEffects [.ttld f.aux.toNat ws]) (s.after Forms.ttldF f) Forms.ttldF.ends.isHolding)

/-- R303: cut copies the frames above its delimiter, with the registers, into a slice at its handle, moves s30 to the delimiter and goes on at
the delimiter's resume address; where the slice would not fit it answers 0 and only advances. R309: slinfo of a tag answers the bytes that
cut would need, or 0 where no record of the stack is a delimiter with that tag. -/
def Obligations.CutWritesASliceAndResumesAtTheDelimiter : Prop :=
  (∀ (f : Fields) (s : State) (ot resume : Nat) (below : List (Nat × Nat)) (maps : List Nat) (us : List Unit) (fr : List Nat × Nat)
    (locs : List Nat), Issues Forms.cutF (fun _ f => cutOk f) f s →
    let e := envOf Forms.cutF f s
    let u := s.entered Forms.cutF f
    let a := s.holder
    let p := (e.r.rdS 30).toNat
    let fb := ot - p
    let tag := e.srcS.toNat % 2 ^ 16
    let rmap := e.srcS.toNat / 2 ^ 16 % 2 ^ 32 &&& 0xBFFFFFFE
    let scope := if f.scope = 0 then 1 else f.scope
    let read := maps ++ tcmBytes a p (fb + 16)
    let bare := sliceImage e scope tag rmap fb p (s.ctx a).asid ++ leBytes fb fr.2
    findDelimiter u a (e.r.rdS 30) tag = .ok (some (ot, below)) →
    eachFrame u a (peekStack u a) (cutSlot p ot (stackFloor u a) (stackTopOf u a)) below.reverse = .ok (maps, us) →
    (∀ j, j < 32 → bitOf rmap j = true → e.r.rdS j ≠ 0 → p ≤ (e.r.rdS j).toNat ∧ (e.r.rdS j).toNat ≤ ot) →
    e.oldS.toNat % 64 = 0 → placeOk scope e.oldS = true →
    (e.tsrcS.toNat < 512 + fb →
      Completes (.cut f) s (OwnStep Forms.cutF f s s ((s.opened.withReads read).withRegs (e.putS e.r 0)) (s.after Forms.cutF f)
        Forms.cutF.ends.isHolding)) ∧
    (512 + fb ≤ e.tsrcS.toNat → reachAll u a 0 1 true (span e.oldS (512 + fb)) = .ok locs → locs.any isHost = false →
      peek u a 0 (span (e.r.rdS 30) fb) = .ok fr → peekStack u a ot = .ok resume →
      Completes (.cut f) s (OwnStep Forms.cutF f s (s.useOnce a 0)
        (((s.opened.withReads read).withStores (locs.zip (bare.take 48 ++ leBytes 8 (sliceCheck bare) ++ bare.drop 56))).withRegs
          ((e.putS e.r e.oldS).wrS 30 (BitVec.ofNat 64 ot))) (BitVec.ofNat 56 resume) Forms.cutF.ends.isHolding))) ∧
  ∀ (f : Fields) (s : State) (x : Option (Nat × List (Nat × Nat))), Issues Forms.slinfoF alwaysOk f s → f.aux.toNat = 1 →
    let e := envOf Forms.slinfoF f s
    let u := s.entered Forms.slinfoF f
    let p := (e.r.rdS 30).toNat
    findDelimiter u s.holder (e.r.rdS 30) (e.srcS.toNat % 2 ^ 16) = .ok x →
    Completes (.slinfo f) s (OwnStep Forms.slinfoF f s s
      ((s.opened.withReads (tcmBytes s.holder p (match x with | some y => y.1 + 16 - p | none => stackTopOf u s.holder - p))).withRegs
        (e.putS e.r (match x with | some y => BitVec.ofNat 64 (512 + (y.1 - p)) | none => 0))) (s.after Forms.slinfoF f) false)

/-- R308: slfree of a well-formed slice that the core may free sets its state to freed, and nothing else. R305, R306: graft of a well-formed,
permitted, intact slice lays its frames, remapped, below a new delimiter on the stack, restores its registers, counts the graft in its
state word, and goes on at its resume address. -/
def Obligations.SlicesAreFreedAndGrafted : Prop :=
  (∀ (f : Fields) (s : State) (hd : List Nat × Nat) (wl : List Nat), Issues Forms.slfreeF alwaysOk f s →
     let e := envOf Forms.slfreeF f s
     let u := s.entered Forms.slfreeF f
     let x := spread slfreeBytes hd.2
     e.srcS.toNat % 64 = 0 → peek u s.holder 0 (slfreeBytes.map fun o => e.srcS + BitVec.ofNat 64 o) = .ok hd → sliceBad x = false →
     slicePermits e (s.ctx s.holder).asid x e.srcS hd.1 = true → reachAll u s.holder 0 3 true (span (e.srcS + 8) 8) = .ok wl →
     Completes (.slfree f) s (OwnStep Forms.slfreeF f s (s.useOnce s.holder 0)
       ((s.opened.withReads hd.1).withStores [(wl.headD 0, 3)]) (s.after Forms.slfreeF f) false)) ∧
  (∀ (f : Fields) (s : State) (hd fr : List Nat × Nat) (rs : List (Nat × Nat)) (maps : List Nat)
     (new : List (Nat × Nat)) (wl : List Nat), Issues Forms.graftF alwaysOk f s →
     let e := envOf Forms.graftF f s
     let u := s.entered Forms.graftF f
     let a := s.holder
     let h := e.srcS
     let g := (e.r.rdS 30).toNat
     let x := hd.2
     let fb := hdr x 16 4
     let ob := hdr x 32 8
     let n : Int := g - 16 - fb
     let d : Int := n - ob
     let word := u.see a wl
     let frames := new.foldl (fun (b : List Byte) y => b.take y.1 ++ leBytes 8 y.2 ++ b.drop (y.1 + 8)) (leBytes fb fr.2)
     let linked := match rs.getLast? with
       | some y => if y.2 / 2 ^ 53 = 0 then frames else frames.take y.1 ++ leBytes 8 (ruleNext e).toNat ++ frames.drop (y.1 + 8)
       | none => frames
     h.toNat % 64 = 0 → g % 16 = 0 → g ≤ stackTopOf u a → peek u a 0 (span h 512) = .ok hd →
     peek u a 0 (span (h + 512) fb) = .ok fr → sliceBad x = false → sliceCheck (leBytes 512 x ++ leBytes fb fr.2) = hdr x 48 8 →
     slicePermits e (s.ctx a).asid x h (hd.1 ++ fr.1) = true → hdr x 8 1 = 1 → remapBad e.tsrcS.toNat = false →
     (stackFloor u a : Int) ≤ n → recordsIn fr.2 fb (h.toNat + 512) (fb / 16 + 1) 0 = .ok rs →
     eachFrame u a (fun o => .ok (dwAt fr.2 o)) (graftSlot a e.tsrcS.toNat (hdr x 20 4) ob (ob + fb) (h.toNat + 512) d) rs = .ok (maps, new) →
     (∀ j, j < 32 → rmapHas (hdr x 28 4) j = true → sliceReg x j ≠ 0 → ob ≤ sliceReg x j ∧ sliceReg x j ≤ ob + fb) →
     reachAll u a 0 3 true (span (h + 8) 8) = .ok wl →
     Completes (.graft f) s (OwnStep Forms.graftF f s (s.useOnce a 0)
       ((((((s.opened.withReads (hd.1 ++ fr.1 ++ maps)).withStores
         (wl.zip (leBytes 8 ((if bitOf (hdr x 6 1) 0 then 1 else 2) + word / 256 % 2 ^ 24 * 256 + min (word / 2 ^ 32 + 1) 0xFFFFFFFF * 2 ^ 32)))).withStores
         ((tcmBytes a n.toNat (fb + 16)).zip (linked ++ leBytes 8 (ruleNext e).toNat ++ leBytes 8 (2 ^ 16 + hdr x 4 2)))).withRegs
         ((graftRegs e x d).wrS 30 (BitVec.ofInt 64 n)))).withEffects [.grafted ((hd.1 ++ fr.1).map (· / 64)).dedup])
       (BitVec.ofNat 56 (hdr x 40 8)) Forms.graftF.ends.isHolding))

/-- R177, R179, R180, R187, R188, R271, R272: one step of an engine whose accesses all succeed writes the bytes of its row, block or run and
moves its command on; at the command's end its completion is due. A fused gather gathers its chunks one by one, each then the matrix
unit's, and writes C once. R207: where a home of the bytes is reserved for a running chunk, nothing is written and the engine waits. That
a gather's rows go in ascending order, one run a step, is log 8, and that a fused gather takes the codebook as it stood at its push is log 9
(the model's choices: R187 and R188 state neither). -/
def Obligations.EngineStepsWriteTheirUnit : Prop :=
  ∀ (i : Instr) (x : EngineRow) (s : State) (h : Command) (il : List Nat) (ls : List (List Nat)), engineRow i = some x →
    headOf s x.a x.port = some h → x.ready h → (s.ctx x.a).mate = none → Memory.wf s.mem →
    let w := x.work s h il ls
    reachEach s x.a 2 0 false (x.index h) = .ok il → reachRuns s x.a (portUnit x.port) (x.runs s h il) = .ok ls →
    poisonIn s (readBytes (x.runs s h il) ls) = [] → unitFits s x.a (w.1.map (·.1)) = true →
    (s.reserved (w.1.map (·.1)) = false → Completes i s (UnitStep s x.a x.port w.2 w.1)) ∧
    (s.reserved (w.1.map (·.1)) = true → Completes i s fun t => .engine x.a.core x.a.ctx x.port ∈ t.held ∧
      HeadStep { s with held := t.held } x.a x.port { h with begun := true } [] t)

/-- R170, R177, R179, R186, R191: a command with nothing left to do ends; one whose access is refused ends with STATUS 2 and the address, or
with the STATUS 0x05 of an error it has consumed; one whose access misses waits, its miss message due; a codebook item at the head replaces
MX.CB. R188: once the matrix unit has computed a gathered chunk, the gather engine goes on. No byte of memory and nothing of another
context changes. R183: a rotation of the matrix unit's slots begins, at this tick, with the values that slotld staged. -/
def Obligations.EngineCommandsEndWaitAndLoad : Prop :=
  ((∀ (i : Instr) (a : CtxId) (p : Nat) (ok : Command → Prop) (s : State) (h : Command), emptyRow i = some (a, p, ok) →
     headOf s a p = some h → ok h →
     Completes i s (HeadStep s a p { h with begun := true, outcome := some (h.err, h.errVa) } [.completion a.core a.ctx p])) ∧
   (∀ (i : Instr) (x : EngineRow) (s : State) (h : Command) (il : List Nat), engineRow i = some x → headOf s x.a x.port = some h →
     x.ready h → reachEach s x.a 2 0 false (x.index h) = .ok il →
     (∀ st va, reachRuns s x.a (portUnit x.port) (x.runs s h il) = .error (.status st va) →
       Completes i s (HeadStep s x.a x.port { h with begun := true, outcome := some (if h.err = 5 then (5, h.errVa) else (st, va)) }
         [.completion x.a.core x.a.ctx x.port])) ∧
     (∀ va acc, reachRuns s x.a (portUnit x.port) (x.runs s h il) = .error (.miss va acc) →
       Completes i s fun t => HeadStep (s.countMiss x.a (portUnit x.port)) x.a x.port { h with begun := true }
         [.missMessage x.a.core x.a.ctx (portUnit x.port)] t ∧
         ⟨portUnit x.port, s.nextMiss x.a (portUnit x.port), va, acc, false, none⟩ ∈ (t.ctx x.a).misses)) ∧
   (∀ (core : CoreId) (ctx : Nat) (s : State) (h : Command), headOf s ⟨core, ctx⟩ 1 = some h → cmdOp h.dw = 1 → h.slot = true →
     Completes (.gmul core ctx) s (HeadStep s ⟨core, ctx⟩ 1 { h with slot := false, prog := h.prog + 1, done := h.done + 1 }
       [.engine core ctx 1, .engine core ctx 0])) ∧
   ∀ (core : CoreId) (ctx : Nat) (s : State) (h : Command), headOf s ⟨core, ctx⟩ 0 = some h → h.isCodebook = true →
     let rest := ((s.ctx ⟨core, ctx⟩).port 0).input.drop 1
     Completes (.codebookItem core ctx) s fun t => OnlyContext s t ⟨core, ctx⟩ ∧
       t.ctx ⟨core, ctx⟩ = { s.ctx ⟨core, ctx⟩ with
         r := { (s.ctx ⟨core, ctx⟩).r with mxCb := h.codebook }
         ports := SMap.put (s.ctx ⟨core, ctx⟩).ports 0 { (s.ctx ⟨core, ctx⟩).port 0 with input := rest } } ∧
       t.agenda = s.agenda ++ if rest = [] then [] else [.engine core ctx 0]) ∧
  (∀ (core : CoreId) (s : State), Completes (.rotationBegin core) s (OnlyCore s core (match (s.core core).mxStaged with
     | some x => { s.core core with mxSlots := x.1, mxSlotLen := x.2, mxStaged := none, mxStart := s.ticks }
     | none => { s.core core with mxStart := s.ticks }) []))

/-- R212, R216: a channel's step copies or fills at most 64 bytes of a row, byte by byte and at each byte destination by destination, once
the whole row's pages can be reached; at the operation's end its completion is due. R207: where a home of the bytes is reserved for a running
chunk, nothing is written and the channel waits. -/
def Obligations.ChannelStepsCopyAPiece : Prop :=
  ∀ (i : Instr) (cl ch op : Nat) (s : State) (o : ChanOp) (row ls : List (List Nat)), channelRow i = some (cl, ch, op) →
    (s.chan cl ch).active = some o → cmdOp o.cmd.dw = op → o.cmd.outcome = none →
    (∀ m ∈ (s.ctx o.owner).misses, m.unit ≠ 3 + 16 * ch) → unitHeld s o.owner.core (3 + 16 * ch) = false →
    let h := o.cmd
    let d := h.dw
    let rowb := cmdField d 4 32 32
    let total := cmdValid d * rowb
    let n := min 64 (rowb - h.prog % rowb)
    let w := ((copyData s d (h.prog % rowb) n (ls.headD [])).zipIdx.take n).flatMap fun v =>
      (ls.drop 1).filterMap fun x => x[v.2]?.map fun l => (l, v.1)
    let h' : Command := { h with
      begun := true, prog := h.prog + n, done := (h.prog + n) / rowb
      outcome := if total ≤ h.prog + n then some (h.err, h.errVa) else none }
    (total ≤ h.prog → Completes i s fun t => t.mem = s.mem ∧
      (t.chan cl ch).active = some { o with cmd := { h with begun := true, outcome := some (h.err, h.errVa) } } ∧
      t.agenda = s.agenda ++ [.completion o.owner.core o.owner.ctx o.port]) ∧
    (h.prog < total → (s.ctx o.owner).mate = none → Memory.wf s.mem →
      (h.prog % rowb = 0 → reachRuns s o.owner (3 + 16 * ch) (copyRuns d (h.prog / rowb) 0 rowb) = .ok row) →
      (h.prog % rowb ≠ 0 → row = []) → (s.phased o.owner = true → ∀ x ∈ row.drop 1, x.any isHost = false) →
      reachRuns s o.owner (3 + 16 * ch) (copyRuns d (h.prog / rowb) (h.prog % rowb) n) = .ok ls →
      poisonIn s ((ls.headD []).zip (span (off (copySrc d (h.prog / rowb)) (h.prog % rowb)) n)) = [] →
      unitFits s o.owner (w.map (·.1)) = true →
      (s.reserved (w.map (·.1)) = false → Completes i s (CopyStep s cl ch { o with cmd := h' } w)) ∧
      (s.reserved (w.map (·.1)) = true → Completes i s fun t => t.mem = s.mem ∧ t.agenda = s.agenda ∧ t.cores = s.cores ∧
        t.chan cl ch = { s.chan cl ch with active := some { o with cmd := { h with begun := true } } } ∧
        ∀ k, clusterOf o.owner.core = some k → .channel k ch ∈ t.held))

/-- R170, R172, R183, R189, R210, R212: a finished command with room for its element delivers it where RET is set, LASTERR and ERRADDR where its STATUS is
not 0, and one arrival at its counter where it names one, in its own core and, for a copy, in each core of its cluster that its mask names
and that holds the card; then it leaves its queue, and the next one is due. One whose element a full output FIFO holds changes nothing, and
the engine goes on with the next context whose turn it is. -/
def Obligations.CompletionsDeliverElementAndArrival : Prop :=
  ∀ (core : CoreId) (ctx port : Nat) (s : State) (h : Command) (st : Byte) (va : Dword),
    let a : CtxId := ⟨core, ctx⟩
    let q := (s.ctx a).port port
    let ret := cmdField h.dw 0 39 1 = 1
    let n := cmdField h.dw 0 34 4
    let left (input : List Command) : Port := { q with
      input := input, output := if ret then q.output ++ [elementOf h st] else q.output
      lastErr := if st = 0 then q.lastErr else st, errAddr := if st = 0 then q.errAddr else va }
    let counted (k : Counter) : Counter := ⟨k.err || st != 0, if k.count = 0x7FFFFFFF#31 then k.count else k.count + 1⟩
    let counts (c : CoreId) (t : State) : Prop :=
      t.counter c n = if cmdField h.dw 0 38 1 = 1 then counted (s.counter c n) else s.counter c n
    let same (t : State) : Prop := t.mem = s.mem ∧ ∀ b, (t.ctx b).r = (s.ctx b).r ∧ (t.ctx b).status = (s.ctx b).status ∧
      ∀ p, (b, p) ≠ (a, port) → (t.ctx b).port p = (s.ctx b).port p
    let ended := if (s.ctx a).status = .parking then [Due.contextEnd core ctx] else []
    h.outcome = some (st, va) → (port < 8 → unitHeld s core (portUnit port) = false) →
    (ret → 16 ≤ q.output.length → ∀ rest, port < 8 → q.input = h :: rest → Completes (.engineCompletion core ctx port) s fun t =>
      t = { s with agenda := s.agenda ++ (engineTurn s core port).toList.map fun k => .engine core k port }) ∧
    ((ret → q.output.length < 16) → (∀ rest, port < 8 → q.input = h :: rest →
      Completes (.engineCompletion core ctx port) s fun t => (t.ctx a).port port = left rest ∧ counts core t ∧ same t ∧
        let turn := (engineTurn t core port).toList.map fun k => Due.engine core k port
        t.agenda = s.agenda ++ match rest with
          | [] => turn ++ ended
          | n :: _ => if n.outcome.isSome then [.completion core ctx port] else turn) ∧
    ∀ cl ch o, 8 ≤ port → q.input = [] → finishedOp s a port = some (cl, ch, o) → o.cmd = h →
      Completes (.engineCompletion core ctx port) s fun t => (t.ctx a).port port = left [] ∧ counts core t ∧ same t ∧
        (∀ i, i < 16 → (⟨.l0, cl * 16 + i⟩ : CoreId) ≠ core →
          if bitOf (cmdField h.dw 6 0 16) i = true ∧ holdsCard s ⟨.l0, cl * 16 + i⟩ (s.ctx a).card = true then counts ⟨.l0, cl * 16 + i⟩ t
          else t.counter ⟨.l0, cl * 16 + i⟩ n = s.counter ⟨.l0, cl * 16 + i⟩ n) ∧
        (t.chan cl ch).active = (s.chan cl ch).shadow ∧ (t.chan cl ch).shadow = (s.chan cl ch).waiting.head? ∧
        (t.chan cl ch).waiting = (s.chan cl ch).waiting.drop 1 ∧
        (∀ x, (s.chan cl ch).shadow = some x → x.cmd.outcome = none →
          (t.chan cl ch).tag = BitVec.ofNat 16 (cmdTag x.cmd.dw) ∧ (t.chan cl ch).done = 0) ∧
        t.agenda = s.agenda ++ (match (s.chan cl ch).shadow with
          | some x => [if x.cmd.outcome.isSome then .completion x.owner.core x.owner.ctx x.port else .channel cl ch]
          | none => []) ++ ended)

/-- R93, R95, R129: a context whose condition holds is ready, and takes the pipe where it idles; the fuses of a gang whose members all
stand at one address complete together, at the next instruction, and the gang is fused. R127, R128, R224: the access half issues the queue
instruction it finds ahead, a load with the bytes of its locations as the context sees them; a miss is sent, and a fault is held with its
instruction; a load's data enters ldq where it has room. R207: an execution after 16 squashes records the lines that it reads ahead. Nothing
else changes. -/
def Obligations.ReadyContextsGoOnAndAccessRunsAhead : Prop :=
  ((∀ (core : CoreId) (ctx : Nat) (s : State) (w : Wait), (s.ctx ⟨core, ctx⟩).status = .waiting w → waitReady s ⟨core, ctx⟩ w = true →
     (w ≠ .fuse ∨ (s.ctx ⟨core, ctx⟩).gang = none) →
     Completes (.contextReady core ctx) s (Woken s ⟨core, ctx⟩ (s.ctx ⟨core, ctx⟩))) ∧
   (∀ (core : CoreId) (ctx : Nat) (s : State), (s.ctx ⟨core, ctx⟩).status = .waiting .spalloc → (s.ctx ⟨core, ctx⟩).spreqs = [] →
     Completes (.spallocResRead core ctx) s (Woken s ⟨core, ctx⟩ (s.ctx ⟨core, ctx⟩))) ∧
   ∀ (core : CoreId) (ctx g : Nat) (s : State) (ms : List CtxId) (pc : VAddr), (s.ctx ⟨core, ctx⟩).gang = some g →
     (s.gangOf g).members = ms → ⟨core, ctx⟩ ∈ ms → ms.Nodup → (∀ m ∈ ms, (s.ctx m).status = .waiting .fuse ∧ (s.ctx m).r.pc = pc) →
     Completes (.contextReady core ctx) s fun t => t.mem = s.mem ∧ t.gangs = SMap.put s.gangs g { s.gangOf g with fused := true } ∧
       (∀ m, m ∉ ms → t.ctx m = s.ctx m) ∧
       ∀ m ∈ ms, let r := { (s.ctx m).r with pc := pc + 4 }
         t.ctx m = { s.ctx m with r := r, status := .live, chunk := { Chunk.empty with
           count := 1, base := 1, ckpt := r, against := if (s.ctx m).ahead = [] then [] else (s.ctx m).chunk.against } }) ∧
  (∀ (core : CoreId) (ctx : Nat) (s : State),
     let a : CtxId := ⟨core, ctx⟩
     let c := s.ctx a
     let holds (c : Ctx) (h : Ahead) (base t : State) : Prop :=
       OnlyContext base t a ∧ t.agenda = s.agenda ∧ t.ctx a = { c with ahead := c.ahead ++ [h] }
     (∀ x, core.kind = .l0 → accessOpen s a = true → scanFrom s a = some x → Completes (.accessHalfIssue core ctx) s fun t =>
       match x with
       | .load pc l => holds (if c.chunk.squashes < 16 then c else c.withReads l) ⟨pc, false, l, BitVec.ofNat 256 (s.see a l), none⟩ (s.useOnce a 0) t
       | .drain pc => holds c ⟨pc, true, [], 0, none⟩ s t
       | .miss pc store acc va => OnlyContext (s.countMiss a 0) t a ∧ t.agenda = s.agenda ++ [.missMessage core ctx 0] ∧
           (t.ctx a).misses = c.misses ++ [⟨0, s.nextMiss a 0, va, acc, false, some (pc, store)⟩] ∧
           t.ctx a = { c with misses := (t.ctx a).misses }
       | .fault pc store code i va => holds c ⟨pc, store, [], 0, some (code, i, va)⟩ s t) ∧
     (∀ v rest, c.r.ldqDue = v :: rest → c.r.ldq.length < 8 → Completes (.ldqEntryArrival core ctx) s fun t =>
       OnlyContext s t a ∧ t.agenda = s.agenda ∧ t.ctx a = { c with r := { c.r with ldq := c.r.ldq ++ [v], ldqDue := rest } }) ∧
     (8 ≤ c.r.ldq.length → Completes (.ldqEntryArrival core ctx) s fun t => OnlyContext s t a ∧ t.agenda = s.agenda ∧ t.ctx a = c))

/-- R122, R207, R323, R327: a chunk whose homes grant its commit makes its stores visible, oldest first, and no other byte changes; its flags
merge into ARITH.STAT; in a phase-structured card the lines it writes are in the journal with what stood there; then its staged effects
act in their order. (That a chunk is squashed whose lease has ended is log 53, and that a helper is given back as ended is log 13: readings
of R231 and R88.) A chunk that a home refuses, or of which a lease has ended (R231), is executed again from its checkpoint, with every
register as it was there: no byte of memory changes, and a helper it started is free again, or ended where the chunk had joined it. -/
def Obligations.ChunksCommitOrAreSquashed : Prop :=
  ∀ (core : CoreId) (ctx : Nat) (s : State),
    let a : CtxId := ⟨core, ctx⟩
    let c := s.ctx a
    let gone := ∃ n, c.chunk.lease = some n ∧ n ≤ s.ticks
    commitGroup s a = [a] → c.mate = none → c.chunk.ended = true →
    (refusedAt c.chunk = [] → ¬ gone → reservedAway s [a] = false → Memory.wf s.mem →
      (s.phased a = true → exportOver s a = none ∧ ∃ v, journalLines s c.dom core (linesOf (c.chunk.held.map (·.1))) = .ok v) →
      ∃ u, Committed s a u ∧ Completes (.chunkCommit core ctx) s fun t =>
        t = soloOver ((((c.chunk.effects.foldl (commitEffect true c.chunk.lease a) u).noteHbm 0x42 (c.chunk.held.map (·.1))).modCtx a fun c =>
          { c with chunk := { c.chunk with ckpt := c.r } }).bump a 0x03) [a]) ∧
    ((refusedAt c.chunk ≠ [] ∨ gone) → c.chunk.base < c.chunk.count → c.status ≠ .reserved → Completes (.chunkCommit core ctx) s fun t =>
      let started (h : Nat) : Prop := ∃ e v, Effect.start h e v ∈ c.chunk.effects
      t.mem = s.mem ∧ t.agenda = s.agenda ∧ (∀ b, b.core ≠ core → t.ctx b = s.ctx b) ∧
      (∀ h, h ≠ ctx → ¬ started h → t.ctx ⟨core, h⟩ = s.ctx ⟨core, h⟩) ∧
      (∀ h, h ≠ ctx → started h → (s.ctx ⟨core, h⟩).status = .reserved →
        (t.ctx ⟨core, h⟩).status = if c.chunk.effects.contains (.joined h) then .ended else .free) ∧
      (∀ g, c.gang = some g → c.chunk.split = true → (t.gangOf g).fused = true) ∧
      (c.chunk.split = false → (∀ g, c.gang = some g → (s.gangOf g).solo = none) → t.gangs = s.gangs) ∧
      t.ctx a = { c with
        r := c.chunk.ckpt, ahead := [], pendFault := none, misses := c.misses.filter fun m => m.unit != 0
        status := match c.status with | .waiting _ => .live | x => x
        chunk := { Chunk.empty with ckpt := c.chunk.ckpt, squashes := c.chunk.squashes + 1, count := c.chunk.base, base := c.chunk.base } })

/-- R77, R85, R88, R89, R121, R122, R171, R184, R218, R240, R241, R251, R255, R264, R265, R326: what staged effects do when their chunk commits:
each writes what its rule names, and but for exports no byte of memory; copy B's triggers and job cards are discarded (R77); a phase-structured
card's exports wait in its core's buffer, an access of host-visible memory with its lease (R231; log 53), and those of any other card act at
once. A control-register write gives each RW bit the
value, or sets or clears it, and keeps every read-only bit; MBOX.POP and CTX.ACT (R315, R316), CKPT.CTL (R336), CL.CTL and CL.WAKE (R355,
R356) and SPALLOC.REQ (R94) act. -/
def Obligations.StagedEffectsActAtCommit : Prop :=
  ∀ (a : CtxId) (lease : Option Nat) (s : State),
    let c := s.ctx a
    let k := s.core a.core
    let act (x : Effect) (p : State → Prop) : Prop := p (commitEffect true lease a s x)
    (∀ n, act (.cclr n) fun t => t = s.setCore a.core { k with counters := SMap.put k.counters n ⟨false, 0⟩ }) ∧
    (∀ h entry arg, h ≠ a.ctx → (s.ctx ⟨a.core, h⟩).status = .reserved → (s.ctx ⟨a.core, h⟩).chunk = Chunk.empty → act (.start h entry arg) fun t => ∃ x, Woken s ⟨a.core, h⟩ x t ∧
      x.r.pc = entry ∧ x.r.rdS 1 = arg ∧ x.r.rdS 2 = BitVec.ofNat 64 a.ctx ∧ (∀ j, 3 ≤ j → j < 30 → x.r.rdS j = 0) ∧
      x.card = c.card ∧ x.asid = c.asid ∧ x.firstRec = c.firstRec ∧ x.nRec = c.nRec ∧ x.domKind = c.domKind ∧
      (∀ n, c.card = some n → x.r.level = BitVec.ofNat 4 (if (s.card n).cyc then bits ((s.card n).table.getD (layerOf a.core.kind) 0).toNat 60 4 else 0)) ∧
      x.domInst = if c.domKind = 0 then BitVec.ofNat 16 h else c.domInst) ∧
    (∀ h, act (.joined h) fun t => OnlyContext s t ⟨a.core, h⟩ ∧ t.ctx ⟨a.core, h⟩ = Ctx.reset) ∧
    (∀ p cmd, p < 8 → act (.push p cmd) fun t => OnlyContext s t a ∧
      (t.ctx a).port p = { c.port p with input := (c.port p).input ++ [newCommand s a cmd] } ∧
      t.agenda = s.agenda ++ if (c.port p).input = [] then [.engine a.core a.ctx p] else []) ∧
    (∀ p, act (.popped p) fun t => OnlyContext s t a ∧ (t.ctx a).port p = { c.port p with output := (c.port p).output.drop 1 } ∧
      t.agenda = s.agenda ++ [.completion a.core a.ctx p]) ∧
    (∀ w n, act (.slotld w n) fun t => t.agenda = s.agenda ∧ ∃ v, t.core a.core = { k with
        mxStaged := some (v, BitVec.ofNat 12 n)
        mxStart := k.mxStart + (s.ticks - k.mxStart) / (16 * k.mxSlotLen.toNat) * (16 * k.mxSlotLen.toNat) } ∧
      ∀ i, i < 16 → let o := w.toNat / 16 ^ i % 16; v.toNat / 16 ^ i % 16 = if 11 ≤ o ∧ o ≤ 14 then 15 else o) ∧
    (∀ j l, act (.rwld j l) fun t => t = s.setCore a.core { k with restrict := SMap.put k.restrict j l }) ∧
    (∀ j l, act (.pwld j l) fun t => t = s.setCore a.core { k with prolong := SMap.put k.prolong j l }) ∧
    (∀ v, act (.wsel v) fun t => t = s.setRegs a { c.r with wsel := v }) ∧
    (∀ (n : Nat) (m : BitVec 16), c.mate = none → act (.arrive n m) fun t =>
      let named (d : CoreId) : Prop :=
        if a.core.kind = .l0 ∧ m ≠ 0 then d.kind = .l0 ∧ d.idx / 16 = a.core.idx / 16 ∧ bitOf m.toNat (d.idx % 16) = true ∧
          (d = a.core ∨ holdsCard s d c.card = true)
        else d = a.core
      t.mem = s.mem ∧ t.agenda = s.agenda ∧ (∀ b, (t.ctx b).r = (s.ctx b).r ∧ (t.ctx b).status = (s.ctx b).status) ∧
      (∀ d i, i ≠ n ∨ ¬ named d → t.counter d i = s.counter d i) ∧
      ∀ d, named d → let x := s.counter d n
        t.counter d n = ⟨x.err, if x.count = 0x7FFFFFFF#31 then x.count else x.count + 1⟩) ∧
    (∀ x n, act (.workq x n) fun t => OnlyContext { s with posts := s.posts + 1 } t a ∧
      t.ctx a = { c with queries := c.queries ++ [⟨x, n, s.posts, none⟩] } ∧
      t.agenda = s.agenda ++ [match c.card with | some m => .dealingRound (s.card m).layer | none => .workqAnswer a.core a.ctx]) ∧
    (∀ j q card table, ∀ x, x = .trig j ∨ x = .jenq q card table →
      (c.copy = .copyB → act x fun t => t = s) ∧
      (s.phased a = true → c.copy ≠ .copyB → act x fun t => t = s.setCore a.core { k with exports := k.exports ++ [⟨c.dom, a.ctx, x, none⟩] })) ∧
    (∀ x, x.isExport = true → s.phased a = false → c.copy ≠ .copyB → act x fun t => t = performExport s ⟨c.dom, a.ctx, x, none⟩ a.core) ∧
    (∀ x d, Performed s d x (performExport s x d)) ∧
    (∀ x, x.isHostAccess = true → s.phased a = true → act x fun t =>
      t = s.setCore a.core { k with exports := k.exports ++ [⟨c.dom, a.ctx, x, lease⟩] }) ∧
    (∀ n op v, n ∉ csrActs → Settles s a n (csrNew n op (csrValue s a n) v) → act (.csr n op v) fun t =>
      (∀ i, i < 64 → bitOf (csrValue t a n).toNat i = csrBit n op (csrValue s a n) v i) ∧
      t.mem = s.mem ∧ t.agenda = s.agenda ∧ ∀ b, b ≠ a → t.ctx b = s.ctx b) ∧
    (∀ v, act (.csr 0x305 0 v) fun t =>
      let tgt := csrTarget s a.core
      let new := csrNew 0x305 0 0 v
      let named (d : CoreId) : Prop := d.kind = kindOfLayer tgt.1 ∧ tgt.2.1 < coreCount d.kind ∧ d.idx < coreCount d.kind ∧
        (tgt.2.2.2 = true ∨ d.idx = tgt.2.1) ∧ 10 ≤ v.toNat % 16 ∧ v.toNat % 16 ≤ 14
      (∀ d, named d → t.core d = { s.core d with stackLog := new.setWidth 4 }) ∧ (∀ d, ¬ named d → t.core d = s.core d) ∧
      t = { s with cores := t.cores }) ∧
    (∀ v, act (.csr 0x115 0 v) fun t => if bitOf v.toNat 0 = true then
      OnlyCore s a.core { k with mailbox := { k.mailbox with msgs := k.mailbox.msgs.drop 1 } } [.mailboxHeldEntry a.core] t else t = s) ∧
    (∀ v, bits v.toNat 32 4 = 1 → act (.csr 0x116 0 v) fun t => exec (.ctxResume a.core (v.setWidth 32)) s = .next t) ∧
    (∀ v, bits v.toNat 32 4 = 2 → act (.csr 0x116 0 v) fun t => exec (.ctxDeliver a.core (v.setWidth 32)) s = .next t) ∧
    (∀ v, bits v.toNat 32 4 = 3 → act (.csr 0x116 0 v) fun t => exec (.ctxKill a.core (v.setWidth 32)) s = .next t) ∧
    (∀ v, bits v.toNat 32 4 = 4 → act (.csr 0x116 0 v) fun t => exec (.ctxUnpark a.core (v.setWidth 32)) s = .next t) ∧
    (∀ v, bits v.toNat 32 4 = 5 → act (.csr 0x116 0 v) fun t => exec (.ctxRollback a.core (v.setWidth 32)) s = .next t) ∧
    (∀ v, bits v.toNat 32 4 = 6 → act (.csr 0x116 0 v) fun t => exec (.ctxPreempt a.core (v.setWidth 32)) s = .next t) ∧
    (∀ v, bits v.toNat 32 4 ∉ [1, 2, 3, 4, 5, 6] → act (.csr 0x116 0 v) fun t => OnlyCore s a.core { k with ctxRes := 3 } [] t) ∧
    (∀ v, act (.csr 0x306 0 v) fun t => OnlyContext s t a ∧ t.ctx a = { c with spreqs := c.spreqs ++ [v.setWidth 32] } ∧
      t.agenda = s.agenda ++ if c.spreqs = [] then
        [if bitOf v.toNat 31 then .spallocFree a.core a.ctx else .spallocAllocate a.core a.ctx] else []) ∧
    (∀ v, act (.csr 0x641 0 v) fun t => match bits v.toNat 0 3 with
      | 1 => exec .clQuiesce s = .next t
      | 2 => exec .clSave s = .next t
      | 3 => exec .clClkoff s = .next t
      | 4 => exec .clRailoff s = .next t
      | _ => t = { s with dev := { s.dev with clErr := 1 } }) ∧
    (∀ v, act (.csr 0x643 0 v) fun t => if bitOf v.toNat 0 = true then exec .clWake s = .next t else t = s) ∧
    ∀ v, act (.csr 0x040 0 v) fun t =>
      (bitOf s.dev.ckptStat.toNat 31 = true → t = s) ∧
      (bitOf s.dev.ckptStat.toNat 31 = false → v.toNat % 16 ∈ [1, 2, 3, 4] → t = { s with
        dev := { s.dev with
          ckptCtl := v, ckptCtx := a.ctx, ckptNeed := 0, ckptProg := 0, ckptStat := BitVec.ofNat 64 (2 ^ 31 + v.toNat % 16) }
        agenda := s.agenda ++ if bitOf s.dev.ready.toNat 30 then [.ckpt (v.toNat % 16)] else [] }) ∧
      (bitOf s.dev.ckptStat.toNat 31 = false → v.toNat % 16 ∉ [1, 2, 3, 4] → t = { s with
        dev := { s.dev with
          ckptCtl := v, ckptCtx := a.ctx, ckptNeed := 0, ckptProg := 0
          ckptStat := BitVec.ofNat 64 (v.toNat % 16 + if bitOf s.dev.ready.toNat 30 then 2 ^ 30 + 2 ^ 16 else 2 ^ 31) } })

/-- R65, R66, R373: once the doorbell block is on, a doorbell enables a queue whose HEAD equals its TAIL, or waits for that; it publishes a
TAIL, ignored where the descriptor says that the queue is device-fed; a TAIL that is not allowed sets ERR and disables the queue; it sets
CHEAD; it disables a queue, whose published cards are then read and refused. The descriptor is read at each doorbell, all but the ASID, and
what software keeps in it stays. That a doorbell before that does nothing is log 75, that a disable of a disabled queue cancels a waiting
enable and a TAIL written to one is ignored is log 77 (the model's choices). -/
def Obligations.DoorbellsActOnTheirQueue : Prop :=
  ∀ (q : Nat) (s : State), Memory.wf s.mem →
    let x := described s q
    let fl := flagsOf s q
    let ch := (s.dword (descLoc s q + 32)).toNat
    let bad (y : Queue) (tailw : BitVec 31) : Prop := y.devfed = false ∧ ¬tailFits y (tailAfter y tailw)
    let tailOf (y : Queue) (tailw : BitVec 31) : W32 := if y.devfed then y.tail else tailAfter y tailw
    (∀ i tailw, Enables i s q tailw →
      let y := enabled s q
      (y.devfed = true → Completes i s (QueueStep s q y (fl ||| 1) 0 [])) ∧
      (y.devfed = false → tailw.toNat ≤ y.size →
        Completes i s (QueueStep s q { y with tail := tailw.setWidth 32 } (fl ||| 1) 0 [.cardFetch q])) ∧
      (y.devfed = false → y.size < tailw.toNat → Completes i s (QueueDisabled s q { y with err := 1 } ((fl ||| 4) &&& ~~~1)))) ∧
    (hostReady s → (∀ tailw, x.en = false → x.head ≠ x.tail →
        Completes (.queueEnable q tailw) s fun t => t = s.modQueue q fun y => { y with waitEnable := some (tailw.setWidth 32) }) ∧
      (∀ i tailw, x.en = true → (i = .queueEnable q tailw ∨ i = .tailUpdate q tailw) →
        (x.devfed = true → Completes i s (QueueStep s q x fl ch [])) ∧
        (x.devfed = false → tailFits x (tailAfter x tailw) →
          Completes i s (QueueStep s q { x with tail := tailAfter x tailw } fl ch [.cardFetch q])) ∧
        (bad x tailw → mustFetch x = false → x.cards.Nodup →
          Completes i s (QueueDisabled s q { x with err := 1 } ((fl ||| 4) &&& ~~~1)))) ∧
      (∀ tailw, x.en = true → x.cards.Nodup →
        (bad x tailw → mustFetch x = false → Completes (.queueDisable q tailw) s (QueueDisabled s q { x with err := 1 } ((fl ||| 4) &&& ~~~1))) ∧
        (¬ bad x tailw → mustFetch { x with tail := tailOf x tailw } = false →
          Completes (.queueDisable q tailw) s (QueueDisabled s q { x with tail := tailOf x tailw } (fl &&& ~~~1))) ∧
        (¬ bad x tailw → x.devfed = false → (∀ n ∈ x.cards, n < s.nextCard) →
          let y := { x with tail := tailAfter x tailw }
          let new := (List.range (y.depth - y.cards.length)).map (s.nextCard + ·)
          Completes (.queueDisable q tailw) s fun t => t.queue q = { y with en := false, cards := y.cards ++ new } ∧
            (∀ n ∈ new, (t.card n).refused = some 0x14 ∧ (t.card n).status = 0x14 ∧ (t.card n).done = true) ∧
            ∀ n ∈ x.cards, (s.card n).dealtAll = false → (s.card n).next = 0 → (s.card n).nextB = 0 →
              t.card n = { s.card n with refused := some 0x14, status := 0x14, done := true })) ∧
      (∀ tailw, x.en = false → Completes (.queueDisable q tailw) s (fun t => t = s.modQueue q fun y => { y with waitEnable := none }) ∧
        Completes (.tailUpdate q tailw) s fun t => t = s) ∧
      ∀ chead, Completes (.completionDoorbell q chead) s fun t => t.queue q = { s.queue q with chead := chead } ∧
        (∀ p, p ≠ q → t.queue p = s.queue p) ∧ bits (t.dword (descLoc s q + 32)).toNat 0 32 = chead.toNat ∧
        (∀ n, (n < descLoc s q + 32 ∨ descLoc s q + 36 ≤ n) → Memory.byte t.mem n = Memory.byte s.mem n) ∧
        t.cards = s.cards ∧ t.agenda = s.agenda ++ [.completionRecordWrite q] ∧
        ∀ b, (t.ctx b).r = (s.ctx b).r ∧ (t.ctx b).status = (s.ctx b).status) ∧
    (¬ hostReady s → ∀ tailw chead, ∀ i ∈ [Instr.queueEnable q tailw, .queueDisable q tailw, .tailUpdate q tailw, .completionDoorbell q chead],
      Completes i s fun t => t = s)

/-- R74, R75: a trigger counter takes the value written, and each head card that waits on it may fire; a head card whose threshold is met
reduces it and may be dealt. R26, R27, R66, R68, R69: the distributor reads the next published card of a ring and enters it, refused with
its code where a check fails; one without records is over as soon as its turn and its trigger have come; at a quantum boundary the slots
held longest give way to waiting queues and join their list in the order of their numbers, and the free slots are filled from the head of the
list. -/
def Obligations.TriggersFireAndCardsEnter : Prop :=
  ((∀ (k : Nat) (v : W32) (s : State), hostReady s → Completes (.triggerCounterWrite k v) s fun t =>
     t = { s with dev := { s.dev with trig := SMap.put s.dev.trig k v }, agenda := t.agenda } ∧
     ∀ q, q ∈ s.queues.map (·.1) → ∀ n, s.headCard q = some n → (s.card n).fired = false → (s.card n).field 4 0 12 = k →
       .triggerFire q ∈ t.agenda) ∧
   ∀ (q n : Nat) (s : State), s.headCard q = some n → (s.card n).fired = false →
     let k := (s.card n).field 4 0 12
     let v := (SMap.read (0 : W32) s.dev.trig k).toNat
     let u := { s with
       dev := { s.dev with trig := SMap.put s.dev.trig k (BitVec.ofNat 32 (v - (s.card n).field 4 32 16)) }
       cards := SMap.put s.cards n { s.card n with fired := true } }
     (s.card n).field 4 32 16 ≤ v → Completes (.triggerFire q) s fun t => t.dev = u.dev ∧
       ((s.card n).recCount ≠ 0 → t = { u with layers := (mapSlots u (s.queue q).layerNo).layers, agenda := s.agenda ++ [.dealingRound (s.card n).layer] }) ∧
       ((s.card n).recCount = 0 → (s.queue q).en = true → cardReady s (s.card n) = true →
         (t.card n).done = true ∧ .completionRecordWrite q ∈ t.agenda ∧ ∀ m, m ≠ n → SameOrEmpty s t m)) ∧
  ((∀ (q n : Nat) (s : State), Memory.wf s.mem → (s.queue q).en = true → (s.queue q).devfed = false → s.nextCard = n → n ∉ (s.queue q).cards →
     let x := s.queue q
     let num := (x.head + BitVec.ofNat 32 x.cards.length).toNat
     let dw := distRead s x.asid (x.ring + 64 * (num % x.size)) 8
     let table := if hasTable dw then distRead s x.asid (bits (dw.getD 0 0).toNat 0 56) 4 else []
     let code := codeFor x dw table
     x.cards.length < x.depth → Completes (.cardFetch q) s fun t =>
       let k := t.card n
       t.queue q = { x with cards := x.cards ++ [n] } ∧ (∀ p, p ≠ q → t.queue p = s.queue p) ∧ t.nextCard = n + 1 ∧
       (∀ m, m ≠ n → SameOrEmpty s t m) ∧ k.dw = dw ∧ k.table = table ∧ k.queue = q ∧
       k.num = num ∧ k.layer = x.layerNo ∧ k.next = 0 ∧ k.nextB = 0 ∧ k.killed = false ∧
       (code = 0 → k.refused = none ∧ .dealingRound x.layerNo ∈ t.agenda ∧ headFires t q ∧ (k.recCount ≠ 0 → k.done = false) ∧
         (k.recCount = 0 → k.flag 3 0 = false → cardReady s k = true → (∀ m ∈ x.cards, (s.card m).dealtAll = true) →
           k.done = true ∧ .completionRecordWrite q ∈ t.agenda)) ∧
       (code ≠ 0 → k.refused = some (BitVec.ofNat 8 code) ∧ k.status = BitVec.ofNat 8 code ∧ k.done = true ∧
         .completionRecordWrite q ∈ t.agenda) ∧
       (x.cards.length + 1 < x.depth → .cardFetch q ∈ t.agenda) ∧
       (∀ l, l ∉ descBytes s q → Memory.byte t.mem l = Memory.byte s.mem l) ∧
       ∀ b, (t.ctx b).r = (s.ctx b).r ∧ (t.ctx b).status = (s.ctx b).status) ∧
   ∀ (l : Nat) (s : State),
     let y := (mapSlots s l).layer l
     let out := (oldestSlots y).take (min y.waiting.length 64)
     let kept := y.slots.filter fun z => !out.contains z
     let w := y.waiting ++ (out.map Slot.queue).mergeSort fun a b => decide (a ≤ b)
     let n := min w.length ((List.range 64).filter fun i => kept.all fun z => z.num != i).length
     Completes (.quantumBoundary l) s fun t => t = { s with layers := t.layers, agenda := s.agenda ++ [.dealingRound l] } ∧
       (∀ k, k ≠ l → t.layer k = s.layer k) ∧ (t.layer l).quantum = (s.layer l).quantum ∧ (t.layer l).wd = (s.layer l).wd ∧
       (t.layer l).waiting = w.drop n ∧ (t.layer l).slots.take kept.length = kept ∧
         ((t.layer l).slots.drop kept.length).map Slot.queue = w.take n ∧ ∀ z ∈ (t.layer l).slots.drop kept.length, z.since = s.ticks)

/-- R67: the record of the card at HEAD, once it is over and the host has made room, goes to the completion ring: its TAG, FLAGS and STATUS;
HEAD advances, the card is gone, and an interrupt is sent where the queue asks for one. R27, R74: the next card's turn has come: one
without records is over, and one whose trigger counter stands at its threshold is to fire. -/
def Obligations.CompletionRecordsAreWrittenInOrder : Prop :=
  ∀ (q n : Nat) (rest : List Nat) (s : State), Memory.wf s.mem → (s.queue q).cards = n :: rest → (s.card n).done = true →
    let x := s.queue q
    let l := distLoc x.asid (x.cpl + 16 * (x.head.toNat % x.size))
    (x.cfc = true → (x.head - x.chead).toNat < x.size) → x.cpl % 16 = 0 → s.bootCards = [] → n ∉ rest →
    Completes (.completionRecordWrite q) s fun t =>
      t.queue q = { x with head := x.head + 1, cards := rest } ∧ (∀ p, p ≠ q → t.queue p = s.queue p) ∧
      t.card n = CardRun.none ∧ (∀ m, m ≠ n → SameOrEmpty s t m) ∧ ((s.card n).dup = false → headFires t q) ∧
      t.out = s.out ++ (if x.irq then [.interrupt q] else []) ∧
      ((∀ i, i < 16 → ∀ p, p = q ∨ (s.card n).dup = true → l + i ∉ descBytes s p) → t.dword l = (s.card n).tag ∧
        t.dword (l + 8) = BitVec.ofNat 64 ((s.card n).flags.toNat * 2 ^ 8 + (s.card n).status.toNat)) ∧
      (∀ m, (∀ p, p = q ∨ (s.card n).dup = true → m ∉ descBytes s p) → (m < l ∨ l + 16 ≤ m) →
        Memory.byte t.mem m = Memory.byte s.mem m) ∧
      (rest ≠ [] → .completionRecordWrite q ∈ t.agenda) ∧
      (x.waitEnable ≠ none → x.head + 1 = x.tail → .queueEnableDeferred q ∈ t.agenda) ∧ .dealingRound x.layerNo ∈ t.agenda ∧
      ∀ b, (t.ctx b).r = (s.ctx b).r ∧ (t.ctx b).status = (s.ctx b).status

/-- R77, R326, R364 to R367: the last park of a phase-structured domain discards its journal, and each staged export acts in its order (one whose
lease has ended first takes a new one, log 53); its timetables are disarmed, and the frees that it asked for take effect. A card whose
contexts have all ended frees and zeroes its blocks, gives up its domains and takes its STATUS, and its record is due; a duplicate card's end
makes room in the pool that other queues wait for, whose descriptors then follow. -/
def Obligations.CardsEndWithTheirLastContext : Prop :=
  (∀ (d : Nat) (s : State), (s.dom d).phs = true → (s.dom d).members = [] → awayFrom s d = false → exchangesDone s d = true →
    ctxsIn s d ≠ [] → exportsLive s (coresIn s d) = true → Completes (.finalCommit d) s fun t =>
      (t.dom d).journal = [] ∧ (t.dom d).answers = [] ∧ (t.dom d).saved = [] ∧ .cardRetirement (s.dom d).card ∈ t.agenda ∧
      (t.dom d).superstep = (s.dom d).superstep ∧ (t.dom d).exch = (s.dom d).exch ∧
      Released s d t ∧ BlocksCommitted s d t ∧ ∀ c ∈ coresIn s d, (t.core c).tt.armed = none) ∧
  ∀ (n : Nat) (s : State), cardOver s n = true → Completes (.cardRetirement n) s fun t =>
    let k := s.card n
    t.card n = { k with
      done := true
      status := if k.killed = true ∨ k.status ≠ 0 ∨ k.dup = false then k.status else if copiesDiffer s k then 0x21 else 0 } ∧
    (∀ m, m ≠ n → SameOrEmpty s t m) ∧ (∀ b, Unmoved s t b) ∧ (∀ e ∈ t.doms, e.1 = 0 ∨ e.2.card ≠ n) ∧ (k.dup = false → headFires t k.queue) ∧
    (∀ e ∈ s.clus, ∀ b ∈ (t.cluster e.1).blocks, b.card ≠ n) ∧
    (Memory.wf s.mem → ∀ m, (∀ p, p = k.queue ∨ k.dup = true → m ∉ descBytes s p) →
      ((∃ e ∈ s.clus, ∃ b ∈ e.2.blocks, b.card = n ∧ spLoc e.1 b.off ≤ m ∧ m < spLoc e.1 b.off + 2 ^ b.order) → Memory.byte t.mem m = 0) ∧
      ((∀ e ∈ s.clus, ∀ b ∈ e.2.blocks, b.card = n → m < spLoc e.1 b.off ∨ spLoc e.1 b.off + 2 ^ b.order ≤ m) →
        Memory.byte t.mem m = Memory.byte s.mem m)) ∧
    ∃ l, t.agenda = s.agenda ++ l ++ [.completionRecordWrite k.queue, .dealingRound k.layer]

/-- R37, R64, R68, R72, R83, R97, R339: a dealing round gives the one core that asks for work its chunk of the best head card's records and
starts a context on it; it deals nothing while a seal runs or an image waits for variant selection. R30, R80, R368: a section of a higher
layer starts on its core once that is free; a core that held another address space has its TCM cleared first, and no other byte changes. -/
def Obligations.DealingAndSectionsStartContexts : Prop :=
  ((∀ (l : Nat) (s : State), (∃ im ∈ s.images, matchVariant s im.addr ≠ im.variant) →
     Completes (.dealingRound l) s fun t => t = { s with agenda := s.agenda ++ [.variantReselection, .dealingRound l] }) ∧
   (∀ (l : Nat) (s : State), (∀ im ∈ s.images, matchVariant s im.addr = im.variant) → sealing s = true →
     Completes (.dealingRound l) s fun t => t = s) ∧
   ∀ (l n : Nat) (rest : List Nat) (c : CoreId) (s : State),
     let u := ((s.queues.map (·.1)).filter fun q => (s.queue q).layerNo == l).foldl tend s
     let k := s.card n
     let rem := k.recCount - k.next
     let h := holdingCores s n (fun _ => true) + 1
     let cnt := min (max k.minChunk ((rem + 2 * h - 1) / (2 * h))) rem
     (∀ im ∈ s.images, matchVariant s im.addr = im.variant) → sealing s = false → mappedHeads u l = n :: rest → k.layer = l →
     k.dealtAll = false → k.next < k.recCount → k.isFiller = false → k.paired = false → k.dup = false → placeLeft s k = true →
     (∀ b, (s.ctx b).card = some n → ∀ q ∈ (s.ctx b).queries, q.given ≠ none) → askers (coreFree s) k false = [[c]] →
     Completes (.dealingRound l) s fun t =>
       Started s n c (BitVec.ofNat 64 (k.recBase + k.next * k.recSize)) (BitVec.ofNat 64 cnt) t ∧ (t.card n).next = k.next + cnt ∧
       (rest = [] → k.next + cnt < k.recCount → (∀ b, ∀ q ∈ (s.ctx b).queries, q.given ≠ none) → (∀ m, m ≠ n → SameOrEmpty s t m) ∧
         ∀ b, b.core ≠ c → (t.ctx b).r = (s.ctx b).r ∧ (t.ctx b).status = (s.ctx b).status)) ∧
  (∀ (n : Nat) (c : CoreId) (s : State), (c, false) ∈ (s.card n).sections → (s.card n).killed = false → coreFree s c = true →
     sealing s = false → Completes (.cycleSectionStart n c) s fun t => Started s n c 0 0 t ∧ (c, true) ∈ (t.card n).sections ∧
       (c, false) ∉ (t.card n).sections ∧ (∀ b, b.core ≠ c → t.ctx b = s.ctx b) ∧ t.agenda = s.agenda ∧
       ∀ m, Memory.byte t.mem m =
         if (s.core c).lastAsid ≠ none ∧ (s.core c).lastAsid ≠ some (s.card n).asid ∧ tcmLoc c 0 ≤ m ∧ m < tcmLoc c 0 + 2 ^ 32 then 0
         else Memory.byte s.mem m)

/-- R30, R83, R86, R87: a query is answered with the next chunk of the card, or with the end token, as every query of a layer that receives no
records is (log 74), or in a replay with the answer of the log; a round gives it, or the query has a round of its own; the answer stands in
the cluster window, and one arrival is counted. A query for records waits while a seal runs or an image is to be selected again (R97, R339),
and any answer while its home is reserved for a chunk (R207). -/
def Obligations.WorkQueriesAreAnswered : Prop :=
  ∀ (core : CoreId) (ctx n : Nat) (s : State) (q : Query) (rest : List Query),
    let a : CtxId := ⟨core, ctx⟩
    let c := s.ctx a
    let k := s.card n
    let copyB := isCopyB c.copy
    let log := SMap.read [] (s.dom c.dom).replays (core.key * 16 + ctx)
    let rem := if layerOf core.kind = k.layer then k.recCount - k.nextOf copyB else 0
    let h := max 1 (holdingCores s n fun x => !k.dup || isCopyB x == copyB)
    let cnt := min (max k.minChunk ((rem + 2 * h - 1) / (2 * h))) rem
    let words := log.headD (if rem = 0 then [0, 0xFFFFFFFF00000000]
      else [BitVec.ofNat 64 (k.recBase + k.nextOf copyB * k.recSize), BitVec.ofNat 64 (k.nextOf copyB * 2 ^ 32 + cnt)])
    let x := s.counter core q.ctr
    c.queries = q :: rest → c.card = some n → c.status ≠ .free → c.copy ≠ .shadow → c.mate = none → words.length = 2 →
    (q.given ≠ none ∨ log ≠ [] ∨ rem = 0 ∨ selectionDue s = false ∧ sealing s = false → s.reserved (answerLocs s a q) = true →
      Completes (.workqAnswer core ctx) s fun t => t = s.holdDue (.workqAnswer core ctx)) ∧
    (q.given = none → log = [] → 0 < rem → selectionDue s = false → sealing s = true →
      Completes (.workqAnswer core ctx) s fun t => t = s) ∧
    (q.given = none → log = [] → 0 < rem → selectionDue s = true → Completes (.workqAnswer core ctx) s fun t =>
      t = { s with agenda := s.agenda ++ [.variantReselection, .workqAnswer core ctx] }) ∧
    (∀ w, s.reserved (answerLocs s a q) = false →
      q.given = some w ∨ q.given = none ∧ w = words ∧ (log ≠ [] ∨ rem = 0 ∨ selectionDue s = false ∧ sealing s = false) →
      Completes (.workqAnswer core ctx) s fun t =>
        (t.ctx a).queries = rest ∧ (t.ctx a).r = c.r ∧ (t.ctx a).status = c.status ∧
        t.counter core q.ctr = ⟨x.err, if x.count = 0x7FFFFFFF#31 then x.count else x.count + 1⟩ ∧
        (t.card n).nextOf copyB = (if q.given = none ∧ log = [] then k.nextOf copyB + cnt else k.nextOf copyB) ∧
        (w.length = 2 → Memory.wf s.mem → s.phased a = false →
          ∀ base, (∀ i, i < 16 → windowReach s a (q.addr + BitVec.ofNat 64 i) = .loc (base + i)) →
            (∀ i, i < 16 → q.given ≠ none ∨ base + i ∉ descBytes s k.queue →
              Memory.byte t.mem (base + i) = BitVec.ofNat 8 ((w.getD (i / 8) 0).toNat / 256 ^ (i % 8))) ∧
            ∀ m, q.given ≠ none ∨ m ∉ descBytes s k.queue → (m < base ∨ base + 16 ≤ m) → Memory.byte t.mem m = Memory.byte s.mem m)) ∧
    (q.given = none → rest = [] → k.layer = 0 → core.kind = .l0 → placeLeft s k = true → selectionDue s = false → sealing s = false →
      (∀ d, d.kind = .l0 → coreFree s d = false) → (∀ b, b ≠ a → ∀ z ∈ (s.ctx b).queries, z.given ≠ none) → SMap.has s.cards n = true →
      Completes (.dealingRound 0) s fun t =>
        (t.ctx a).queries = [{ q with given := some words }] ∧ .workqAnswer core ctx ∈ t.agenda ∧ t.counter core q.ctr = x ∧
        (t.card n).nextOf copyB = if log = [] then k.nextOf copyB + cnt else k.nextOf copyB)

/-- R81, R93, R124, R365: a parking context with nothing outstanding ends. A helper keeps its registers for join, and a firmware context, which
R124's table does not name, ends alone (log 18, the model's choice); the control context of a free-running card frees its core; one of a phase-structured card leaves its domain,
whose final commit follows the last. -/
def Obligations.ParkingContextsEnd : Prop :=
  ∀ (core : CoreId) (ctx : Nat) (s : State),
    let a : CtxId := ⟨core, ctx⟩
    let c := s.ctx a
    let ms := (s.dom c.dom).members.filter (· != a)
    mayEnd s a = true →
    (ctx ≠ 0 ∧ core.kind = .l0 ∨ isPriv core.kind = true → Completes (.contextEnd core ctx) s fun t => OnlyContext s t a ∧
      t.ctx a = { c with status := .ended, ports := [] }) ∧
    ((ctx = 0 ∨ core.kind ≠ .l0) → isPriv core.kind = false → Completes (.contextEnd core ctx) s fun t => t.mem = s.mem ∧ (t.dom c.dom).members = ms ∧
      (t.dom c.dom).anyParked = true ∧ (∀ n, c.card = some n → .cardRetirement n ∈ t.agenda) ∧
      (s.phased a = false → c.gang = none → (t.core core).ctxs = [] ∧ ∀ b, b.core ≠ core → t.ctx b = s.ctx b) ∧
      (s.phased a = true → t.ctx a = { c with status := .ended, ports := [] } ∧
        (ms = [] → awayFrom s c.dom = false → .finalCommit c.dom ∈ t.agenda)))

/-- R94, R95: an allocation answers with an aligned block of its order that overlaps no other, or with the code for no block or no such order;
a free of a block of the card answers with its offset, again until it takes effect: at once, or at the commit of a phase-structured
domain. -/
def Obligations.SpallocGivesAndTakesBlocks : Prop :=
  ∀ (core : CoreId) (ctx cl : Nat) (s : State) (x : W32) (rest : List W32),
    let a : CtxId := ⟨core, ctx⟩
    let l := (s.cluster cl).blocks
    let k := x.toNat % 32
    let own (b : Block) : Prop := b.off = x.toNat % 2 ^ 22 ∧ some b.card = (s.ctx a).card
    (s.ctx a).spreqs = x :: rest → clusterOf core = some cl →
    (bitOf x.toNat 31 = false →
      ((k < 12 ∨ 21 < k) → Completes (.spallocAllocate core ctx) s fun t => Served s a rest (2 * 2 ^ 30) t ∧ (t.cluster cl).blocks = l) ∧
      (12 ≤ k → k ≤ 21 → pickBlock l k = none →
        Completes (.spallocAllocate core ctx) s fun t => Served s a rest (2 ^ 30) t ∧ (t.cluster cl).blocks = l) ∧
      (12 ≤ k → k ≤ 21 → ∀ o, pickBlock l k = some o → Completes (.spallocAllocate core ctx) s fun t => Served s a rest o t ∧
        (t.cluster cl).blocks = l ++ [⟨o, k, (s.ctx a).card.getD 0, (s.ctx a).dom, true, none⟩] ∧
        o % 2 ^ k = 0 ∧ o + 2 ^ k ≤ 0x380000 ∧ ∀ b ∈ l, b.off + 2 ^ b.order ≤ o ∨ o + 2 ^ k ≤ b.off)) ∧
    (bitOf x.toNat 31 = true →
      ((∀ b ∈ l, ¬own b) → Completes (.spallocFree core ctx) s fun t => Served s a rest (2 * 2 ^ 30) t ∧ (t.cluster cl).blocks = l) ∧
      (∀ pre b post, l = pre ++ b :: post → (∀ y ∈ pre, ¬own y) → own b → b ∉ post →
        Completes (.spallocFree core ctx) s fun t => Served s a rest (x.toNat % 2 ^ 22) t ∧
          (t.cluster cl).blocks = pre ++ (if s.phased a then [{ b with pend := b.pend <|> some (s.ctx a).dom }] else []) ++ post))

/-- R78, R79, R226, R339: the limits of a card's watchdog class ask for its pre-emption, kill it with STATUS 0x20, and fence the cores that still
hold it, each entered in the defect map; nothing of that happens to a card of a disabled class, or while a seal has stopped its count. (That
a card whose kill a miss's answer has asked for, with FCODE 0xFF of R226, ends whatever its class is log 26, and that a kill disarms its
cores' timetables is log 34: the model's choices.) -/
def Obligations.WatchdogPreemptsKillsAndFences : Prop :=
  ∀ (n : Nat) (s : State),
    (watched s n = true → timed s n = true →
      Completes (.watchdogPreempt n) s (fun t => t = { s with agenda := s.agenda ++ [.preemption n] }) ∧
      Completes (.watchdogKill n) s (Killed s n 0x20) ∧
      (s.ctxsOf n ≠ [] → Completes (.watchdogFence n) s fun t =>
        (∀ a ∈ s.ctxsOf n, (t.core a.core).fenced = true ∧ (t.core a.core).ctxs = [] ∧
          defectEntry 2 (dieOf a.core) a.core.idx 0 ∈ t.dev.defects) ∧
        (t.card n).killed = true ∧ (t.card n).status = 0x20 ∧ .cardRetirement n ∈ t.agenda ∧
        (Memory.wf s.mem → ∀ m, m ∉ descBytes s (s.card n).queue → Memory.byte t.mem m = Memory.byte s.mem m) ∧
        ∀ b, (∀ a ∈ s.ctxsOf n, a.core ≠ b.core) → Unmoved s t b)) ∧
    (watched s n = true → (s.card n).doomed = true → Completes (.watchdogKill n) s (Killed s n 0x20)) ∧
    (timed s n = false → (s.card n).doomed = false → ∀ i ∈ [Instr.watchdogPreempt n, .watchdogKill n, .watchdogFence n],
      Completes i s fun t => t = s)

/-- R36, R37: a loaded image's bytes are copied to its load address in its address space, and its cards enter their boot queues in order
while there is room; a card that fails a check does not enter, and the boot core gets its code. Where DEFECT.SIG has changed, an image
takes the variant that matches now, which is loaded in its turn; undealt cards of the old one are refused with 0x09, and the new one's
take their places. (That a disabled boot queue waits and blocks the cards after it, the places that the new cards take and the load address
Config.variantBase are log 76, that the boot core keeps the refusal codes is log 61: the model's choices.) -/
def Obligations.ImagesLoadAndReselect : Prop :=
  (∀ (addr v : Nat) (load : VAddr) (asid : BitVec 16) (s : State), Memory.wf s.mem → matchVariant s addr = some v →
    let im : Image := ⟨addr, load, asid, some v⟩
    let h := addr + 16 + 32 * v
    let cards := imageCards s s.images.length im v
    let w := (List.range (s.dword (h + 16)).toNat).map fun i =>
      (distLoc asid.toNat ((load.toNat + i) % 2 ^ 56), Memory.byte s.mem (addr + (s.dword (h + 8)).toNat + i))
    ∃ u, u.images = s.images ++ [im] ∧ u.bootCards = s.bootCards ++ cards ∧ (∀ n, Memory.byte u.mem n = byteAfter s.mem w n) ∧
      u.queues = s.queues ∧ u.cards = s.cards ∧ (∀ b, (u.ctx b).r = (s.ctx b).r ∧ (u.ctx b).status = (s.ctx b).status) ∧
      Completes (.imageLoad addr load asid) s fun t => t = feedBoot u.bootCards.length u) ∧
  (∀ (b : BootCard) (rest : List BootCard) (fuel : Nat) (s : State), s.bootCards = b :: rest →
    let x := s.queue b.queue
    let code := codeFor x b.dw b.table
    (x.en = false → feedBoot (fuel + 1) s = s) ∧ (code = 0 → x.size ≤ x.depth + reservedEntries s none b.queue → feedBoot (fuel + 1) s = s) ∧
    (x.en = true → code ≠ 0 → feedBoot (fuel + 1) s = feedBoot fuel { s with
      bootCards := rest, dev := { s.dev with bootCodes := s.dev.bootCodes ++ [(b.image, b.index, code)] } }) ∧
    (x.en = true → code = 0 → x.depth + reservedEntries s none b.queue < x.size → Memory.wf s.mem → ∃ u, feedBoot (fuel + 1) s = feedBoot fuel u ∧
      u.bootCards = rest ∧ u.queue b.queue = { x with tail := x.tail + 1, cards := x.cards ++ [s.nextCard] } ∧
      (u.card s.nextCard).dw = b.dw ∧ (u.card s.nextCard).table = b.table ∧ (u.card s.nextCard).image = some (b.image, b.variant, b.index) ∧
      .dealingRound x.layerNo ∈ u.agenda)) ∧
  ∀ (im : Image) (s : State), Memory.wf s.mem → s.images = [im] → matchVariant s im.addr ≠ im.variant →
    let v := matchVariant s im.addr
    let load := match v with | some n => Config.variantBase im.addr n | none => im.load
    let new : Image := { im with variant := v, load := load }
    let h := im.addr + 16 + 32 * v.getD 0
    let w (z : State) := if v = none then [] else (List.range (z.dword (h + 16)).toNat).map fun i =>
      (distLoc im.asid.toNat ((load.toNat + i) % 2 ^ 56), Memory.byte z.mem (im.addr + (z.dword (h + 8)).toNat + i))
    ∃ z u : State, (∀ n, (∀ e ∈ s.cards, n ∉ descBytes s e.2.queue) → Memory.byte z.mem n = Memory.byte s.mem n) ∧
      Completes .variantReselection s (fun t => t = feedBoot u.bootCards.length u) ∧ u.images = [new] ∧
      (∀ n, Memory.byte u.mem n = byteAfter z.mem (w z) n) ∧ u.queues = s.queues ∧
      (∀ b ∈ u.bootCards, b ∈ s.bootCards ∧ b.image ≠ 0 ∨ ∃ n c, v = some n ∧ c ∈ imageCards z 0 new n ∧ b = { c with queue := b.queue } ∧
        ((∃ e ∈ s.cards, e.2.image.any (fun y => y.1 == 0 && y.2.2 == c.index) = true ∧ e.2.queue = b.queue) ∨
          ∃ z ∈ s.bootCards, z.image = 0 ∧ z.index = c.index ∧ z.queue = b.queue)) ∧
      ∀ e ∈ s.cards, s.card e.1 = e.2 → e.2.image.any (fun y => y.1 == 0) = true → e.2.dealtAll = false → e.2.next = 0 → e.2.nextB = 0 →
        (u.card e.1).refused = some 0x09 ∧ (u.card e.1).status = 0x09 ∧ (u.card e.1).done = true

/-- R275, R331, R332: a card is pre-empted, or a filler card displaced: its cores are left at their next instruction boundary, and a core that
stands there is saved and freed. A saved card resumes on a free core with the registers it was saved with; the regions of its TCM that were not
saved read 0. (The pool of save areas in HBM, which a save and a resume write, is log 95.) -/
def Obligations.PreemptionSavesAndResumes : Prop :=
  (∀ (i : Instr) (n : Nat) (c : CoreId) (s : State), (s.core c).leaving = false → (s.ctx ⟨c, 0⟩).gang = none → (s.ctx ⟨c, 0⟩).mate = none →
    (i = .preemption n ∧ (s.card n).phs = false ∧ (s.card n).done = false ∧ (s.card n).killed = false ∧
        ((s.ctxsOf n).map (·.core)).dedup = [c] ∧ (s.ctx ⟨c, 0⟩).card = some n ∨
      i = .fillerDisplacement c ∧ (s.ctx ⟨c, 0⟩).card = some n ∧ (s.card n).isFiller = true ∧ (s.ctx ⟨c, 0⟩).status ≠ .free) →
    (mayLeave (markLeaving s [c]) [c] = true → Completes i s (Left s n c)) ∧
    (mayLeave (markLeaving s [c]) [c] = false → Completes i s fun t => t.mem = s.mem ∧ t.agenda = s.agenda ∧
      (t.core c).leaving = true ∧ (∀ b, b.core ≠ c → t.ctx b = s.ctx b) ∧
      ∀ k, (t.ctx ⟨c, k⟩).r = (s.ctx ⟨c, k⟩).r ∧ (t.ctx ⟨c, k⟩).status = (s.ctx ⟨c, k⟩).status)) ∧
  (∀ (n : Nat) (s : State), (s.card n).phs = true → (s.card n).done = false → (s.card n).killed = false → s.ctxsOf n ≠ [] →
    (∀ a ∈ s.ctxsOf n, (s.core a.core).leaving = false) →
    let ds := (s.doms.filter fun d => d.2.card == n && d.2.phs && d.2.saved != []).map (·.1)
    let u := rollbackSet s (closure s s.doms.length ds) [n]
    let cs := ((u.ctxsOf n).map (·.core)).dedup
    (u.card n).killed = false → Completes (.preemption n) s fun t => t = saveReady (markLeaving u cs) n cs) ∧
  ∀ (n : Nat) (c : CoreId) (s : State) (x : SaveArea) (y : Saved), s.areas = [x] → x.card = n → x.held = false → x.cores = [y] →
    x.blocks = [] → x.sections = [] → (∀ k, (SMap.read Ctx.reset y.data.ctxs k).gang = none) → resumeCores s x c = some [c] →
    (s.card n).isFiller = false → sealing s = false →
    Completes (.preemptionResume n c) s fun t => t.areas = [] ∧
      (∀ k, (t.ctx ⟨c, k⟩).r = (SMap.read Ctx.reset y.data.ctxs k).r) ∧
      (Memory.wf s.mem → ∀ m, (∀ p ∈ dwordBytes savePool (saveWords t), p.1 ≠ m) → Memory.byte t.mem m =
        if tcmLoc c 0 ≤ m ∧ m < tcmLoc c 0 + 2 ^ 32 then 0 else Memory.byte s.mem m) ∧ (t.core c).leaving = false ∧
      .dealingRound (s.card n).layer ∈ t.agenda ∧
      ((s.dom (SMap.read Ctx.reset y.data.ctxs 0).dom).phs = false →
        (∀ k, (t.ctx ⟨c, k⟩).status = (SMap.read Ctx.reset y.data.ctxs k).status) ∧ ∀ b, b.core ≠ c → Unmoved s t b)

/-- R191, R226, R323, R325, R328: the rollback of a domain that is entangled with no other restores every journaled line, drops its journal,
its commands and channel operations and its staged exports, returns each saved core's live contexts to their registers at the barrier, and
replays its answers; the numbers of misses go on; an uncorrectable pre-image ends its card with STATUS 0x22, whose queue's descriptor follows.
(Where a journal's entry stands in memory its pre-image is read from there, log 86.) -/
def Obligations.RollbackRestoresTheBarrier : Prop :=
  ∀ (d : Nat) (s : State), (s.dom d).phs = true → (s.dom d).saved ≠ [] → closure s s.doms.length [d] = [d] → Memory.wf s.mem →
    ((s.dom d).journal.map (·.line)).Nodup → (∀ e ∈ (s.dom d).journal, e.pre.length = 64) → Apart (s.dom d).journal →
    (Sound s (s.dom d).journal → (s.dom d).tooLarge = none → ((s.dom d).saved.map (·.core)).Nodup → awayFrom s d = false →
      Completes (.rollback d) s fun t => Undone s (s.dom d).journal [] t ∧ (t.dom d).journal = [] ∧
        (t.dom d).replays = (s.dom d).answers ∧ (t.dom d).superstep = (s.dom d).superstep ∧
        (∀ b, (∀ y ∈ (s.dom d).saved, y.core ≠ b.core) → t.ctx b = s.ctx b) ∧
        ∀ y ∈ (s.dom d).saved, (t.core y.core).exports = [] ∧ (t.core y.core).missNo = (s.core y.core).missNo ∧
          ∀ k, (SMap.read Ctx.reset y.data.ctxs k).status = .live →
            (t.ctx ⟨y.core, k⟩).status = .live ∧ (∀ p, ((t.ctx ⟨y.core, k⟩).port p).input = []) ∧
            (t.ctx ⟨y.core, k⟩).r = { (SMap.read Ctx.reset y.data.ctxs k).r with ldq := [], ldqDue := [] }) ∧
    (¬ Sound s (s.dom d).journal → (s.card (s.dom d).card).killed = false → (s.card (s.dom d).card).done = false →
      Completes (.rollback d) s fun t => Undone s (s.dom d).journal (descBytes s (s.card (s.dom d).card).queue) t ∧
        (t.card (s.dom d).card).killed = true ∧ (t.card (s.dom d).card).status = 0x22)

/-- R126, R318, R321, R322, R329, R330: a corrected error is counted; an uncorrectable one of a memory poisons its line, and one of a cached line
discards it; one of a matrix unit or of a core's logic is counted, its context stops with a message, and a phase-structured domain rolls back. A
unit that was declared failed is replaced by a row, a lane or a cluster spare; without one it is retired, fenced or lost with its entry of the
defect map, and its card ends with STATUS 0x22. A pair that differs, or waits too long alone, stops with cause 0x18, and its domain rolls back,
or its card ends with STATUS 0x23. (The model's choices: which words share a bank's spare rows, log 28; a replacement is a step of its own, log
29; the code and INFO of an error that is of no memory, log 70; which discarded lines count, log 94.) -/
def Obligations.ErrorsArePoisonedSparedOrStopped : Prop :=
  (∀ (u : ErrUnit) (s : State), Completes (.correctedError u) s fun t => t = { s with cores := t.cores, dies := t.dies } ∧
    let its (c : CoreId) : Bool := match u with
      | .memory l => isTcm l && (coreOfKey ((l - 2 ^ 53) / 2 ^ 32)).key == c.key
      | .code d _ => d.key == c.key
      | _ => false
    ∀ c, t.core c = if its c then
      { s.core c with errCorr := if (s.core c).errCorr = 0xFFFF then 0xFFFF else (s.core c).errCorr + 1 } else s.core c) ∧
  (∀ (l : Nat) (s : State), (∀ x ∈ s.dev.failing, x.1 ≠ unitKey (.memory l)) →
    Completes (.uncorrectableError (.memory l)) s fun t => t = { s with poison := (s.poison ++ [l / 64]).dedup }) ∧
  (∀ (c : CoreId) (line : Nat) (s : State), (∀ x ∈ s.dev.failing, x.1 ≠ .code c line) → hasCode s c line = true →
    Completes (.uncorrectableError (.code c line)) s fun t => t = { s with cores := t.cores, clus := t.clus, dies := t.dies } ∧
      hasCode t c line = false ∧ (∀ x ∈ (s.core c).icache, x.1 ≠ line → x ∈ (t.core c).icache) ∧
      (∀ b, t.ctx b = s.ctx b) ∧ (∀ d, d ≠ c → t.core d = s.core d) ∧
      let a : CtxId := ⟨c, (s.core c).holder⟩
      let n := (s.core c).icacheDrop
      (t.core c).icacheDrop = if s.readyCtx a = true ∧ nextIn s a line = true ∨ n = 0xFFFFFFFF then n else n + 1) ∧
  (∀ (u : ErrUnit) (c : CoreId) (s : State), u = .lane c ∨ u = .logic c → c.kind ≠ .service → (∀ x ∈ s.dev.failing, x.1 ≠ u) →
    (s.ctx ⟨c, 0⟩).gang = none → Completes (.uncorrectableError u) s fun t =>
      let x := s.ctx ⟨c, 0⟩
      let y := t.ctx ⟨c, 0⟩
      t.mem = s.mem ∧ (∀ b, b ≠ ⟨c, 0⟩ → (t.ctx b).r = (s.ctx b).r ∧ (t.ctx b).status = (s.ctx b).status) ∧
      (t.core c).errUncorr = (if (s.core c).errUncorr = 0xFFFF then 0xFFFF else (s.core c).errUncorr + 1) ∧
      (x.status = .free ∨ x.card = none → y = x) ∧
      (x.status ≠ .free → x.card ≠ none → s.phased ⟨c, 0⟩ = true → .rollback x.dom ∈ t.agenda) ∧
      ((x.status = .live ∨ ∃ w, x.status = .waiting w) → x.card ≠ none → y.status = .stopped ∧ y.r.code = 0x17 ∧ y.r.info = 0 ∧
        y.r.epc = x.r.pc ∧ y.msgDue = true ∧ .faultMessage c 0 ∈ t.agenda)) ∧
  (∀ (l v n : Nat) (s : State) (rest : List (ErrUnit × Nat)), unitKey (.memory l) = .memory v → s.dev.failing = (.memory v, n) :: rest →
    let used := SMap.read 0 s.dev.spares (bankNo v)
    (used < 16 → Completes (.uncorrectableError (.memory l)) s fun t => t = { s with dev := t.dev } ∧
      (∀ x ∈ t.dev.failing, x.1 ≠ .memory v) ∧ SMap.read 0 t.dev.spares (bankNo v) = used + 1) ∧
    (16 ≤ used → (s.card n).done = false → (s.card n).killed = false → (∀ e ∈ s.doms, e.2.card = n → e.2.phs = false) →
      Completes (.uncorrectableError (.memory l)) s fun t => (∀ x ∈ t.dev.failing, x.1 ≠ .memory v) ∧
        (∃ e ∈ t.dev.defects, e.head? = some 3) ∧ (t.card n).killed = true ∧ (t.card n).status = 0x22 ∧
        (Memory.wf s.mem → ∀ m, m ∉ descBytes s (s.card n).queue → Memory.byte t.mem m = Memory.byte s.mem m))) ∧
  (∀ (u : ErrUnit) (c : CoreId) (n : Nat) (s : State) (rest : List (ErrUnit × Nat)), u = .lane c ∨ u = .logic c → s.dev.failing = (u, n) :: rest →
    let used := SMap.read 0 s.dev.laneSpares c.key
    (u = .lane c → used < 4 → Completes (.uncorrectableError u) s fun t => t = { s with dev := t.dev } ∧
      SMap.read 0 t.dev.laneSpares c.key = used + 1) ∧
    ((u = .logic c ∨ 4 ≤ used) → (s.card n).done = false → (s.card n).killed = false →
      (∀ e ∈ s.doms, (e.2.card = n ∨ e.2.card ∈ cardsOn s [c]) → e.2.phs = false) → Completes (.uncorrectableError u) s fun t =>
        (t.core c).fenced = true ∧ defectEntry 2 (dieOf c) c.idx 0 ∈ t.dev.defects ∧ (t.card n).killed = true ∧ (t.card n).status = 0x22)) ∧
  (∀ (cl n : Nat) (s : State) (rest : List (ErrUnit × Nat)), cl < 288 → s.dev.failing = (.cluster cl, n) :: rest →
    (s.card n).done = false → (s.card n).killed = false → (∀ e ∈ s.doms, e.2.phs = false) →
    (∀ p tl, (s.die (cl / 36)).spare = p :: tl → Completes (.uncorrectableError (.cluster cl)) s fun t =>
      (t.die (cl / 36)).spare = tl ∧ defectEntry 1 (cl / 36) (cl % 36) p ∈ t.dev.defects ∧ t.cluster cl = Cluster.reset ∧
      (t.card n).killed = true ∧ (t.card n).status = 0x22 ∧ t.dev.readyCl = s.dev.readyCl) ∧
    ((s.die (cl / 36)).spare = [] → defectEntry 4 (cl / 36) (cl % 36) 0 ∉ s.dev.defects → Completes (.uncorrectableError (.cluster cl)) s fun t =>
      defectEntry 4 (cl / 36) (cl % 36) 0 ∈ t.dev.defects ∧ (t.card n).killed = true ∧ (t.card n).status = 0x22 ∧
      bitOf (SMap.read (0 : Dword) t.dev.readyCl (cl / 36)).toNat (cl % 36) = false)) ∧
  ∀ (i : Instr) (k n : Nat) (s : State) (x : MergeEntry) (m : CoreId), s.merge[k]? = some x →
    (i = .mergeTimeout k ∧ x.passed = false ∧ partnerStands s x = false ∨ i = .pairMismatch k ∧ x.bad = true) →
    let a := x.who
    let d := s.dom (s.ctx a).dom
    (s.ctx a).mate = some m → m ≠ a.core → (s.ctx a).card = some n → (s.card n).done = false → (s.card n).killed = false →
    (d.phs = true ∧ d.superstep ∉ d.mismatches → Completes i s fun t => t.mem = s.mem ∧ .rollback (s.ctx a).dom ∈ t.agenda ∧
      (t.dom (s.ctx a).dom).mismatches = d.mismatches ++ [d.superstep] ∧ ∀ b ∈ [a, ⟨m, a.ctx⟩],
        (t.ctx b).status = .stopped ∧ (t.ctx b).r.code = 0x18 ∧ (t.ctx b).r.info = 0 ∧ (t.ctx b).r.faddr = x.target ∧
        (t.ctx b).r.epc = if (s.ctx b).chunk.count = 0 then (s.ctx b).r.pc else (s.ctx b).chunk.ckpt.pc) ∧
    (d.phs = false ∨ d.superstep ∈ d.mismatches → Completes i s fun t =>
      (Memory.wf s.mem → ∀ m, m ∉ descBytes s (s.card n).queue → Memory.byte t.mem m = Memory.byte s.mem m) ∧
      (t.card n).killed = true ∧ (t.card n).status = 0x23)

/-- R225, R226, R230, R314, R315: a fault message, a miss message and a stage-2 record each go whole to their mailbox, held where its class is
full; a message leaves at its removal, and a held one then enters; an answer installs its entry and resumes or faults the requester whose
number it bears, and nobody where it is stale. R231, R233, R234: a lease that ends, a shoot-down that arrives and a core that wakes each
make TLB entries invalid, and no others; a chunk that holds accesses is executed again, with those of its fused gang, and a shoot-down is
acknowledged once none is still to be performed. (That the chunks are squashed, where R233 lets their accesses be performed, and that buffered
exports delay the acknowledgement is log 17; when a lease counts as ended is log 53: the model's choices.) -/
def Obligations.MessagesArriveAndTranslationsGo : Prop :=
  ((∀ (core : CoreId) (ctx : Nat) (s : State),
     let a : CtxId := ⟨core, ctx⟩
     let c := s.ctx a
     c.msgDue = true → Completes (.faultMessage core ctx) s fun t => ∃ w z,
       Posted (s.modCtx a fun c => { c with msgDue := false, perm := false }) a 0 (mailTo s core) [c.r.faddr, c.r.epc.setWidth 64, w, z] t ∧
       bits w.toNat 0 16 = c.asid.toNat ∧ bits w.toNat 16 8 = c.r.code.toNat ∧
       (bitOf w.toNat 24 = true ↔ (s.core core).parked = some ctx) ∧ (bitOf w.toNat 25 = true ↔ c.copy = .primary ∨ c.copy = .shadow) ∧
       (bitOf w.toNat 26 = true ↔ (c.r.code = 0x17 ∨ c.r.code = 0x16 ∧ s.inGang a = true) ∧ s.phased a = true) ∧
       (bitOf w.toNat 27 = true ↔ (c.r.code = 0x16 ∨ c.r.code = 0x17) ∧ c.perm = true) ∧
       bits z.toNat 0 32 = c.r.info.toNat ∧ bits z.toNat 32 4 = dieOf core % 16) ∧
   (∀ (core : CoreId) (ctx unit : Nat) (s : State) (x : Miss) (pre post : List Miss),
     let a : CtxId := ⟨core, ctx⟩
     (s.ctx a).misses = pre ++ x :: post → x.unit = unit → x.posted = false → (∀ y ∈ pre ++ post, y.unit ≠ unit) → x.acc < 256 →
     Completes (.missMessage core ctx unit) s fun t => ∃ w,
       Posted (s.modCtx a fun c => { c with misses := pre ++ { x with posted := true } :: post }) a unit (mailTo s core)
         [x.va.setWidth 64, w, BitVec.ofNat 64 (dieOf core), 0] t ∧
       bits w.toNat 0 16 = (s.ctx a).asid.toNat ∧ bits w.toNat 16 8 = x.acc ∧ bits w.toNat 32 8 = x.seq.toNat) ∧
   (∀ (x : Stage2Fault) (s : State), Completes (.stage2FaultRecord x) s fun t => ∃ w,
       Posted s ⟨x.core, x.ctx⟩ 99 ⟨.boot, 0⟩ [x.va.setWidth 64, x.gpa, w, BitVec.ofNat 64 (dieOf x.core)] t ∧ bits w.toNat 0 16 = x.asid.toNat ∧
       bits w.toNat 16 8 = (if x.perm then 0x13 else 0x12) ∧ bits w.toNat 24 8 = (if x.walk then 1 else x.acc.toNat * 2) ∧
       bits w.toNat 32 8 = x.seq.toNat) ∧
   (∀ (c : CoreId) (s : State), Completes (.mboxPop c) s (OnlyCore s c { s.core c with
     mailbox := { (s.core c).mailbox with msgs := (s.core c).mailbox.msgs.drop 1 } } [.mailboxHeldEntry c])) ∧
   (∀ (c : CoreId) (s : State) (who : CtxId) (unit : Nat) (m : List Dword) (pre post : List (CtxId × Nat × List Dword)),
     let b := (s.core c).mailbox
     b.held = pre ++ (who, unit, m) :: post → (∀ x ∈ pre, b.room x.2.2 = false) → b.room m = true →
     Completes (.mailboxHeldEntry c) s (OnlyCore s c { s.core c with mailbox := ⟨b.msgs ++ [m], pre ++ post⟩ }
       (if unit = 0 ∨ unit = 99 ∨ isMissMsg m = true then [] else (unitDue who unit).toList))) ∧
   ∀ (fw : CtxId) (sel tag dat : Dword) (s : State),
     let t := commitEffect true none fw s (.tlbw sel tag dat)
     let a := (reqTarget (bits sel.toNat 0 32) (bits sel.toNat 40 4)).1
     let unit := (reqTarget (bits sel.toNat 0 32) (bits sel.toNat 40 4)).2
     let fc := bits sel.toNat 32 8
     let b := (s.core a.core).tlb
     t.mem = s.mem ∧
     (fc = 0 → bitOf tag.toNat 0 = true → b.slots.length ≤ tlbSize a.core.kind → b.next < tlbSize a.core.kind →
       ∃ e ∈ (t.core a.core).tlb.slots, e.tag = tag ∧ e.data = dat ∧ e.valid = true ∧
         (a.core.kind = .l0 → bits dat.toNat 52 12 ≠ 0 → e.expires = s.ticks + min (bits dat.toNat 52 12 * 256) s.dev.leaseMax.toNat)) ∧
     ((∀ m ∈ (s.ctx a).misses, m.unit = unit → m.seq.toNat ≠ bits sel.toNat 0 8) →
       (∀ c, t.ctx c = s.ctx c) ∧ t.agenda = s.agenda ∧ t.clus = s.clus) ∧
     ∀ m pre post, (s.ctx a).misses = pre ++ m :: post → (∀ y ∈ pre ++ post, y.unit ≠ 0) → unit = 0 → m.unit = 0 →
       m.seq.toNat = bits sel.toNat 0 8 → m.early = none → (s.ctx a).status = .waiting .miss → (fc = 0 ∨ fc = 0x10 ∨ fc = 0x11) →
       t.ctx a = { s.ctx a with
         misses := pre ++ post, status := .live
         pendFault := if fc = 0 then none else some (BitVec.ofNat 8 fc, BitVec.ofNat 32 m.acc, m.va.setWidth 64) }) ∧
  ((∀ (c : CoreId) (n : Nat) (s : State), Completes (.leaseExpiry c n) s (OnlyCore s c { s.core c with tlb := { (s.core c).tlb with
     slots := (s.core c).tlb.slots.zipIdx.map fun e => if e.2 = n ∧ e.1.expires ≤ s.ticks then { e.1 with valid := false } else e.1 } } [])) ∧
   (∀ (c : CoreId) (s : State) (x : CtxId × Dword × Dword × Bool) (pre post : List (CtxId × Dword × Dword × Bool)),
     (s.core c).shoot = pre ++ x :: post → (∀ y ∈ pre, y.2.2.2 = true) → x.2.2.2 = false → (∀ y ∈ post, y ≠ x) →
     Completes (.shootdownMessage c) s fun t => t.agenda = s.agenda ++ [.shootdownAck c] ∧ t.mem = s.mem ∧
       (t.core c).shoot = pre ++ (x.1, x.2.1, x.2.2.1, true) :: post ∧
       (t.core c).tlb = { (s.core c).tlb with
         slots := (s.core c).tlb.slots.map fun e => if e.valid && shootHits x.2.1 x.2.2.1 e then { e with valid := false } else e } ∧
       let again (b : CtxId) : Prop := (s.ctx b).chunk.base < (s.ctx b).chunk.count →
         (t.ctx b).r = (s.ctx b).chunk.ckpt ∧ (t.ctx b).chunk.stores = [] ∧ (t.ctx b).chunk.effects = []
       ((∀ k, k ≠ 0 → (s.ctx ⟨c, k⟩).gang = none) → (∀ g, (s.ctx ⟨c, 0⟩).gang = some g → ⟨c, 0⟩ ∈ (s.gangOf g).members ∧
           ∀ m ∈ (s.gangOf g).members, m.core = c → m.ctx = 0) →
         (∀ k, (s.ctx ⟨c, k⟩).chunk.holds = false → (t.ctx ⟨c, k⟩).r = (s.ctx ⟨c, k⟩).r) ∧
         (∀ k, (s.ctx ⟨c, k⟩).chunk.holds = true → again ⟨c, k⟩) ∧
         ((s.ctx ⟨c, 0⟩).chunk.holds = true → ∀ m ∈ commitGroup s ⟨c, 0⟩, again m))) ∧
   (∀ (c : CoreId) (s : State) (x : CtxId × Dword × Dword × Bool) (pre post : List (CtxId × Dword × Dword × Bool)),
     (s.core c).shoot = pre ++ x :: post → (∀ y ∈ pre, y.2.2.2 = false) → x.2.2.2 = true →
     ((∀ e ∈ (s.core c).exports, e.fx.isHostAccess = false) →
       Completes (.shootdownAck c) s (OnlyCore s c { s.core c with shoot := pre ++ post } [])) ∧
     ((∃ e ∈ (s.core c).exports, e.fx.isHostAccess = true) → Completes (.shootdownAck c) s fun t => t = s)) ∧
   ∀ (c : CoreId) (s : State), Completes (.wakeTlbInvalidate c) s fun t => OnlyCore s c { s.core c with
       tlb := { (s.core c).tlb with slots := (t.core c).tlb.slots }, gated := false } [] t ∧
     (t.core c).tlb.slots.length = (s.core c).tlb.slots.length ∧ ∀ e ∈ (t.core c).tlb.slots, e.valid = false)

/-- R243, R244, R245, R247: a collect whose named children have all offered writes its restriction into the parent's block; a prolongation
offer is added into its child's block. The forms complete, each context at its next instruction, and no other byte of memory changes. -/
def Obligations.LinkFormsCompleteTogether : Prop :=
  ∀ (p : CtxId) (s : State) (o : LinkOp), (s.core p.core).ctxs.map (·.1) = [p.ctx] → (s.ctx p).link = some o → (s.ctx p).mate = none →
    o.ready = true → s.poison = [] → Memory.wf s.mem →
    let done (b : CtxId) (next : VAddr) (fl : Nat) (t : State) : Prop :=
      let c := s.ctx b
      let r := { c.r with pc := next, arith := c.r.arith ||| BitVec.ofNat 8 fl }
      t.ctx b = { c with r := r, status := .live, link := none, chunk := { Chunk.empty with ckpt := r, against := (t.ctx b).chunk.against } }
    (∀ (hs : List (Nat × CtxId × LinkOp)), o.kind = 1 → hs.map (·.1) = (List.range 8).filter (fun c => bitOf o.m.toNat c) →
      (∀ h ∈ hs, childOffer s p h.1 0 = some h.2 ∧ (s.ctx h.2.1).link = some h.2.2 ∧ h.2.2.n = o.n ∧ (s.ctx h.2.1).mate = none) → (hs.map (·.2.1)).Nodup →
      s.phased p = false → s.reserved [tcmLoc p.core 0] = false →
      let x (f : Nat) : Option Nat := (hs.find? fun h => h.1 == f / o.n).map fun h =>
        ((blockWords s h.2.1.core h.2.2.a o.n).getD (f % o.n) 0).toNat
      let outs := (List.range (8 * o.n / o.stride)).map fun k =>
        restrictOut (restrictSet s p.core (bits o.ws.toNat 2 2)) x o.n o.stride o.op (modeOf o.rnd .nearest 0) o.sat k
      Completes (.linkRendezvous p.core) s fun t => done p o.next (orFlags outs) t ∧
        (∀ h ∈ hs, done h.2.1 h.2.2.next 0 t) ∧
        (∀ b, b ≠ p → (∀ h ∈ hs, h.2.1 ≠ b) → Unmoved s t b) ∧
        ∀ n, Memory.byte t.mem n = byteAfter s.mem (wordsAt p.core o.a (outs.zipIdx.map fun c => (c.2, c.1.code))) n) ∧
    (∀ (pos : Nat) (a : CtxId) (y : LinkOp), o.kind = 3 → pos < 8 → o.m = BitVec.ofNat 8 (2 ^ pos) → o.bad = false →
      childOffer s p pos 2 = some (a, y) → (s.ctx a).mate = none → (s.ctx a).link = some y → s.phased a = false →
      o.n * y.stride = 8 * y.n → s.reserved [tcmLoc a.core 0] = false →
      let outs := (List.range y.n).filterMap fun i => (prolongOut (prolongSet s a.core (bits y.ws.toNat 0 2)) o.data o.n y.stride
        (pos * y.n + i) ((blockWords s a.core y.a y.n).getD i 0).toNat (modeOf y.rnd .nearest 0) y.sat).map fun r => (i, r)
      Completes (.linkRendezvous p.core) s fun t => done p o.next 0 t ∧
        done a y.next (orFlags (outs.map (·.2))) t ∧ (∀ b, b ≠ p → b ≠ a → Unmoved s t b) ∧
        ∀ n, Memory.byte t.mem n = byteAfter s.mem (wordsAt a.core y.a (outs.map fun x => (x.1, x.2.code))) n)

/-- R95, R258 to R263, R266, R326: once every participant has arrived, a barrier commits in one step: the superstep advances, RNG.CTR becomes 0 in
each, and in a phase-structured card the phase toggles, journals and the answer log go, each staged export acts in its order, core by core, and
frees of scratchpad blocks take effect; the cores on which a context has parked are part of it. It waits while an export's lease has ended (log
53). A vote writes its result in each (a redundant pair counts once in it, log 22, the model's choice). Their release is due: it lets each
participant go on, and a barrier's starts every armed timetable of the domain's cores, those of parked participants among them, in a
phase-structured card where an exchange phase opens. Different forms trap with cause 0x14; a fabric token is kept. -/
def Obligations.BarriersAndVotesCommitAndRelease : Prop :=
  (∀ (d : Nat) (s : State),
    let x := s.dom d
    allArrived s d = true → x.members.Nodup →
    ((∀ f ∈ formsOf s d, f = 0) → exchangesDone s d = true → exportsLive s (coresIn s d) = false → Completes (.barrierCommit d) s fun t =>
      t.mem = s.mem ∧ (t.dom d).superstep = x.superstep ∧ (t.dom d).release = x.release) ∧
    ((∀ f ∈ formsOf s d, f = 0) → exchangesDone s d = true → exportsLive s (coresIn s d) = true → tokensHere s d = true →
      Completes (.barrierCommit d) s fun t =>
        (t.dom d).superstep = x.superstep + 1 ∧ (t.dom d).release = some true ∧ .barrierRelease d ∈ t.agenda ∧
        (t.dom d).exch = (x.phs && !x.exch) ∧
        (x.phs = true → (t.dom d).journal = [] ∧ (t.dom d).answers = [] ∧ Released s d t ∧ BlocksCommitted s d t ∧
          (∀ c, c ∈ (t.dom d).saved.map Saved.core ↔ (∃ m ∈ x.members, m.core = c) ∨ c ∈ coresIn t d) ∧
          ∀ c ∈ coresIn s d, (s.ctx ⟨c, 0⟩).status = .ended → (s.ctx ⟨c, 0⟩).dom = d → (s.ctx ⟨c, 0⟩).gang = none → (t.core c).ctxs = []) ∧
        (x.phs = false → t.mem = s.mem) ∧
        ∀ m ∈ x.members, ∀ y, (s.ctx m).arrival = some y → m.ctx = 0 → (s.ctx m).status ≠ .ended →
          (t.ctx m).r = { (s.ctx m).r with
            pc := y.next, ldq := (s.ctx m).r.ldq.drop y.need, rngCtr := 0
            arith := if x.phs then (t.ctx m).r.arith else (s.ctx m).r.arith }) ∧
    ((∀ f ∈ formsOf s d, f = 0) → exchangesDone s d = true → exportsLive s (coresIn s d) = true → tokensHere s d = false → Completes (.barrierCommit d) s fun t =>
      t = { s with doms := t.doms, out := t.out } ∧ (t.dom d).superstep = x.superstep ∧ (t.dom d).tokensSent = true ∧
      t.out = s.out ++ if x.tokensSent then [] else (tokenPorts s d).map fun p => Out.token p x.superstep) ∧
    (∀ form ∈ [1, 2, 3], (∀ f ∈ formsOf s d, f = form) → Completes (.voteCommit d) s fun t =>
      let vals := (x.members.filter fun m => (s.ctx m).copy != .shadow).filterMap fun m => (s.ctx m).arrival.map (·.value)
      let yes := if form = 1 then (vals.all fun v => v.toNat % 2 == 1) && !x.anyParked else vals.any fun v => v.toNat % 2 == 1
      let total : Dword := vals.foldl (· + ·) 0
      (t.dom d).release = some false ∧ .barrierRelease d ∈ t.agenda ∧ t.mem = s.mem ∧
      ∀ m ∈ x.members, ∀ y, (s.ctx m).arrival = some y →
        let r := (s.ctx m).r
        let res := if form = 3 then (if y.toStq then { r with stq := r.stq ++ [total.setWidth 256] } else r.wrS y.dst total)
          else r.wrP m.core.kind y.dst (if yes then pOnes m.core.kind else 0)
        (t.ctx m).r = { res with
          pc := y.next, ldq := r.ldq.drop y.need
          voteRes := if form = 3 then BitVec.ofInt 32 (min (max total.toInt 0) (2 ^ 32 - 1)) else if yes then 1 else 0 }) ∧
    ((∃ f ∈ formsOf s d, ∃ g ∈ formsOf s d, f ≠ g) → ∀ i, (i = .voteCommit d ∨ i = .barrierCommit d ∧ 0 ∈ formsOf s d) →
      Completes i s fun t => t.mem = s.mem ∧ (t.dom d).superstep = x.superstep ∧ ∀ m ∈ x.members,
        (t.ctx m).status = .stopped ∧ (t.ctx m).r.code = 0x14 ∧ (t.ctx m).r.epc = (s.ctx m).r.pc ∧ (t.ctx m).r.pc = (s.ctx m).r.pc)) ∧
  (∀ (d : Nat) (s : State) (bar : Bool), (s.dom d).release = some bar → (s.dom d).members.Nodup →
    let starts := bar = true ∧ ((s.dom d).phs = false ∨ (s.dom d).exch = true)
    Completes (.barrierRelease d) s fun t => (t.dom d).release = none ∧ t.mem = s.mem ∧
      (∀ c ∈ coresIn s d, c.kind = .l0 → starts → ∀ k, (s.core c).tt.armed = some k → let y := (t.core c).tt
        y.armed = none ∧ y.running = (if SMap.read [] (s.core c).tt.slots k = [] then none else some k) ∧ y.slots = (s.core c).tt.slots ∧
        y.last = BitVec.ofNat 2 k ∧ y.start = s.ticks ∧ y.done = 0 ∧ y.lost = false ∧ y.under = false ∧ y.flg = 0) ∧
      (∀ c, ¬ starts ∨ c ∉ coresIn s d ∨ (s.core c).tt.armed = none → (t.core c).tt = (s.core c).tt) ∧
      (∀ m ∈ (s.dom d).members, (s.ctx m).status = .waiting .rendezvous → (s.ctx m).arrival ≠ none →
        (t.ctx m).status = .live ∧ (t.ctx m).arrival = none ∧ (t.ctx m).r = (s.ctx m).r) ∧
      ∀ b, b ∉ (s.dom d).members → t.ctx b = s.ctx b) ∧
  ∀ (p : Nat) (n : W32) (s : State), Completes (.fabricToken p n) s fun t =>
    (p, n) ∈ t.dev.tokens ∧ (∀ x, x ∈ t.dev.tokens ↔ x = (p, n) ∨ x ∈ s.dev.tokens) ∧ t.cores = s.cores ∧ t.mem = s.mem

/-- R265, R268, R269, R270, R273: on its cycle a send entry reads its words, which stand at the neighbour two cycles later; a forward entry
combines the words of its input with its own and sends them one cycle later, so that they stand there three cycles after its own; a receive
entry combines and writes the words that stand at its input, and a missing one sets UNDER; a sparse receive of one well-formed block writes
the words of its mask in ascending order and 0 elsewhere in the block; a lost word sets LOST; a Quekin flit fills its port's buffer, and a
link error sets ERR of the counters of its entries. A receive whose home is reserved waits (log 91). -/
def Obligations.TimetableEntriesMoveWords : Prop :=
  (∀ (c n : CoreId) (i cycle : Nat) (e : TtEntry) (s : State),
    let t0 := (s.core c).tt
    let k := SMap.read 0 t0.moved i
    let w := (List.range (min 8 (e.len - k))).map fun j => readWord s (wordLocs c e (k + j))
    quekinNow s c i 0 = none → entryNow s c i 0 = some (e, cycle) → k < e.len → neighbour c e.dout = some n → n.key ≠ c.key →
    (s.ctx ⟨c, 0⟩).mate = none → (s.ctx ⟨n, 0⟩).mate = none → (∀ x ∈ w, x.2 = false) →
    Completes (.ttSendEntry c i) s fun t => t.mem = s.mem ∧ SMap.read 0 (t.core c).tt.moved i = k + w.length ∧
      SMap.read [] (t.core n).tt.inputs (opposite e.dout) =
        SMap.read [] (s.core n).tt.inputs (opposite e.dout) ++ w.map (fun x => (cycle + 2, x.1, x.2)) ∧
      ∀ b, t.ctx b = s.ctx b) ∧
  (∀ (c : CoreId) (i cycle : Nat) (e : TtEntry) (s : State),
    let k := SMap.read 0 (s.core c).tt.moved i
    let n := min 8 (e.len - k)
    let w := (((SMap.read [] (s.core c).tt.inputs e.din).filter fun x => x.1 == cycle).take n).map (·.2)
    entryNow s c i 1 = some (e, cycle) → e.comb < 5 → k < e.len → s.phased ⟨c, 0⟩ = false → Memory.wf s.mem →
    Completes (.ttReceiveEntry c i) s fun t => SMap.read 0 (t.core c).tt.moved i = k + n ∧
      (w.length < n → (t.core c).tt.under = true) ∧
      (∀ j x, w[j]? = some x → s.poison = [] → x.2 = false →
        (readWord t (wordLocs c e (k + j))).1 = BitVec.ofNat 32 (combine e.comb (readWord s (wordLocs c e (k + j))).1 x.1).code) ∧
      (∀ m, (∀ j, j < w.length → m ∉ wordLocs c e (k + j)) → Memory.byte t.mem m = Memory.byte s.mem m) ∧
      (k + n = e.len → e.cen = true → (t.counter c e.ctr).count =
        if (s.counter c e.ctr).count = 0x7FFFFFFF#31 then 0x7FFFFFFF else (s.counter c e.ctr).count + 1)) ∧
  (∀ (c n : CoreId) (i cycle : Nat) (e : TtEntry) (s : State),
    let k := SMap.read 0 (s.core c).tt.moved i
    let w := (((SMap.read [] (s.core c).tt.inputs e.din).filter fun x => x.1 == cycle).take (min 8 (e.len - k))).map (·.2)
    let out (x : (W32 × Bool) × Nat) : W32 :=
      if e.comb = 0 then x.1.1 else BitVec.ofNat 32 (combine e.comb x.1.1 (readWord s (wordLocs c e (k + x.2))).1).code
    entryNow s c i 2 = some (e, cycle) → (e.comb ≠ 0 → ∀ j, j < w.length → (readWord s (wordLocs c e (k + j))).2 = false) → k < e.len →
    w.length = min 8 (e.len - k) → neighbour c e.dout = some n → n.key ≠ c.key → (s.ctx ⟨c, 0⟩).mate = none → (s.ctx ⟨n, 0⟩).mate = none →
    Completes (.ttForwardEntry c i) s fun t => t.mem = s.mem ∧ SMap.read 0 (t.core c).tt.moved i = k + w.length ∧
      SMap.read [] (t.core n).tt.inputs (opposite e.dout) =
        SMap.read [] (s.core n).tt.inputs (opposite e.dout) ++ w.zipIdx.map (fun x => (cycle + 3, out x, x.1.2))) ∧
  (∀ (c : CoreId) (i cycle : Nat) (e : TtEntry) (s : State) (lo hi : W32) (vals : List W32),
    let k := SMap.read 0 (s.core c).tt.moved i
    let n := e.len - k
    let w := (((SMap.read [] (s.core c).tt.inputs e.din).filter fun x => x.1 == cycle).take n).map (·.2)
    let mask := (List.range 64).filter fun b => bitOf (lo.toNat + 2 ^ 32 * hi.toNat) b
    entryNow s c i 1 = some (e, cycle) → e.comb = 5 → k < e.len → n ≤ 8 → w.length = n → (∀ x ∈ w, x.2 = false) →
    SMap.read [] (s.core c).tt.stream i ++ w = (lo :: hi :: vals).map (fun x => (x, false)) → mask.length = vals.length → vals.length ≤ 32 →
    e.addr + 256 ≤ e.window → s.phased ⟨c, 0⟩ = false → Memory.wf s.mem →
    Completes (.ttReceiveEntry c i) s fun t =>
      (∀ j, j < 64 → (readWord t (wordLocs c e j)).1 = match mask.findIdx? (· == j) with | some p => vals.getD p 0 | none => 0) ∧
      (∀ m, (∀ j, j < 64 → m ∉ wordLocs c e j) → Memory.byte t.mem m = Memory.byte s.mem m) ∧ i ∈ (t.core c).tt.finished) ∧
  (∀ (c : CoreId) (dir : Nat) (s : State) (x : Nat × W32 × Bool) (rest : List (Nat × W32 × Bool)), lostAt s c dir = x :: rest →
    Completes (.ttLostWord c dir) s fun t => t.mem = s.mem ∧ (t.core c).tt.lost = true ∧
      SMap.read [] (t.core c).tt.inputs dir = (SMap.read [] (s.core c).tt.inputs dir).erase x ∧
      ∀ e ∈ runningEntries (s.core c).tt, e.kind = 1 → e.cen = true → (t.counter c e.ctr).err = true) ∧
  (∀ (p q r : Nat) (w : List W32) (s : State),
    let flits := (s.quekin.filter fun x => x.1 == p).length
    (256 ≤ flits → Completes (.quekinFlit p q r w) s fun t => t = s) ∧
    (flits < 256 → w ≠ [] → Completes (.quekinFlit p q r w) s fun t => t = { s with quekin := s.quekin ++ [(p, q, r, w)] })) ∧
  ∀ (p : Nat) (s : State), Completes (.quekinLinkError p) s fun t => t.mem = s.mem ∧ (∀ b, t.ctx b = s.ctx b) ∧
    ∀ x ∈ s.cores, ∀ e i, (runningEntries (s.core (coreOfKey x.1)).tt)[i]? = some e → e.qport = p → 5 ∈ e.dirs → e.cen = true →
      i ∉ (s.core (coreOfKey x.1)).tt.finished → (t.counter (coreOfKey x.1) e.ctr).err = true

/-- R92, R315, R316, R317, R330: what firmware does to a context of a core it serves, and the RESULT its CTX.ACT register shows; a target it does
not serve is left alone, with RESULT 2, and a malformed one with RESULT 3. A context that runs on takes the members of its fused gang with it, and
those that its error stopped with 0x1A. STATUS 0x24 for a KILL of a context that an uncorrectable error stopped in a card that cannot roll back is
log 26; the stops that a RESUME refuses with RESULT 1 are log 50. -/
def Obligations.FirmwareActsOnContexts : Prop :=
  ∀ (fw : CoreId) (w : W32) (s : State),
    let a := actTarget w
    let c := s.ctx a
    let result (r : Nat) (t : State) : Prop := (t.core fw).ctxRes = BitVec.ofNat 2 r
    let same (t : State) : Prop := ∀ b, t.ctx b = s.ctx b
    let stoppedWith (b : CtxId) : Prop := ∃ g, c.gang = some g ∧ b ∈ (s.gangOf g).members ∧ (s.ctx b).status = .stopped ∧
      (s.ctx b).r.code = 0x1A ∧ (s.ctx b).r.info.toNat = c.gpos
    let runs (t : State) (r : RegState) : Prop :=
      t.ctx a = { c with r := r, status := .live, chunk := { Chunk.empty with ckpt := r }, link := (t.ctx a).link } ∧
      ∀ b, b ≠ a →
        let x := s.ctx b
        let x := if b ∈ s.lockstep a then { x with r := { x.r with pc := r.pc } } else x
        (stoppedWith b → t.ctx b = { x with status := .live }) ∧ (¬ stoppedWith b → t.ctx b = x)
    (bits w.toNat 0 12 ≠ 0 ∨ 8 < bits w.toNat 12 4 →
      ∀ i ∈ [Instr.ctxResume fw w, .ctxDeliver fw w, .ctxKill fw w, .ctxUnpark fw w, .ctxRollback fw w, .ctxPreempt fw w],
        Completes i s fun t => result 3 t ∧ same t ∧ t.mem = s.mem ∧ t.agenda = s.agenda) ∧
    (bits w.toNat 0 12 = 0 → bits w.toNat 12 4 ≤ 8 →
    ((targetExists w.toNat (bits w.toNat 12 4) a.core && serves fw a.core) = false →
      ∀ i ∈ [Instr.ctxResume fw w, .ctxDeliver fw w, .ctxKill fw w, .ctxUnpark fw w, .ctxRollback fw w, .ctxPreempt fw w],
        Completes i s fun t => result 2 t ∧ same t ∧ t.mem = s.mem ∧ t.agenda = s.agenda) ∧
    (targetExists w.toNat (bits w.toNat 12 4) a.core = true → serves fw a.core = true →
      let told := c.status = .stopped ∧ c.msgDue = false ∧ ctxHeld s a = false
      let alone := s.lockstep a = [a] ∨ ∀ m ∈ s.lockstep a, (s.ctx m).link = none
      (told → alone → c.r.code ∉ [0x02, 0x18, 0x1A] → Completes (.ctxResume fw w) s fun t =>
        result 0 t ∧ runs t { c.r with pc := c.r.epc } ∧ (t.ctx a).link = c.link) ∧
      (¬ told ∨ c.r.code ∈ [0x02, 0x18, 0x1A] → Completes (.ctxResume fw w) s fun t => result 1 t ∧ same t) ∧
      (¬ told → Completes (.ctxDeliver fw w) s fun t => result 1 t ∧ same t) ∧
      (told → c.r.tvec = 0 ∨ c.r.active = true → Completes (.ctxDeliver fw w) s fun t => result 3 t ∧ same t) ∧
      (told → alone → c.r.tvec ≠ 0 → c.r.active = false → Completes (.ctxDeliver fw w) s fun t =>
        result 0 t ∧ runs t { c.r with active := true, pc := c.r.tvec } ∧ (t.ctx a).link = none) ∧
      (c.card = none ∨ c.status = .free ∨ c.status = .ended → ∀ i ∈ [Instr.ctxKill fw w, .ctxPreempt fw w],
        Completes i s fun t => result 1 t ∧ same t ∧ t.agenda = s.agenda) ∧
      (∀ n, c.card = some n → c.status ≠ .free → c.status ≠ .ended → (s.card n).killed = false → (s.card n).done = false →
        Completes (.ctxPreempt fw w) s (fun t => result 0 t ∧ same t ∧ .preemption n ∈ t.agenda) ∧
        Completes (.ctxKill fw w) s fun t => result 0 t ∧
          Killed s n (if c.status = .stopped ∧ c.r.code = 0x17 ∧ s.phased a = false then 0x24 else 0x25) t) ∧
      ((s.core a.core).parked ≠ none → Completes (.ctxUnpark fw w) s fun t => result 0 t ∧ same t ∧ (t.core a.core).parked = none) ∧
      ((s.core a.core).parked = none → Completes (.ctxUnpark fw w) s fun t => result 1 t ∧ same t ∧ t.mem = s.mem) ∧
      ∀ n, c.card = some n →
        (c.status ≠ .free → s.phased a = false → Completes (.ctxRollback fw w) s fun t => result 3 t ∧ same t) ∧
        (c.status ≠ .free → c.status ≠ .ended → (s.card n).begun = true → (s.card n).killed = false → (s.card n).done = false →
          s.phased a = true → (s.dom c.dom).saved ≠ [] → ∃ u, exec (.rollback c.dom) s = .next u ∧
            Completes (.ctxRollback fw w) s fun t => result 0 t ∧ t.mem = u.mem ∧ ∀ b, t.ctx b = u.ctx b) ∧
        (c.status = .ended → (∀ b ∈ s.ctxsOf n, (s.ctx b).status = .ended) → (∀ x ∈ s.areas, x.card ≠ n) → (s.card n).dup = false →
          (s.card n).recCount ≤ (s.card n).next → (∀ x ∈ (s.card n).sections, x.2 = true) → s.phased a = true →
            Completes (.ctxRollback fw w) s fun t => result 1 t ∧ same t)))

/-- R334, R336, R338, R343, R344: a bind fills the lowest free slot, or reuses the slot of its measurement; a quote is written; each ends with
its CODE. A commit that verifies raises the recorded counter and is acknowledged; the last acknowledgement ends the seal. An address that the
boot core's TLB does not hold gives CODE 0x01 with nothing written (log 45); ML-DSA-44's signatures are free values (log 85). -/
def Obligations.BindQuoteAndCommitAct : Prop :=
  (∀ (s : State) (d : List Dword) (h r : List Byte), running s 3 = true → ckptDesc s = some d →
    let va := BitVec.ofNat 64 (bits (d.getD 0 0).toNat 0 52)
    let bound := fun i => SMap.has s.dev.tenants i
    (descOk 3 d = false → Completes .ckptBind s (Ended s 0x01)) ∧
    (descOk 3 d = true → ckptRead s va 8 = some h → policyOk h = false → Completes .ckptBind s (Ended s 0x12)) ∧
    (descOk 3 d = true → ckptRead s va 8 = some h → policyOk h = true → ckptRead s va (40 + 32 * (h.getD 6 0).toNat) = some r →
      (slotWith s (sha3 r) ≠ none → Completes .ckptBind s (Ended s 0)) ∧
      (slotWith s (sha3 r) = none → ∀ i, i < 64 → bound i = false → (∀ j, j < i → bound j = true) → Completes .ckptBind s
        (Ended { s with dev := { s.dev with tenants := SMap.put s.dev.tenants i ⟨sha3 r, r, 0⟩ } } 0)) ∧
      (slotWith s (sha3 r) = none → (∀ i, i < 64 → bound i = true) → Completes .ckptBind s (Ended s 0x12)))) ∧
  (∀ (s : State) (d : List Dword), running s 4 = true → ckptDesc s = some d →
    (slotOf s (bits (d.getD 2 0).toNat 0 6) = none → Completes .ckptQuote s (Ended s 0x01)) ∧
    ∀ tn nonce, descOk 4 d = true → slotOf s (bits (d.getD 2 0).toNat 0 6) = some tn → ckptRead s (d.getD 7 0) 32 = some nonce →
      Memory.wf s.mem →
      let devid := numW 8 Config.devId.toNat
      let fwm := sha3 (Config.firmware s.dev.fw)
      let ek := kemPublic (kmac256 Config.dss.toList fwm 512 (nameBytes "ZV7 kem"))
      let akpub := Config.akPub.toList
      let signed := [0x5A, 0x56, 0x51, 0x54] ++ numW 2 1 ++ numW 2 0 ++ devid ++ fwm ++ tn.tm ++ numW 8 tn.ctr.toNat ++ nonce ++ ek
      let q := signed ++ akpub ++ (Config.vendorSign (devid ++ akpub)).toList ++ (Config.dsaSign signed).toList
      let at' := (span (BitVec.ofNat 64 (bits (d.getD 0 0).toNat 0 52)) q.length).mapM (ckptReach s 1)
      (at' = none → Completes .ckptQuote s (Ended s 0x01)) ∧
      ∀ locs, at' = some locs → Completes .ckptQuote s fun t => (∀ n, Memory.byte t.mem n = byteAfter s.mem (locs.zip q) n) ∧
        t.dev = { s.dev with ckptStat := BitVec.ofNat 64 (2 ^ 30 + s.dev.ckptStat.toNat % 256), ckptNeed := 0 } ∧
        ∀ b, (t.ctx b).r = (s.ctx b).r) ∧
  (∀ (tm : List Byte) (n : Dword) (signed sig pub cert : List Byte) (s : State),
    (slotWith s tm = none → Completes (.ckptCommitMessage tm n signed sig pub cert) s fun t => t = s) ∧
    ∀ i, slotWith s tm = some i → Completes (.ckptCommitMessage tm n signed sig pub cert) s fun t =>
      let src := (signed.drop 72).take 8
      let good := signed.length = 80 ∧ signed.take 40 = tm ++ numW 8 n.toNat ∧
        sigOk Config.vendorRoot.toList (src ++ pub) cert = true ∧ sigOk pub signed sig = true
      (¬ good → t = s) ∧
      (good → slotOf t i = some { SMap.read Tenant.none s.dev.tenants i with
          ctr := BitVec.ofNat 64 (max (SMap.read Tenant.none s.dev.tenants i).ctr.toNat n.toNat) } ∧
        (∀ j, j ≠ i → slotOf t j = slotOf s j) ∧ t.out = s.out ++ [.acknowledge (leNat src) n.toNat] ∧ t.mem = s.mem)) ∧
  (∀ (e : Nat) (s : State), e < 4 → bitOf s.dev.ckptNeed (4 + e) = true →
    let stat := BitVec.ofNat 64 (s.dev.ckptStat.toNat + 2 ^ (4 + e))
    let need := s.dev.ckptNeed - 2 ^ (4 + e)
    Completes (.commitAcknowledgement e) s fun t =>
      (need ≠ 0 → t = { s with dev := { s.dev with ckptStat := stat, ckptNeed := need } }) ∧
      (need = 0 → Ended { s with dev := { s.dev with ckptStat := stat } } 0 t)) ∧
  (∀ (s : State), s.dev.ckptNeed ≠ 0 → Completes .ckptAckTimeout s (Ended s 0x13)) ∧
  ∀ (s : State), ckptDesc s = none → ∀ x ∈ [(Instr.ckptSeal, 1), (.ckptRestore, 2), (.ckptBind, 3), (.ckptQuote, 4)],
    running s x.2 = true → liveCards s = [] → Completes x.1 s (Ended s 0x01)

/-- R339, R342, R343: a seal waits for its pre-emptions, refuses a full counter and a bad quote by CODE, and else writes its image to the safe
tier, sets CTR and sends its commits; of memory only the pool of save areas is written, which brings the saves into the image (log 95). R344: a
restore applies its checks in order, each with its CODE and before a byte is written; a read that fails ends it with 0x09 and a tag that fails
with 0x0F; else every segment is back in its unit, the lines its table lists are poisoned, and the saved cards of its pool are back and go on. The
order of a seal's checks is log 46, the bytes that are counted log 47, the refusal with 0x11 while a save area stands log 48; where the safe tier
fails is a free value (log 6). -/
def Obligations.SealsAndRestoresMoveImages : Prop :=
  (∀ (s : State) (d : List Dword) (tn : Tenant) (nonce : List Byte) (qs : List (Nat × List Byte)), running s 1 = true →
     (liveCards s ≠ [] → Completes .ckptSeal s fun t =>
       t = { s with agenda := t.agenda } ∧ ∀ n ∈ liveCards s, .preemption n ∈ t.agenda) ∧
     (liveCards s = [] → ckptDesc s = some d →
       let self := bitOf (d.getD 2 0).toNat 8
       let halt := bitOf (d.getD 2 0).toNat 7
       let slot := bits (d.getD 2 0).toNat 0 6
       let asked := (List.range 4).filter fun i => d.getD (3 + i) 0 != 0 && !(self && i == 0)
       let held (s : State) : State := { s with areas := s.areas.map fun x => { x with held := halt } }
       let kept : State := held s
       let w := writeSaves s
       let base := bits (d.getD 0 0).toNat 52 12 * 2 ^ 52 + bits (d.getD 0 0).toNat 0 52
       let nenv := (if self then 1 else 0) + qs.length
       let segs := memorySegs s
       let chunks := (segs.map fun g => chunksOf g.len).sum + chunksOf (deviceBytes w).length
       let bytes := (segs.map (·.len)).sum + (deviceBytes w).length
       let head := headBytes nenv (segs.length + 1) (segPoison w segs).length chunks
       (slotOf s slot = none → Completes .ckptSeal s (Ended kept 0x01)) ∧
       (descOk 1 d = true → (self = true ∨ asked ≠ []) → slotOf s slot = some tn → ckptRead s (d.getD 7 0) 32 = some nonce →
         asked.mapM (fun i => (ckptRead s (d.getD (3 + i) 0) 7456).map fun q => (i, q)) = some qs →
         (tn.ctr = 0xFFFFFFFFFFFFFFFF → Completes .ckptSeal s (Ended kept 0x07)) ∧
         (tn.ctr ≠ 0xFFFFFFFFFFFFFFFF → Memory.wf s.tier → Memory.wf s.mem → Completes .ckptSeal s fun t =>
           match (qs.map fun q => quoteCode tn nonce q.2).find? (· != 0) with
           | some code => Ended kept code t
           | none =>
             (∀ n, Memory.byte t.mem n = byteAfter s.mem (dwordBytes savePool (saveWords s)) n) ∧ (∀ b, (t.ctx b).r = (s.ctx b).r) ∧
             if (d.getD 1 0).toNat < head + bytes then Ended (held w) 0x08 t
             else match Config.tierStop s.free with
             | some n =>
               Ended { held w with free := t.free, tier := t.tier, dies := t.dies, dev := { s.dev with ckptProg := t.dev.ckptProg } } 0x09 t ∧
                 t.dev.ckptProg = BitVec.ofNat 64 (min bytes (n - head))
             | none =>
               Memory.getBytes t.tier base (32 + tn.tm.length) = [0x5A, 0x56, 0x43, 0x4B] ++ numW 2 1 ++ numW 2 nenv ++ numW 8 Config.devId.toNat
                 ++ tn.tm ++ numW 8 (tn.ctr.toNat + 1) ++ numW 8 (defectSig s).toNat ∧
               slotOf t slot = some { tn with ctr := tn.ctr + 1 } ∧
               t.areas = (if qs = [] then kept.areas.map fun x => { x with timeless := true } else kept.areas) ∧
               t.dev.ckptProg = BitVec.ofNat 64 bytes ∧
               (∃ l, t.out = s.out ++ l ∧ l.length = qs.length) ∧
               (bits s.dev.ckptStat.toNat 4 4 = 0 → bitOf t.dev.ckptStat.toNat 4 = self ∧
                 (qs = [] → bits t.dev.ckptStat.toNat 16 16 = 0x4000) ∧
                 (qs ≠ [] → bitOf t.dev.ckptStat.toNat 31 = true ∧
                   ∀ e, e < 4 → bitOf t.dev.ckptNeed (4 + e) = decide ((if self then 1 else 0) ≤ e ∧ e < nenv))))))) ∧
  (∀ (s : State) (d : List Dword) (i : ImageHead), running s 2 = true → ckptDesc s = some d →
     let base := bits (d.getD 0 0).toNat 52 12 * 2 ^ 52 + bits (d.getD 0 0).toNat 0 52
     let drawn : State := { s with free := s.free + 1 }
     let reads (n : Nat) : Prop := ∀ k, Config.tierStop s.free = some k → n ≤ k
     (descOk 2 d = false → Completes .ckptRestore s (Ended drawn 0x01)) ∧
     (descOk 2 d = true → (liveCards s ≠ [] ∨ s.areas ≠ []) → Completes .ckptRestore s (Ended drawn 0x11)) ∧
     (descOk 2 d = true → liveCards s = [] → s.areas = [] → ¬ reads (frontBytes s base) → Completes .ckptRestore s (Ended drawn 0x09)) ∧
     (descOk 2 d = true → liveCards s = [] → s.areas = [] → reads (frontBytes s base) → readHead s base = none →
       Completes .ckptRestore s (Ended drawn 0x0A)) ∧
     (descOk 2 d = true → liveCards s = [] → s.areas = [] → reads (frontBytes s base) → readHead s base = some i →
       Completes .ckptRestore s fun t => match openEnvelope s base i, slotWith s i.tm with
       | none, _ => Ended drawn 0x0B t
       | some _, none => Ended drawn 0x0C t
       | some k, some slot =>
         let r := (SMap.read Tenant.none s.dev.tenants slot).ctr.toNat
         let x := openChunks s k i.h i.tags 0 i.body (i.rows.flatMap fun r => chunkLens r.len)
         if i.counter < r then Ended drawn 0x0D t
         else if r < i.counter then Ended drawn 0x0E t
         else if i.rows.any (rowGone s) = true then Ended drawn 0x10 t
         else if ∃ n, Config.tierStop s.free = some n ∧ i.body - base ≤ n ∧ n < i.body - base + bytesRead i x.1.length then
           bits t.dev.ckptStat.toNat 16 16 = 0x4009
         else if x.2 = false then bits t.dev.ckptStat.toNat 16 16 = 0x400F
         else bits t.dev.ckptStat.toNat 16 16 = 0x4000 ∧ .dealingRound 0 ∈ t.agenda ∧ (∀ l ∈ i.pois, l ∈ t.poison) ∧
           (∀ v, readSaves t = some v → t.areas = v.areas.map (fun y => { y with held := false, timeless := true }) ∧ t.cards = v.cards ∧
             t.doms = v.doms ∧ t.gangs = v.gangs) ∧
           (i.sig ≠ (defectSig t).toNat → .variantReselection ∈ t.agenda) ∧
           (Memory.wf s.mem → x.1.map List.length = i.rows.flatMap (fun r => chunkLens r.len) → ∀ r ∈ i.rows, r.kind ≠ 5 → ∀ n < r.len,
             (∀ q ∈ i.rows, q ≠ r → q.kind ≠ 5 → r.loc + n < q.loc ∨ q.loc + q.len ≤ r.loc + n) →
             Memory.byte t.mem (r.loc + n) = ((x.1.getD (r.first + n / mib) []).getD (n % mib) 0))))

/-- R346, R347, R354: device time is slewed, stepped or frozen by an offset and held without a master; a telemetry record states the closing
boundary's values; a read of TEL.ENERGY latches its stamp. R350, R351: an interval boundary sets G, THR and FLR, and each base die refills
its pool and walks its clusters' requests; the 256th closes a telemetry record. -/
def Obligations.TimeAndPowerAreGoverned : Prop :=
  ((∀ (time : Dword) (dom : Byte) (s : State),
     let off : Int := (time.toNat : Int) - s.dev.devTime.toNat
     let d := { s.dev with ptpStat := BitVec.ofNat 32 (2 ^ 30 + dom.toNat) }
     (off.natAbs < 1000000 → Completes (.ptpMessage time dom) s fun t => t = { s with dev := { d with slew := off, freeze := 0 } }) ∧
     (1000000 ≤ off → Completes (.ptpMessage time dom) s fun t =>
       t = { s with dev := { d with slew := 0, freeze := 0, devTime := time } }) ∧
     (off ≤ -1000000 → Completes (.ptpMessage time dom) s fun t =>
       t = { s with dev := { d with slew := 0, freeze := off.natAbs } })) ∧
   (∀ (s : State),
     (bits s.dev.ptpStat.toNat 30 2 = 1 → Completes .holdoverEntry s fun t =>
       bits t.dev.ptpStat.toNat 30 2 = 2 ∧ t = { s with dev := { s.dev with ptpStat := t.dev.ptpStat, slew := 0, freeze := 0 } }) ∧
     (bits s.dev.ptpStat.toNat 30 2 ≠ 1 → Completes .holdoverEntry s fun t => t = s) ∧
     (s.dev.telRecord = none → Completes .telemetryRecord s fun t => t = s) ∧
     ∀ r, s.dev.telRecord = some r → Completes .telemetryRecord s fun t => t = { s with
       dev := { s.dev with telRecord := none }, out := s.out ++ if bitOf s.dev.ready.toNat 29 then [.record r] else [] }) ∧
   ∀ (core : CoreId) (ctx : Nat) (s : State), Completes (.telEnergyRead core ctx) s fun t =>
     t.ctx ⟨core, ctx⟩ = { s.ctx ⟨core, ctx⟩ with r := { (s.ctx ⟨core, ctx⟩).r with telStamp := s.dev.energyStamp } } ∧
     (∀ b, b ≠ ⟨core, ctx⟩ → t.ctx b = s.ctx b) ∧ t = { s with cores := t.cores }) ∧
  (∀ (meas demand energy : Nat) (s : State),
     let step := bits s.dev.pwrCfg.toNat 0 16 * 4096
     let g := if s.dev.intervals = 0 then meas * 1000000
       else min (bits s.dev.pwrCfg.toNat 48 16 * 1000000) (max (bits s.dev.pwrCfg.toNat 32 16 * 1000000)
         (min (max demand (s.dev.gov - step)) (s.dev.gov + step)))
     Completes (.intervalBoundary meas demand energy) s fun t =>
       t.dev = { s.dev with
         gov := g, meas := meas, thr := decide (g < demand), flr := decide (demand < g)
         telEnergy := s.dev.telEnergy + BitVec.ofNat 64 energy, energyStamp := (tickTime s).dev.devTime, intervals := s.dev.intervals + 1
         telRecord := t.dev.telRecord } ∧
       (∀ b, t.ctx b = s.ctx b) ∧ t.mem = s.mem ∧
       ((s.dev.intervals + 1) % 256 = 0 → .telemetry ∈ t.agenda ∧ t.dev.telRecord = some (telemetryRecord t)) ∧
       ((s.dev.intervals + 1) % 256 ≠ 0 → t.dev.telRecord = s.dev.telRecord) ∧
       ∀ d < 8,
         let cl (c : Nat) : Cluster := s.cluster (d * 36 + c)
         let idle := if (∀ c < 36, (cl c).boostCur = 0) then (s.die d).idle + 1 else (s.die d).idle
         let refill := (∀ c < 36, (cl c).boostCur = 0) ∧ idle = 8
         let w := boostWalk (decide (g < demand))
           (fun c => if (cl c).gate = .on ∧ clusterHeld s (d * 36 + c) = true then (cl c).boostReq.toNat else 0)
           (fun c => (cl c).boostCur.toNat) (fun c => (cl c).boostFall != 0)
           ((List.range 36).map fun i => ((s.die d).rr + i) % 36) (if refill then min ((s.die d).pool + 1) 64 else (s.die d).pool)
         (t.die d).idle = (if refill then 0 else idle) ∧ (t.die d).pool = w.2 ∧ (t.die d).rr = ((s.die d).rr + 1) % 36 ∧
         ∀ x ∈ w.1, (t.cluster (d * 36 + x.1)).boostCur = BitVec.ofNat 2 x.2.1 ∧
           (t.cluster (d * 36 + x.1)).boostFall = if x.2.2 then 1 else 0)

/-- R355, R356, R358: a command that fits the selected cluster's state moves it on, and one that does not sets ERR; a WAKE acts as its table
says; each step that ends moves the cluster to its next state. That every WAKE to ON clears the event counters with the TLBs is log 40; that CMD 4
during a restart from CLKOFF sets ERR is log 36. -/
def Obligations.ClusterGatingWalksItsStates : Prop :=
  (∀ (s : State) (i : Instr), selCluster s = none → i ∈ [Instr.clQuiesce, .clSave, .clClkoff, .clRailoff, .clWake] →
    Completes i s fun t => t = { s with dev := { s.dev with clErr := 1 } }) ∧
  (∀ (s : State) (cl : Nat), selCluster s = some cl →
    let k := s.cluster cl
    let refused (i : Instr) := Completes i s fun t => t = { s with dev := { s.dev with clErr := 1 } }
    let moves (i : Instr) (g : Gate) (due : List Due) := Completes i s (Gated s cl { k with gate := g } due)
    (if k.gate = .on then moves .clQuiesce .quiescing [.quiesceDone cl] else refused .clQuiesce) ∧
    (if k.gate = .quiesced then Completes .clSave s (Gated s cl { k with
        gate := .saving
        retained := ((List.range 16).map fun i => (⟨.l0, cl * 16 + i⟩, s.core ⟨.l0, cl * 16 + i⟩)) ++
          [(⟨.service, cl⟩, s.core ⟨.service, cl⟩)] } [.saveDone cl]) else refused .clSave) ∧
    (if k.gate = .saved then moves .clClkoff .clkStopping [.clockStopped cl] else refused .clClkoff) ∧
    (if k.gate = .clkStopping ∨ k.gate = .clkOff then moves .clRailoff .railStopping [.railOff cl] else refused .clRailoff) ∧
    match k.gate with
    | .on | .restarting => Completes .clWake s fun t => t = s
    | .quiescing | .quiesced | .saved => Completes .clWake s (SwitchedOn s cl)
    | .clkStopping | .clkOff => moves .clWake .restarting [.clockRestart cl]
    | .railOff => moves .clWake .waking [.wakeDone cl]
    | .saving | .railStopping | .waking => Completes .clWake s (Gated s cl { k with wakeLatched := true } [])) ∧
  (∀ (s : State) (cl : Nat),
    let k := s.cluster cl
    let moves (i : Instr) (g : Gate) := Completes i s (Gated s cl { k with gate := g } [])
    (k.gate = .quiescing → quiet s cl = true → moves (.quiesceDone cl) .quiesced) ∧
    (k.gate = .quiescing → quiet s cl = false → Completes (.quiesceDone cl) s fun t => t = s) ∧
    (k.gate = .saving → k.wakeLatched = false → moves (.saveDone cl) .saved) ∧
    (k.gate = .saving → k.wakeLatched = true → Completes (.saveDone cl) s (SwitchedOn s cl)) ∧
    (k.gate = .clkStopping → moves (.clockStopped cl) .clkOff) ∧
    (k.gate = .railStopping → k.wakeLatched = false → moves (.railOff cl) .railOff) ∧
    (k.gate = .railStopping → k.wakeLatched = true → Completes (.railOff cl) s
      (Gated s cl { k with gate := .waking, wakeLatched := false } [.wakeDone cl])) ∧
    (k.gate = .restarting → Completes (.clockRestart cl) s (SwitchedOn s cl)) ∧
    (cl < 288 → k.gate = .waking → k.retained.map (·.1) = coresOf cl → Memory.wf s.mem → Completes (.wakeDone cl) s fun t =>
      t.cluster cl = { k with gate := .on, wakeLatched := false, retained := [], evc := [] } ∧
      (∀ x ∈ k.retained, x.1.kind = .service → t.core x.1 = { x.2 with icache := [], fetchLine := none }) ∧
      (∀ x ∈ k.retained, x.1.kind = .l0 → (t.core x.1).ctxs = [] ∧ (t.core x.1).tlb.slots = [] ∧ (t.core x.1).mxSlots = x.2.mxSlots ∧
        (t.core x.1).mxSlotLen = x.2.mxSlotLen ∧ (t.core x.1).stackLog = x.2.stackLog) ∧
      (∀ c, c ∉ coresOf cl → t.core c = s.core c) ∧
      ∀ n, Memory.byte t.mem n = if (∃ c ∈ coresOf cl, tcmLoc c 0 ≤ n ∧ n < tcmLoc c 0 + 2 ^ 32) ∨
        (spLoc cl 0 ≤ n ∧ n < spLoc cl 0 + 2 ^ 32) then 0 else Memory.byte s.mem n))

/-- R34, R334, R372, R373: a reset leaves only the boot core running and no function ready, with the tenant slots and the defect map kept; a
function that becomes ready after those it waits for sets its bit once, its memories zeroed, and what waited for it is tried again. What a reset
keeps is log 37, and that the boot core loads its firmware anew log 85; that the host function sets QTAB.BASE and the boot queues' descriptors is
logs 5 and 75, the service core's start at pc 0 log 38, its cluster's L0DIE bit log 44, and the fault noSuchUnit log 60: the model's choices. -/
def Obligations.ResetAndReadinessSetTheirBits : Prop :=
  (∀ (s : State), (∀ x ∈ s.cores, x.1 = CoreId.key ⟨.boot, 0⟩ → x.2.fenced = false) → Memory.wf s.mem →
    Completes .deviceReset s fun t => t.core ⟨.boot, 0⟩ = Core.bootReset ∧ t.cur = ⟨.boot, 0⟩ ∧
      (∀ b, b.core ≠ ⟨.boot, 0⟩ → t.ctx b = Ctx.reset) ∧ t.cards = [] ∧ t.queues = [] ∧
      t.dev = { Dev.reset with
        tenants := s.dev.tenants, defects := s.dev.defects, spares := s.dev.spares, laneSpares := s.dev.laneSpares, fw := s.dev.fw + 1 } ∧
      ((s.dies.map Prod.fst).Nodup → ∀ d, (t.die d).spare = (s.die d).spare) ∧
      ∀ n, Memory.byte t.mem n = if isHost n then Memory.byte s.mem n else 0) ∧
  ∀ (s : State), Memory.wf s.mem →
    let again (f : Function) (b : Nat) := isReady s b = true → Completes (.functionReady f) s fun t => t = s
    let up (f : Function) (b : Nat) (z : Nat → Prop) := isReady s b = false → Completes (.functionReady f) s (BroughtUp s b z)
    let absent (f : Function) := exec (.functionReady f) s = .fault .noSuchUnit
    let none (_ : Nat) : Prop := False
    (∀ k, if k < 8 then again (.hbm k) k ∧ up (.hbm k) k (fun n => k * (80 * 2 ^ 30) ≤ n ∧ n < (k + 1) * (80 * 2 ^ 30)) else absent (.hbm k)) ∧
    (∀ d, if d < 9 then again (.sram d) (8 + d) ∧ up (.sram d) (8 + d) (fun n => sramLoc d 0 ≤ n ∧ n < sramLoc d 0 + sramSize d)
      else absent (.sram d)) ∧
    (∀ d, if d < 8 then again (.l0die d) (17 + d) ∧ (SMap.read (0 : Dword) s.dev.readyCl d ≠ 0 → up (.l0die d) (17 + d) none)
      else absent (.l0die d)) ∧
    (∀ l, if 1 ≤ l ∧ l ≤ 3 then again (.upper l) (24 + l) ∧
      ((if l = 3 then isReady s 16 = true else ∀ d, d < 8 → isReady s (8 + d) = true) → up (.upper l) (24 + l) fun n =>
        ∃ x ∈ s.cores, layerOf (coreOfKey x.1).kind = l ∧ isPriv (coreOfKey x.1).kind = false ∧
          tcmLoc (coreOfKey x.1) 0 ≤ n ∧ n < tcmLoc (coreOfKey x.1) 0 + 2 ^ 32) else absent (.upper l)) ∧
    (∀ q, again (.host q) 28 ∧ (isReady s 28 = false → Completes (.functionReady (.host q)) s fun t =>
      t.dev = { s.dev with ready := s.dev.ready ||| BitVec.ofNat 64 (2 ^ 28), qtabBase := q } ∧ (∀ b, Unmoved s t b) ∧
      let dw3 (l : Nat) : Nat := q + 64 * (4092 + l) + 24
      (∀ l < 4, Memory.byte t.mem (dw3 l) = (Memory.byte s.mem (dw3 l) &&& 0x37#8) ||| BitVec.ofNat 8 (64 * l + 8)) ∧
      (∀ n, (∀ l < 4, n ≠ dw3 l) → (∀ p ∈ s.queues, n ∉ descBytes t p.1) → Memory.byte t.mem n = Memory.byte s.mem n))) ∧
    again .mgmt 29 ∧ up .mgmt 29 none ∧ again .rot 30 ∧
    (bitOf s.dev.ckptStat.toNat 31 = false → up .rot 30 none) ∧
    (∀ p, if p < 36 then
        (bitOf s.dev.readyQl.toNat p = true → Completes (.functionReady (.quekin p)) s fun t => t = s) ∧
        (bitOf s.dev.readyQl.toNat p = false → Completes (.functionReady (.quekin p)) s fun t =>
          t.dev = { s.dev with readyQl := s.dev.readyQl ||| BitVec.ofNat 64 (2 ^ p) } ∧ Retried s none t ∧ ∀ b, Unmoved s t b)
      else absent (.quekin p)) ∧
    (∀ cl, if cl < 288 then
        let d := cl / 36
        bitOf (SMap.read (0 : Dword) s.dev.readyCl d).toNat (cl % 36) = false → isReady s (8 + d) = true → clusterLost s cl = false →
        Completes (.functionReady (.cluster cl)) s fun t =>
          SMap.read (0 : Dword) t.dev.readyCl d = SMap.read (0 : Dword) s.dev.readyCl d ||| BitVec.ofNat 64 (2 ^ (cl % 36)) ∧
          isReady t (17 + d) = true ∧ (t.ctx ⟨⟨.service, cl⟩, 0⟩).status = .live ∧ (t.ctx ⟨⟨.service, cl⟩, 0⟩).r.pc = 0 ∧
          (∀ b, b ≠ ⟨⟨.service, cl⟩, 0⟩ → Unmoved s t b) ∧
          Retried s (fun n => (∃ c ∈ coresOf cl, tcmLoc c 0 ≤ n ∧ n < tcmLoc c 0 + 2 ^ 32) ∨
            (spLoc cl 0 ≤ n ∧ n < spLoc cl 0 + 2 ^ 32)) t
      else absent (.cluster cl))
end

