-- ==== Sys2Proof/Laws/Memory.lean ====
section
/-! SUPPORT. Sparse tables and memory: a read after a write, and that every memory operation keeps the canonical form. -/

namespace Sys2Proof

@[simp] theorem SMap.read_put_self {α : Type} (d : α) (m : SMap α) (i : Nat) (x : α) :
    SMap.read d (SMap.put m i x) i = x := by
  induction m with
  | nil => simp [SMap.put, SMap.read]
  | cons e m ih =>
    simp only [SMap.put]
    split
    · simp [SMap.read]
    · split
      · simp [SMap.read]
      · rename_i h; simp [SMap.read, h, ih]

theorem SMap.read_put_other {α : Type} (d : α) (m : SMap α) {i j : Nat} (x : α) (h : j ≠ i) :
    SMap.read d (SMap.put m i x) j = SMap.read d m j := by
  induction m with
  | nil => simp [SMap.put, SMap.read, h]
  | cons e m ih =>
    simp only [SMap.put]
    split
    · simp [SMap.read, h]
    · split
      · rename_i h1; subst h1; simp [SMap.read, h]
      · simp [SMap.read, ih]

theorem SMap.read_put {α : Type} (d : α) (m : SMap α) (i j : Nat) (x : α) :
    SMap.read d (SMap.put m i x) j = if j = i then x else SMap.read d m j := by
  split
  · rename_i h; subst h; simp
  · exact SMap.read_put_other d m x ‹_›

theorem SMap.has_put_self {α : Type} (m : SMap α) (i : Nat) (x : α) : SMap.has (SMap.put m i x) i = true := by
  induction m with
  | nil => simp [SMap.put, SMap.has]
  | cons e m ih =>
    simp only [SMap.put]
    split
    · simp [SMap.has]
    · split
      · simp [SMap.has]
      · simp [SMap.has, ih]

theorem SMap.sortedFrom_mono {α : Type} {lo hi : Nat} (m : SMap α) (h : lo ≤ hi) :
    SMap.sortedFrom hi m = true → SMap.sortedFrom lo m = true := by
  cases m with
  | nil => simp [SMap.sortedFrom]
  | cons e m =>
    simp only [SMap.sortedFrom, Bool.and_eq_true, decide_eq_true_eq]
    exact fun hm => ⟨Nat.le_trans h hm.1, hm.2⟩

theorem SMap.sortedFrom_put {α : Type} (lo : Nat) (m : SMap α) (i : Nat) (x : α) (hi : lo ≤ i)
    (h : SMap.sortedFrom lo m = true) : SMap.sortedFrom lo (SMap.put m i x) = true := by
  induction m generalizing lo with
  | nil => simp [SMap.put, SMap.sortedFrom, hi]
  | cons e m ih =>
    simp only [SMap.sortedFrom, Bool.and_eq_true, decide_eq_true_eq] at h
    simp only [SMap.put]
    split
    · simp only [SMap.sortedFrom, Bool.and_eq_true, decide_eq_true_eq]; exact ⟨hi, by omega, h.2⟩
    · split
      · rename_i h1; subst h1; simp [SMap.sortedFrom, h.1, h.2]
      · simp only [SMap.sortedFrom, Bool.and_eq_true, decide_eq_true_eq]
        exact ⟨h.1, ih _ (by omega) h.2⟩

theorem SMap.sortedFrom_drop {α : Type} (lo : Nat) (m : SMap α) (i : Nat)
    (h : SMap.sortedFrom lo m = true) : SMap.sortedFrom lo (SMap.drop m i) = true := by
  induction m generalizing lo with
  | nil => simp [SMap.drop, SMap.sortedFrom]
  | cons e m ih =>
    simp only [SMap.sortedFrom, Bool.and_eq_true, decide_eq_true_eq] at h
    simp only [SMap.drop]
    split
    · exact SMap.sortedFrom_mono m (by omega) h.2
    · simp only [SMap.sortedFrom, Bool.and_eq_true, decide_eq_true_eq]; exact ⟨h.1, ih _ h.2⟩

theorem SMap.sortedFrom_filter {α : Type} (lo : Nat) (m : SMap α) (p : Nat × α → Bool)
    (h : SMap.sortedFrom lo m = true) : SMap.sortedFrom lo (m.filter p) = true := by
  induction m generalizing lo with
  | nil => simp [SMap.sortedFrom]
  | cons e m ih =>
    simp only [SMap.sortedFrom, Bool.and_eq_true, decide_eq_true_eq] at h
    simp only [List.filter_cons]
    split
    · simp only [SMap.sortedFrom, Bool.and_eq_true, decide_eq_true_eq]; exact ⟨h.1, ih _ h.2⟩
    · exact SMap.sortedFrom_mono _ (by omega) (ih _ h.2)

theorem SMap.mem_put {α : Type} (m : SMap α) (i : Nat) (x : α) (e : Nat × α) (h : e ∈ SMap.put m i x) :
    e = (i, x) ∨ e ∈ m := by
  induction m with
  | nil => simpa [SMap.put] using h
  | cons f m ih =>
    simp only [SMap.put] at h
    split at h
    · simpa using h
    · split at h
      · rcases List.mem_cons.1 h with h | h
        · exact .inl h
        · exact .inr (List.mem_cons_of_mem _ h)
      · rcases List.mem_cons.1 h with h | h
        · exact .inr (by simp [h])
        · rcases ih h with h | h
          · exact .inl h
          · exact .inr (List.mem_cons_of_mem _ h)

theorem SMap.mem_drop {α : Type} (m : SMap α) (i : Nat) (e : Nat × α) (h : e ∈ SMap.drop m i) : e ∈ m := by
  induction m with
  | nil => simp [SMap.drop] at h
  | cons f m ih =>
    simp only [SMap.drop] at h
    split at h
    · exact List.mem_cons_of_mem _ h
    · rcases List.mem_cons.1 h with h | h
      · simp [h]
      · exact List.mem_cons_of_mem _ (ih h)

theorem SMap.wf_iff {α : Type} [DecidableEq α] (d : α) (m : SMap α) :
    SMap.wf d m = true ↔ SMap.sortedFrom 0 m = true ∧ ∀ e ∈ m, e.2 ≠ d := by
  simp [SMap.wf, List.all_eq_true]

/-- Writing keeps the canonical form. -/
theorem SMap.wf_write {α : Type} [DecidableEq α] (d : α) (m : SMap α) (i : Nat) (x : α)
    (h : SMap.wf d m = true) : SMap.wf d (SMap.write d m i x) = true := by
  rw [SMap.wf_iff] at h ⊢
  unfold SMap.write
  split
  · exact ⟨SMap.sortedFrom_drop _ _ _ h.1, fun e he => h.2 e (SMap.mem_drop _ _ _ he)⟩
  · refine ⟨SMap.sortedFrom_put _ _ _ _ (Nat.zero_le _) h.1, fun e he => ?_⟩
    rcases SMap.mem_put _ _ _ _ he with rfl | he
    · assumption
    · exact h.2 e he

/-- Filtering keeps the canonical form. -/
theorem SMap.wf_filter {α : Type} [DecidableEq α] (d : α) (m : SMap α) (p : Nat × α → Bool)
    (h : SMap.wf d m = true) : SMap.wf d (m.filter p) = true := by
  rw [SMap.wf_iff] at h ⊢
  exact ⟨SMap.sortedFrom_filter _ _ _ h.1, fun e he => h.2 e (List.mem_filter.1 he).1⟩

theorem SMap.read_below {α : Type} (d : α) (m : SMap α) (lo i : Nat) (h : SMap.sortedFrom lo m = true) (hi : i < lo) :
    SMap.read d m i = d := by
  induction m generalizing lo with
  | nil => rfl
  | cons e m ih =>
    simp only [SMap.sortedFrom, Bool.and_eq_true, decide_eq_true_eq] at h
    simp only [SMap.read]
    rw [if_neg (by omega)]
    exact ih _ h.2 (by omega)

theorem SMap.read_drop {α : Type} (d : α) (m : SMap α) (i j : Nat) (lo : Nat) (h : SMap.sortedFrom lo m = true) :
    SMap.read d (SMap.drop m i) j = if j = i then d else SMap.read d m j := by
  induction m generalizing lo with
  | nil => simp [SMap.drop, SMap.read]
  | cons e m ih =>
    simp only [SMap.sortedFrom, Bool.and_eq_true, decide_eq_true_eq] at h
    simp only [SMap.drop]
    split
    · rename_i h1; subst h1
      split
      · rename_i h2; subst h2; exact SMap.read_below d m _ _ h.2 (by omega)
      · rename_i h2; simp [SMap.read, h2]
    · rename_i h1
      simp only [SMap.read, ih _ h.2]
      split
      · rename_i h2; subst h2; rw [if_neg]; omega
      · rfl

/-- A byte read after a byte written: that byte at its place, and every other byte as before. -/
theorem Memory.byte_setByte (m : Memory) (a b : Nat) (x : Byte) (h : Memory.wf m) :
    Memory.byte (Memory.setByte m a x) b = if b = a then x else Memory.byte m b := by
  have hs := ((SMap.wf_iff (α := Byte) 0 m).1 h).1
  unfold Memory.byte Memory.setByte SMap.write
  split
  · rename_i hx; subst hx; exact SMap.read_drop (α := Byte) 0 m a b 0 hs
  · exact SMap.read_put (α := Byte) 0 m a b x

theorem Memory.wf_nil : Memory.wf [] := by decide

theorem Memory.wf_setByte (m : Memory) (a : Nat) (b : Byte) (h : Memory.wf m) : Memory.wf (Memory.setByte m a b) :=
  SMap.wf_write (α := Byte) 0 m a b h

theorem Memory.wf_store (m : Memory) (a n v : Nat) (h : Memory.wf m) : Memory.wf (Memory.store m a n v) := by
  induction n generalizing m a v with
  | zero => exact h
  | succ n ih => exact ih _ _ _ (Memory.wf_setByte m a _ h)

theorem Memory.wf_putBytes (m : Memory) (a : Nat) (l : List Byte) (h : Memory.wf m) : Memory.wf (Memory.putBytes m a l) := by
  induction l generalizing m a with
  | nil => exact h
  | cons b l ih => exact ih _ _ (Memory.wf_setByte m a _ h)

theorem Memory.wf_filter (m : Memory) (p : Nat × Byte → Bool) (h : Memory.wf m) : Memory.wf (m.filter p) :=
  SMap.wf_filter (α := Byte) 0 m p h

theorem Memory.wf_zero (m : Memory) (lo hi : Nat) (h : Memory.wf m) : Memory.wf (Memory.zero m lo hi) :=
  Memory.wf_filter m _ h

/-- Bytes written one by one keep the canonical form. -/
theorem Memory.wf_foldl {α : Type} (f : α → Nat) (g : α → Byte) (l : List α) (m : Memory) (h : Memory.wf m) :
    Memory.wf (l.foldl (fun m e => Memory.setByte m (f e) (g e)) m) := by
  induction l generalizing m with
  | nil => exact h
  | cons e l ih => exact ih _ (Memory.wf_setByte m _ _ h)

/-- Bytes that a run of writes does not name are unchanged. -/
theorem Memory.byte_foldl_other {α : Type} (f : α → Nat) (g : α → Byte) (l : List α) (m : Memory) (h : Memory.wf m) (b : Nat)
    (hb : ∀ e ∈ l, f e ≠ b) :
    Memory.byte (l.foldl (fun m e => Memory.setByte m (f e) (g e)) m) b = Memory.byte m b := by
  induction l generalizing m with
  | nil => rfl
  | cons e l ih =>
    simp only [List.foldl_cons]
    rw [ih _ (Memory.wf_setByte m _ _ h) fun x hx => hb x (List.mem_cons_of_mem _ hx), Memory.byte_setByte m _ _ _ h,
      if_neg fun hc => hb e (by simp) hc.symm]

end Sys2Proof
end

