-- ==== Sys2Proof/Laws/State.lean ====
section
/-! SUPPORT. What each update of the state leaves alone, one lemma for each field, and reads after writes of cores and contexts. -/

namespace Sys2Proof.Machine

@[simp] theorem State.setCore_cur (s : State) (c : CoreId) (x : Core) : (s.setCore c x).cur = s.cur := rfl
@[simp] theorem State.setCore_turns (s : State) (c : CoreId) (x : Core) : (s.setCore c x).turns = s.turns := rfl
@[simp] theorem State.setCore_agenda (s : State) (c : CoreId) (x : Core) : (s.setCore c x).agenda = s.agenda := rfl
@[simp] theorem State.setCore_clus (s : State) (c : CoreId) (x : Core) : (s.setCore c x).clus = s.clus := rfl
@[simp] theorem State.setCore_dies (s : State) (c : CoreId) (x : Core) : (s.setCore c x).dies = s.dies := rfl
@[simp] theorem State.setCore_layers (s : State) (c : CoreId) (x : Core) : (s.setCore c x).layers = s.layers := rfl
@[simp] theorem State.setCore_dev (s : State) (c : CoreId) (x : Core) : (s.setCore c x).dev = s.dev := rfl
@[simp] theorem State.setCore_queues (s : State) (c : CoreId) (x : Core) : (s.setCore c x).queues = s.queues := rfl
@[simp] theorem State.setCore_cards (s : State) (c : CoreId) (x : Core) : (s.setCore c x).cards = s.cards := rfl
@[simp] theorem State.setCore_gangs (s : State) (c : CoreId) (x : Core) : (s.setCore c x).gangs = s.gangs := rfl
@[simp] theorem State.setCore_doms (s : State) (c : CoreId) (x : Core) : (s.setCore c x).doms = s.doms := rfl
@[simp] theorem State.setCore_areas (s : State) (c : CoreId) (x : Core) : (s.setCore c x).areas = s.areas := rfl
@[simp] theorem State.setCore_images (s : State) (c : CoreId) (x : Core) : (s.setCore c x).images = s.images := rfl
@[simp] theorem State.setCore_bootCards (s : State) (c : CoreId) (x : Core) : (s.setCore c x).bootCards = s.bootCards := rfl
@[simp] theorem State.setCore_merge (s : State) (c : CoreId) (x : Core) : (s.setCore c x).merge = s.merge := rfl
@[simp] theorem State.setCore_quekin (s : State) (c : CoreId) (x : Core) : (s.setCore c x).quekin = s.quekin := rfl
@[simp] theorem State.setCore_quekout (s : State) (c : CoreId) (x : Core) : (s.setCore c x).quekout = s.quekout := rfl
@[simp] theorem State.setCore_tier (s : State) (c : CoreId) (x : Core) : (s.setCore c x).tier = s.tier := rfl
@[simp] theorem State.setCore_mem (s : State) (c : CoreId) (x : Core) : (s.setCore c x).mem = s.mem := rfl
@[simp] theorem State.setCore_poison (s : State) (c : CoreId) (x : Core) : (s.setCore c x).poison = s.poison := rfl
@[simp] theorem State.setCore_dirty (s : State) (c : CoreId) (x : Core) : (s.setCore c x).dirty = s.dirty := rfl
@[simp] theorem State.setCore_out (s : State) (c : CoreId) (x : Core) : (s.setCore c x).out = s.out := rfl
@[simp] theorem State.setCore_nextCard (s : State) (c : CoreId) (x : Core) : (s.setCore c x).nextCard = s.nextCard := rfl
@[simp] theorem State.setCore_ticks (s : State) (c : CoreId) (x : Core) : (s.setCore c x).ticks = s.ticks := rfl
@[simp] theorem State.setCore_free (s : State) (c : CoreId) (x : Core) : (s.setCore c x).free = s.free := rfl
@[simp] theorem State.setCore_jseq (s : State) (c : CoreId) (x : Core) : (s.setCore c x).jseq = s.jseq := rfl
@[simp] theorem State.setCore_held (s : State) (c : CoreId) (x : Core) : (s.setCore c x).held = s.held := rfl
@[simp] theorem State.setCore_posts (s : State) (c : CoreId) (x : Core) : (s.setCore c x).posts = s.posts := rfl

@[simp] theorem State.setCtx_cur (s : State) (a : CtxId) (x : Ctx) : (s.setCtx a x).cur = s.cur := rfl
@[simp] theorem State.setCtx_turns (s : State) (a : CtxId) (x : Ctx) : (s.setCtx a x).turns = s.turns := rfl
@[simp] theorem State.setCtx_agenda (s : State) (a : CtxId) (x : Ctx) : (s.setCtx a x).agenda = s.agenda := rfl
@[simp] theorem State.setCtx_clus (s : State) (a : CtxId) (x : Ctx) : (s.setCtx a x).clus = s.clus := rfl
@[simp] theorem State.setCtx_dies (s : State) (a : CtxId) (x : Ctx) : (s.setCtx a x).dies = s.dies := rfl
@[simp] theorem State.setCtx_layers (s : State) (a : CtxId) (x : Ctx) : (s.setCtx a x).layers = s.layers := rfl
@[simp] theorem State.setCtx_dev (s : State) (a : CtxId) (x : Ctx) : (s.setCtx a x).dev = s.dev := rfl
@[simp] theorem State.setCtx_queues (s : State) (a : CtxId) (x : Ctx) : (s.setCtx a x).queues = s.queues := rfl
@[simp] theorem State.setCtx_cards (s : State) (a : CtxId) (x : Ctx) : (s.setCtx a x).cards = s.cards := rfl
@[simp] theorem State.setCtx_gangs (s : State) (a : CtxId) (x : Ctx) : (s.setCtx a x).gangs = s.gangs := rfl
@[simp] theorem State.setCtx_doms (s : State) (a : CtxId) (x : Ctx) : (s.setCtx a x).doms = s.doms := rfl
@[simp] theorem State.setCtx_areas (s : State) (a : CtxId) (x : Ctx) : (s.setCtx a x).areas = s.areas := rfl
@[simp] theorem State.setCtx_images (s : State) (a : CtxId) (x : Ctx) : (s.setCtx a x).images = s.images := rfl
@[simp] theorem State.setCtx_bootCards (s : State) (a : CtxId) (x : Ctx) : (s.setCtx a x).bootCards = s.bootCards := rfl
@[simp] theorem State.setCtx_merge (s : State) (a : CtxId) (x : Ctx) : (s.setCtx a x).merge = s.merge := rfl
@[simp] theorem State.setCtx_quekin (s : State) (a : CtxId) (x : Ctx) : (s.setCtx a x).quekin = s.quekin := rfl
@[simp] theorem State.setCtx_quekout (s : State) (a : CtxId) (x : Ctx) : (s.setCtx a x).quekout = s.quekout := rfl
@[simp] theorem State.setCtx_tier (s : State) (a : CtxId) (x : Ctx) : (s.setCtx a x).tier = s.tier := rfl
@[simp] theorem State.setCtx_mem (s : State) (a : CtxId) (x : Ctx) : (s.setCtx a x).mem = s.mem := rfl
@[simp] theorem State.setCtx_poison (s : State) (a : CtxId) (x : Ctx) : (s.setCtx a x).poison = s.poison := rfl
@[simp] theorem State.setCtx_dirty (s : State) (a : CtxId) (x : Ctx) : (s.setCtx a x).dirty = s.dirty := rfl
@[simp] theorem State.setCtx_out (s : State) (a : CtxId) (x : Ctx) : (s.setCtx a x).out = s.out := rfl
@[simp] theorem State.setCtx_nextCard (s : State) (a : CtxId) (x : Ctx) : (s.setCtx a x).nextCard = s.nextCard := rfl
@[simp] theorem State.setCtx_ticks (s : State) (a : CtxId) (x : Ctx) : (s.setCtx a x).ticks = s.ticks := rfl
@[simp] theorem State.setCtx_free (s : State) (a : CtxId) (x : Ctx) : (s.setCtx a x).free = s.free := rfl
@[simp] theorem State.setCtx_jseq (s : State) (a : CtxId) (x : Ctx) : (s.setCtx a x).jseq = s.jseq := rfl
@[simp] theorem State.setCtx_held (s : State) (a : CtxId) (x : Ctx) : (s.setCtx a x).held = s.held := rfl
@[simp] theorem State.setCtx_posts (s : State) (a : CtxId) (x : Ctx) : (s.setCtx a x).posts = s.posts := rfl

@[simp] theorem State.modCtx_cur (s : State) (a : CtxId) (g : Ctx → Ctx) : (s.modCtx a g).cur = s.cur := rfl
@[simp] theorem State.modCtx_turns (s : State) (a : CtxId) (g : Ctx → Ctx) : (s.modCtx a g).turns = s.turns := rfl
@[simp] theorem State.modCtx_agenda (s : State) (a : CtxId) (g : Ctx → Ctx) : (s.modCtx a g).agenda = s.agenda := rfl
@[simp] theorem State.modCtx_clus (s : State) (a : CtxId) (g : Ctx → Ctx) : (s.modCtx a g).clus = s.clus := rfl
@[simp] theorem State.modCtx_dies (s : State) (a : CtxId) (g : Ctx → Ctx) : (s.modCtx a g).dies = s.dies := rfl
@[simp] theorem State.modCtx_layers (s : State) (a : CtxId) (g : Ctx → Ctx) : (s.modCtx a g).layers = s.layers := rfl
@[simp] theorem State.modCtx_dev (s : State) (a : CtxId) (g : Ctx → Ctx) : (s.modCtx a g).dev = s.dev := rfl
@[simp] theorem State.modCtx_queues (s : State) (a : CtxId) (g : Ctx → Ctx) : (s.modCtx a g).queues = s.queues := rfl
@[simp] theorem State.modCtx_cards (s : State) (a : CtxId) (g : Ctx → Ctx) : (s.modCtx a g).cards = s.cards := rfl
@[simp] theorem State.modCtx_gangs (s : State) (a : CtxId) (g : Ctx → Ctx) : (s.modCtx a g).gangs = s.gangs := rfl
@[simp] theorem State.modCtx_doms (s : State) (a : CtxId) (g : Ctx → Ctx) : (s.modCtx a g).doms = s.doms := rfl
@[simp] theorem State.modCtx_areas (s : State) (a : CtxId) (g : Ctx → Ctx) : (s.modCtx a g).areas = s.areas := rfl
@[simp] theorem State.modCtx_images (s : State) (a : CtxId) (g : Ctx → Ctx) : (s.modCtx a g).images = s.images := rfl
@[simp] theorem State.modCtx_bootCards (s : State) (a : CtxId) (g : Ctx → Ctx) : (s.modCtx a g).bootCards = s.bootCards := rfl
@[simp] theorem State.modCtx_merge (s : State) (a : CtxId) (g : Ctx → Ctx) : (s.modCtx a g).merge = s.merge := rfl
@[simp] theorem State.modCtx_quekin (s : State) (a : CtxId) (g : Ctx → Ctx) : (s.modCtx a g).quekin = s.quekin := rfl
@[simp] theorem State.modCtx_quekout (s : State) (a : CtxId) (g : Ctx → Ctx) : (s.modCtx a g).quekout = s.quekout := rfl
@[simp] theorem State.modCtx_tier (s : State) (a : CtxId) (g : Ctx → Ctx) : (s.modCtx a g).tier = s.tier := rfl
@[simp] theorem State.modCtx_mem (s : State) (a : CtxId) (g : Ctx → Ctx) : (s.modCtx a g).mem = s.mem := rfl
@[simp] theorem State.modCtx_poison (s : State) (a : CtxId) (g : Ctx → Ctx) : (s.modCtx a g).poison = s.poison := rfl
@[simp] theorem State.modCtx_dirty (s : State) (a : CtxId) (g : Ctx → Ctx) : (s.modCtx a g).dirty = s.dirty := rfl
@[simp] theorem State.modCtx_out (s : State) (a : CtxId) (g : Ctx → Ctx) : (s.modCtx a g).out = s.out := rfl
@[simp] theorem State.modCtx_nextCard (s : State) (a : CtxId) (g : Ctx → Ctx) : (s.modCtx a g).nextCard = s.nextCard := rfl
@[simp] theorem State.modCtx_ticks (s : State) (a : CtxId) (g : Ctx → Ctx) : (s.modCtx a g).ticks = s.ticks := rfl
@[simp] theorem State.modCtx_free (s : State) (a : CtxId) (g : Ctx → Ctx) : (s.modCtx a g).free = s.free := rfl
@[simp] theorem State.modCtx_jseq (s : State) (a : CtxId) (g : Ctx → Ctx) : (s.modCtx a g).jseq = s.jseq := rfl
@[simp] theorem State.modCtx_held (s : State) (a : CtxId) (g : Ctx → Ctx) : (s.modCtx a g).held = s.held := rfl
@[simp] theorem State.modCtx_posts (s : State) (a : CtxId) (g : Ctx → Ctx) : (s.modCtx a g).posts = s.posts := rfl

@[simp] theorem State.modCore_cur (s : State) (c : CoreId) (g : Core → Core) : (s.modCore c g).cur = s.cur := rfl
@[simp] theorem State.modCore_turns (s : State) (c : CoreId) (g : Core → Core) : (s.modCore c g).turns = s.turns := rfl
@[simp] theorem State.modCore_agenda (s : State) (c : CoreId) (g : Core → Core) : (s.modCore c g).agenda = s.agenda := rfl
@[simp] theorem State.modCore_clus (s : State) (c : CoreId) (g : Core → Core) : (s.modCore c g).clus = s.clus := rfl
@[simp] theorem State.modCore_dies (s : State) (c : CoreId) (g : Core → Core) : (s.modCore c g).dies = s.dies := rfl
@[simp] theorem State.modCore_layers (s : State) (c : CoreId) (g : Core → Core) : (s.modCore c g).layers = s.layers := rfl
@[simp] theorem State.modCore_dev (s : State) (c : CoreId) (g : Core → Core) : (s.modCore c g).dev = s.dev := rfl
@[simp] theorem State.modCore_queues (s : State) (c : CoreId) (g : Core → Core) : (s.modCore c g).queues = s.queues := rfl
@[simp] theorem State.modCore_cards (s : State) (c : CoreId) (g : Core → Core) : (s.modCore c g).cards = s.cards := rfl
@[simp] theorem State.modCore_gangs (s : State) (c : CoreId) (g : Core → Core) : (s.modCore c g).gangs = s.gangs := rfl
@[simp] theorem State.modCore_doms (s : State) (c : CoreId) (g : Core → Core) : (s.modCore c g).doms = s.doms := rfl
@[simp] theorem State.modCore_areas (s : State) (c : CoreId) (g : Core → Core) : (s.modCore c g).areas = s.areas := rfl
@[simp] theorem State.modCore_images (s : State) (c : CoreId) (g : Core → Core) : (s.modCore c g).images = s.images := rfl
@[simp] theorem State.modCore_bootCards (s : State) (c : CoreId) (g : Core → Core) : (s.modCore c g).bootCards = s.bootCards := rfl
@[simp] theorem State.modCore_merge (s : State) (c : CoreId) (g : Core → Core) : (s.modCore c g).merge = s.merge := rfl
@[simp] theorem State.modCore_quekin (s : State) (c : CoreId) (g : Core → Core) : (s.modCore c g).quekin = s.quekin := rfl
@[simp] theorem State.modCore_quekout (s : State) (c : CoreId) (g : Core → Core) : (s.modCore c g).quekout = s.quekout := rfl
@[simp] theorem State.modCore_tier (s : State) (c : CoreId) (g : Core → Core) : (s.modCore c g).tier = s.tier := rfl
@[simp] theorem State.modCore_mem (s : State) (c : CoreId) (g : Core → Core) : (s.modCore c g).mem = s.mem := rfl
@[simp] theorem State.modCore_poison (s : State) (c : CoreId) (g : Core → Core) : (s.modCore c g).poison = s.poison := rfl
@[simp] theorem State.modCore_dirty (s : State) (c : CoreId) (g : Core → Core) : (s.modCore c g).dirty = s.dirty := rfl
@[simp] theorem State.modCore_out (s : State) (c : CoreId) (g : Core → Core) : (s.modCore c g).out = s.out := rfl
@[simp] theorem State.modCore_nextCard (s : State) (c : CoreId) (g : Core → Core) : (s.modCore c g).nextCard = s.nextCard := rfl
@[simp] theorem State.modCore_ticks (s : State) (c : CoreId) (g : Core → Core) : (s.modCore c g).ticks = s.ticks := rfl
@[simp] theorem State.modCore_free (s : State) (c : CoreId) (g : Core → Core) : (s.modCore c g).free = s.free := rfl
@[simp] theorem State.modCore_jseq (s : State) (c : CoreId) (g : Core → Core) : (s.modCore c g).jseq = s.jseq := rfl
@[simp] theorem State.modCore_held (s : State) (c : CoreId) (g : Core → Core) : (s.modCore c g).held = s.held := rfl
@[simp] theorem State.modCore_posts (s : State) (c : CoreId) (g : Core → Core) : (s.modCore c g).posts = s.posts := rfl

@[simp] theorem State.setRegs_cur (s : State) (a : CtxId) (r : RegState) : (s.setRegs a r).cur = s.cur := rfl
@[simp] theorem State.setRegs_turns (s : State) (a : CtxId) (r : RegState) : (s.setRegs a r).turns = s.turns := rfl
@[simp] theorem State.setRegs_agenda (s : State) (a : CtxId) (r : RegState) : (s.setRegs a r).agenda = s.agenda := rfl
@[simp] theorem State.setRegs_clus (s : State) (a : CtxId) (r : RegState) : (s.setRegs a r).clus = s.clus := rfl
@[simp] theorem State.setRegs_dies (s : State) (a : CtxId) (r : RegState) : (s.setRegs a r).dies = s.dies := rfl
@[simp] theorem State.setRegs_layers (s : State) (a : CtxId) (r : RegState) : (s.setRegs a r).layers = s.layers := rfl
@[simp] theorem State.setRegs_dev (s : State) (a : CtxId) (r : RegState) : (s.setRegs a r).dev = s.dev := rfl
@[simp] theorem State.setRegs_queues (s : State) (a : CtxId) (r : RegState) : (s.setRegs a r).queues = s.queues := rfl
@[simp] theorem State.setRegs_cards (s : State) (a : CtxId) (r : RegState) : (s.setRegs a r).cards = s.cards := rfl
@[simp] theorem State.setRegs_gangs (s : State) (a : CtxId) (r : RegState) : (s.setRegs a r).gangs = s.gangs := rfl
@[simp] theorem State.setRegs_doms (s : State) (a : CtxId) (r : RegState) : (s.setRegs a r).doms = s.doms := rfl
@[simp] theorem State.setRegs_areas (s : State) (a : CtxId) (r : RegState) : (s.setRegs a r).areas = s.areas := rfl
@[simp] theorem State.setRegs_images (s : State) (a : CtxId) (r : RegState) : (s.setRegs a r).images = s.images := rfl
@[simp] theorem State.setRegs_bootCards (s : State) (a : CtxId) (r : RegState) : (s.setRegs a r).bootCards = s.bootCards := rfl
@[simp] theorem State.setRegs_merge (s : State) (a : CtxId) (r : RegState) : (s.setRegs a r).merge = s.merge := rfl
@[simp] theorem State.setRegs_quekin (s : State) (a : CtxId) (r : RegState) : (s.setRegs a r).quekin = s.quekin := rfl
@[simp] theorem State.setRegs_quekout (s : State) (a : CtxId) (r : RegState) : (s.setRegs a r).quekout = s.quekout := rfl
@[simp] theorem State.setRegs_tier (s : State) (a : CtxId) (r : RegState) : (s.setRegs a r).tier = s.tier := rfl
@[simp] theorem State.setRegs_mem (s : State) (a : CtxId) (r : RegState) : (s.setRegs a r).mem = s.mem := rfl
@[simp] theorem State.setRegs_poison (s : State) (a : CtxId) (r : RegState) : (s.setRegs a r).poison = s.poison := rfl
@[simp] theorem State.setRegs_dirty (s : State) (a : CtxId) (r : RegState) : (s.setRegs a r).dirty = s.dirty := rfl
@[simp] theorem State.setRegs_out (s : State) (a : CtxId) (r : RegState) : (s.setRegs a r).out = s.out := rfl
@[simp] theorem State.setRegs_nextCard (s : State) (a : CtxId) (r : RegState) : (s.setRegs a r).nextCard = s.nextCard := rfl
@[simp] theorem State.setRegs_ticks (s : State) (a : CtxId) (r : RegState) : (s.setRegs a r).ticks = s.ticks := rfl
@[simp] theorem State.setRegs_free (s : State) (a : CtxId) (r : RegState) : (s.setRegs a r).free = s.free := rfl
@[simp] theorem State.setRegs_jseq (s : State) (a : CtxId) (r : RegState) : (s.setRegs a r).jseq = s.jseq := rfl
@[simp] theorem State.setRegs_held (s : State) (a : CtxId) (r : RegState) : (s.setRegs a r).held = s.held := rfl
@[simp] theorem State.setRegs_posts (s : State) (a : CtxId) (r : RegState) : (s.setRegs a r).posts = s.posts := rfl

@[simp] theorem State.modPort_cur (s : State) (a : CtxId) (p : Nat) (g : Port → Port) : (s.modPort a p g).cur = s.cur := rfl
@[simp] theorem State.modPort_turns (s : State) (a : CtxId) (p : Nat) (g : Port → Port) : (s.modPort a p g).turns = s.turns := rfl
@[simp] theorem State.modPort_agenda (s : State) (a : CtxId) (p : Nat) (g : Port → Port) : (s.modPort a p g).agenda = s.agenda := rfl
@[simp] theorem State.modPort_clus (s : State) (a : CtxId) (p : Nat) (g : Port → Port) : (s.modPort a p g).clus = s.clus := rfl
@[simp] theorem State.modPort_dies (s : State) (a : CtxId) (p : Nat) (g : Port → Port) : (s.modPort a p g).dies = s.dies := rfl
@[simp] theorem State.modPort_layers (s : State) (a : CtxId) (p : Nat) (g : Port → Port) : (s.modPort a p g).layers = s.layers := rfl
@[simp] theorem State.modPort_dev (s : State) (a : CtxId) (p : Nat) (g : Port → Port) : (s.modPort a p g).dev = s.dev := rfl
@[simp] theorem State.modPort_queues (s : State) (a : CtxId) (p : Nat) (g : Port → Port) : (s.modPort a p g).queues = s.queues := rfl
@[simp] theorem State.modPort_cards (s : State) (a : CtxId) (p : Nat) (g : Port → Port) : (s.modPort a p g).cards = s.cards := rfl
@[simp] theorem State.modPort_gangs (s : State) (a : CtxId) (p : Nat) (g : Port → Port) : (s.modPort a p g).gangs = s.gangs := rfl
@[simp] theorem State.modPort_doms (s : State) (a : CtxId) (p : Nat) (g : Port → Port) : (s.modPort a p g).doms = s.doms := rfl
@[simp] theorem State.modPort_areas (s : State) (a : CtxId) (p : Nat) (g : Port → Port) : (s.modPort a p g).areas = s.areas := rfl
@[simp] theorem State.modPort_images (s : State) (a : CtxId) (p : Nat) (g : Port → Port) : (s.modPort a p g).images = s.images := rfl
@[simp] theorem State.modPort_bootCards (s : State) (a : CtxId) (p : Nat) (g : Port → Port) : (s.modPort a p g).bootCards = s.bootCards := rfl
@[simp] theorem State.modPort_merge (s : State) (a : CtxId) (p : Nat) (g : Port → Port) : (s.modPort a p g).merge = s.merge := rfl
@[simp] theorem State.modPort_quekin (s : State) (a : CtxId) (p : Nat) (g : Port → Port) : (s.modPort a p g).quekin = s.quekin := rfl
@[simp] theorem State.modPort_quekout (s : State) (a : CtxId) (p : Nat) (g : Port → Port) : (s.modPort a p g).quekout = s.quekout := rfl
@[simp] theorem State.modPort_tier (s : State) (a : CtxId) (p : Nat) (g : Port → Port) : (s.modPort a p g).tier = s.tier := rfl
@[simp] theorem State.modPort_mem (s : State) (a : CtxId) (p : Nat) (g : Port → Port) : (s.modPort a p g).mem = s.mem := rfl
@[simp] theorem State.modPort_poison (s : State) (a : CtxId) (p : Nat) (g : Port → Port) : (s.modPort a p g).poison = s.poison := rfl
@[simp] theorem State.modPort_dirty (s : State) (a : CtxId) (p : Nat) (g : Port → Port) : (s.modPort a p g).dirty = s.dirty := rfl
@[simp] theorem State.modPort_out (s : State) (a : CtxId) (p : Nat) (g : Port → Port) : (s.modPort a p g).out = s.out := rfl
@[simp] theorem State.modPort_nextCard (s : State) (a : CtxId) (p : Nat) (g : Port → Port) : (s.modPort a p g).nextCard = s.nextCard := rfl
@[simp] theorem State.modPort_ticks (s : State) (a : CtxId) (p : Nat) (g : Port → Port) : (s.modPort a p g).ticks = s.ticks := rfl
@[simp] theorem State.modPort_free (s : State) (a : CtxId) (p : Nat) (g : Port → Port) : (s.modPort a p g).free = s.free := rfl
@[simp] theorem State.modPort_jseq (s : State) (a : CtxId) (p : Nat) (g : Port → Port) : (s.modPort a p g).jseq = s.jseq := rfl
@[simp] theorem State.modPort_held (s : State) (a : CtxId) (p : Nat) (g : Port → Port) : (s.modPort a p g).held = s.held := rfl
@[simp] theorem State.modPort_posts (s : State) (a : CtxId) (p : Nat) (g : Port → Port) : (s.modPort a p g).posts = s.posts := rfl

@[simp] theorem State.modTt_cur (s : State) (c : CoreId) (g : Timetable → Timetable) : (s.modTt c g).cur = s.cur := rfl
@[simp] theorem State.modTt_turns (s : State) (c : CoreId) (g : Timetable → Timetable) : (s.modTt c g).turns = s.turns := rfl
@[simp] theorem State.modTt_agenda (s : State) (c : CoreId) (g : Timetable → Timetable) : (s.modTt c g).agenda = s.agenda := rfl
@[simp] theorem State.modTt_clus (s : State) (c : CoreId) (g : Timetable → Timetable) : (s.modTt c g).clus = s.clus := rfl
@[simp] theorem State.modTt_dies (s : State) (c : CoreId) (g : Timetable → Timetable) : (s.modTt c g).dies = s.dies := rfl
@[simp] theorem State.modTt_layers (s : State) (c : CoreId) (g : Timetable → Timetable) : (s.modTt c g).layers = s.layers := rfl
@[simp] theorem State.modTt_dev (s : State) (c : CoreId) (g : Timetable → Timetable) : (s.modTt c g).dev = s.dev := rfl
@[simp] theorem State.modTt_queues (s : State) (c : CoreId) (g : Timetable → Timetable) : (s.modTt c g).queues = s.queues := rfl
@[simp] theorem State.modTt_cards (s : State) (c : CoreId) (g : Timetable → Timetable) : (s.modTt c g).cards = s.cards := rfl
@[simp] theorem State.modTt_gangs (s : State) (c : CoreId) (g : Timetable → Timetable) : (s.modTt c g).gangs = s.gangs := rfl
@[simp] theorem State.modTt_doms (s : State) (c : CoreId) (g : Timetable → Timetable) : (s.modTt c g).doms = s.doms := rfl
@[simp] theorem State.modTt_areas (s : State) (c : CoreId) (g : Timetable → Timetable) : (s.modTt c g).areas = s.areas := rfl
@[simp] theorem State.modTt_images (s : State) (c : CoreId) (g : Timetable → Timetable) : (s.modTt c g).images = s.images := rfl
@[simp] theorem State.modTt_bootCards (s : State) (c : CoreId) (g : Timetable → Timetable) : (s.modTt c g).bootCards = s.bootCards := rfl
@[simp] theorem State.modTt_merge (s : State) (c : CoreId) (g : Timetable → Timetable) : (s.modTt c g).merge = s.merge := rfl
@[simp] theorem State.modTt_quekin (s : State) (c : CoreId) (g : Timetable → Timetable) : (s.modTt c g).quekin = s.quekin := rfl
@[simp] theorem State.modTt_quekout (s : State) (c : CoreId) (g : Timetable → Timetable) : (s.modTt c g).quekout = s.quekout := rfl
@[simp] theorem State.modTt_tier (s : State) (c : CoreId) (g : Timetable → Timetable) : (s.modTt c g).tier = s.tier := rfl
@[simp] theorem State.modTt_mem (s : State) (c : CoreId) (g : Timetable → Timetable) : (s.modTt c g).mem = s.mem := rfl
@[simp] theorem State.modTt_poison (s : State) (c : CoreId) (g : Timetable → Timetable) : (s.modTt c g).poison = s.poison := rfl
@[simp] theorem State.modTt_dirty (s : State) (c : CoreId) (g : Timetable → Timetable) : (s.modTt c g).dirty = s.dirty := rfl
@[simp] theorem State.modTt_out (s : State) (c : CoreId) (g : Timetable → Timetable) : (s.modTt c g).out = s.out := rfl
@[simp] theorem State.modTt_nextCard (s : State) (c : CoreId) (g : Timetable → Timetable) : (s.modTt c g).nextCard = s.nextCard := rfl
@[simp] theorem State.modTt_ticks (s : State) (c : CoreId) (g : Timetable → Timetable) : (s.modTt c g).ticks = s.ticks := rfl
@[simp] theorem State.modTt_free (s : State) (c : CoreId) (g : Timetable → Timetable) : (s.modTt c g).free = s.free := rfl
@[simp] theorem State.modTt_jseq (s : State) (c : CoreId) (g : Timetable → Timetable) : (s.modTt c g).jseq = s.jseq := rfl
@[simp] theorem State.modTt_held (s : State) (c : CoreId) (g : Timetable → Timetable) : (s.modTt c g).held = s.held := rfl
@[simp] theorem State.modTt_posts (s : State) (c : CoreId) (g : Timetable → Timetable) : (s.modTt c g).posts = s.posts := rfl

@[simp] theorem State.stage_cur (s : State) (a : CtxId) (x : Effect) : (s.stage a x).cur = s.cur := rfl
@[simp] theorem State.stage_turns (s : State) (a : CtxId) (x : Effect) : (s.stage a x).turns = s.turns := rfl
@[simp] theorem State.stage_agenda (s : State) (a : CtxId) (x : Effect) : (s.stage a x).agenda = s.agenda := rfl
@[simp] theorem State.stage_clus (s : State) (a : CtxId) (x : Effect) : (s.stage a x).clus = s.clus := rfl
@[simp] theorem State.stage_dies (s : State) (a : CtxId) (x : Effect) : (s.stage a x).dies = s.dies := rfl
@[simp] theorem State.stage_layers (s : State) (a : CtxId) (x : Effect) : (s.stage a x).layers = s.layers := rfl
@[simp] theorem State.stage_dev (s : State) (a : CtxId) (x : Effect) : (s.stage a x).dev = s.dev := rfl
@[simp] theorem State.stage_queues (s : State) (a : CtxId) (x : Effect) : (s.stage a x).queues = s.queues := rfl
@[simp] theorem State.stage_cards (s : State) (a : CtxId) (x : Effect) : (s.stage a x).cards = s.cards := rfl
@[simp] theorem State.stage_gangs (s : State) (a : CtxId) (x : Effect) : (s.stage a x).gangs = s.gangs := rfl
@[simp] theorem State.stage_doms (s : State) (a : CtxId) (x : Effect) : (s.stage a x).doms = s.doms := rfl
@[simp] theorem State.stage_areas (s : State) (a : CtxId) (x : Effect) : (s.stage a x).areas = s.areas := rfl
@[simp] theorem State.stage_images (s : State) (a : CtxId) (x : Effect) : (s.stage a x).images = s.images := rfl
@[simp] theorem State.stage_bootCards (s : State) (a : CtxId) (x : Effect) : (s.stage a x).bootCards = s.bootCards := rfl
@[simp] theorem State.stage_merge (s : State) (a : CtxId) (x : Effect) : (s.stage a x).merge = s.merge := rfl
@[simp] theorem State.stage_quekin (s : State) (a : CtxId) (x : Effect) : (s.stage a x).quekin = s.quekin := rfl
@[simp] theorem State.stage_quekout (s : State) (a : CtxId) (x : Effect) : (s.stage a x).quekout = s.quekout := rfl
@[simp] theorem State.stage_tier (s : State) (a : CtxId) (x : Effect) : (s.stage a x).tier = s.tier := rfl
@[simp] theorem State.stage_mem (s : State) (a : CtxId) (x : Effect) : (s.stage a x).mem = s.mem := rfl
@[simp] theorem State.stage_poison (s : State) (a : CtxId) (x : Effect) : (s.stage a x).poison = s.poison := rfl
@[simp] theorem State.stage_dirty (s : State) (a : CtxId) (x : Effect) : (s.stage a x).dirty = s.dirty := rfl
@[simp] theorem State.stage_out (s : State) (a : CtxId) (x : Effect) : (s.stage a x).out = s.out := rfl
@[simp] theorem State.stage_nextCard (s : State) (a : CtxId) (x : Effect) : (s.stage a x).nextCard = s.nextCard := rfl
@[simp] theorem State.stage_ticks (s : State) (a : CtxId) (x : Effect) : (s.stage a x).ticks = s.ticks := rfl
@[simp] theorem State.stage_free (s : State) (a : CtxId) (x : Effect) : (s.stage a x).free = s.free := rfl
@[simp] theorem State.stage_jseq (s : State) (a : CtxId) (x : Effect) : (s.stage a x).jseq = s.jseq := rfl
@[simp] theorem State.stage_held (s : State) (a : CtxId) (x : Effect) : (s.stage a x).held = s.held := rfl
@[simp] theorem State.stage_posts (s : State) (a : CtxId) (x : Effect) : (s.stage a x).posts = s.posts := rfl

@[simp] theorem State.hold_cur (s : State) (a : CtxId) (l : List (Nat × Byte)) : (s.hold a l).cur = s.cur := rfl
@[simp] theorem State.hold_turns (s : State) (a : CtxId) (l : List (Nat × Byte)) : (s.hold a l).turns = s.turns := rfl
@[simp] theorem State.hold_agenda (s : State) (a : CtxId) (l : List (Nat × Byte)) : (s.hold a l).agenda = s.agenda := rfl
@[simp] theorem State.hold_clus (s : State) (a : CtxId) (l : List (Nat × Byte)) : (s.hold a l).clus = s.clus := rfl
@[simp] theorem State.hold_dies (s : State) (a : CtxId) (l : List (Nat × Byte)) : (s.hold a l).dies = s.dies := rfl
@[simp] theorem State.hold_layers (s : State) (a : CtxId) (l : List (Nat × Byte)) : (s.hold a l).layers = s.layers := rfl
@[simp] theorem State.hold_dev (s : State) (a : CtxId) (l : List (Nat × Byte)) : (s.hold a l).dev = s.dev := rfl
@[simp] theorem State.hold_queues (s : State) (a : CtxId) (l : List (Nat × Byte)) : (s.hold a l).queues = s.queues := rfl
@[simp] theorem State.hold_cards (s : State) (a : CtxId) (l : List (Nat × Byte)) : (s.hold a l).cards = s.cards := rfl
@[simp] theorem State.hold_gangs (s : State) (a : CtxId) (l : List (Nat × Byte)) : (s.hold a l).gangs = s.gangs := rfl
@[simp] theorem State.hold_doms (s : State) (a : CtxId) (l : List (Nat × Byte)) : (s.hold a l).doms = s.doms := rfl
@[simp] theorem State.hold_areas (s : State) (a : CtxId) (l : List (Nat × Byte)) : (s.hold a l).areas = s.areas := rfl
@[simp] theorem State.hold_images (s : State) (a : CtxId) (l : List (Nat × Byte)) : (s.hold a l).images = s.images := rfl
@[simp] theorem State.hold_bootCards (s : State) (a : CtxId) (l : List (Nat × Byte)) : (s.hold a l).bootCards = s.bootCards := rfl
@[simp] theorem State.hold_merge (s : State) (a : CtxId) (l : List (Nat × Byte)) : (s.hold a l).merge = s.merge := rfl
@[simp] theorem State.hold_quekin (s : State) (a : CtxId) (l : List (Nat × Byte)) : (s.hold a l).quekin = s.quekin := rfl
@[simp] theorem State.hold_quekout (s : State) (a : CtxId) (l : List (Nat × Byte)) : (s.hold a l).quekout = s.quekout := rfl
@[simp] theorem State.hold_tier (s : State) (a : CtxId) (l : List (Nat × Byte)) : (s.hold a l).tier = s.tier := rfl
@[simp] theorem State.hold_mem (s : State) (a : CtxId) (l : List (Nat × Byte)) : (s.hold a l).mem = s.mem := rfl
@[simp] theorem State.hold_poison (s : State) (a : CtxId) (l : List (Nat × Byte)) : (s.hold a l).poison = s.poison := rfl
@[simp] theorem State.hold_dirty (s : State) (a : CtxId) (l : List (Nat × Byte)) : (s.hold a l).dirty = s.dirty := rfl
@[simp] theorem State.hold_out (s : State) (a : CtxId) (l : List (Nat × Byte)) : (s.hold a l).out = s.out := rfl
@[simp] theorem State.hold_nextCard (s : State) (a : CtxId) (l : List (Nat × Byte)) : (s.hold a l).nextCard = s.nextCard := rfl
@[simp] theorem State.hold_ticks (s : State) (a : CtxId) (l : List (Nat × Byte)) : (s.hold a l).ticks = s.ticks := rfl
@[simp] theorem State.hold_free (s : State) (a : CtxId) (l : List (Nat × Byte)) : (s.hold a l).free = s.free := rfl
@[simp] theorem State.hold_jseq (s : State) (a : CtxId) (l : List (Nat × Byte)) : (s.hold a l).jseq = s.jseq := rfl
@[simp] theorem State.hold_held (s : State) (a : CtxId) (l : List (Nat × Byte)) : (s.hold a l).held = s.held := rfl
@[simp] theorem State.hold_posts (s : State) (a : CtxId) (l : List (Nat × Byte)) : (s.hold a l).posts = s.posts := rfl

@[simp] theorem State.modCluster_cur (s : State) (c : Nat) (g : Cluster → Cluster) : (s.modCluster c g).cur = s.cur := rfl
@[simp] theorem State.modCluster_turns (s : State) (c : Nat) (g : Cluster → Cluster) : (s.modCluster c g).turns = s.turns := rfl
@[simp] theorem State.modCluster_agenda (s : State) (c : Nat) (g : Cluster → Cluster) : (s.modCluster c g).agenda = s.agenda := rfl
@[simp] theorem State.modCluster_cores (s : State) (c : Nat) (g : Cluster → Cluster) : (s.modCluster c g).cores = s.cores := rfl
@[simp] theorem State.modCluster_dies (s : State) (c : Nat) (g : Cluster → Cluster) : (s.modCluster c g).dies = s.dies := rfl
@[simp] theorem State.modCluster_layers (s : State) (c : Nat) (g : Cluster → Cluster) : (s.modCluster c g).layers = s.layers := rfl
@[simp] theorem State.modCluster_dev (s : State) (c : Nat) (g : Cluster → Cluster) : (s.modCluster c g).dev = s.dev := rfl
@[simp] theorem State.modCluster_queues (s : State) (c : Nat) (g : Cluster → Cluster) : (s.modCluster c g).queues = s.queues := rfl
@[simp] theorem State.modCluster_cards (s : State) (c : Nat) (g : Cluster → Cluster) : (s.modCluster c g).cards = s.cards := rfl
@[simp] theorem State.modCluster_gangs (s : State) (c : Nat) (g : Cluster → Cluster) : (s.modCluster c g).gangs = s.gangs := rfl
@[simp] theorem State.modCluster_doms (s : State) (c : Nat) (g : Cluster → Cluster) : (s.modCluster c g).doms = s.doms := rfl
@[simp] theorem State.modCluster_areas (s : State) (c : Nat) (g : Cluster → Cluster) : (s.modCluster c g).areas = s.areas := rfl
@[simp] theorem State.modCluster_images (s : State) (c : Nat) (g : Cluster → Cluster) : (s.modCluster c g).images = s.images := rfl
@[simp] theorem State.modCluster_bootCards (s : State) (c : Nat) (g : Cluster → Cluster) : (s.modCluster c g).bootCards = s.bootCards := rfl
@[simp] theorem State.modCluster_merge (s : State) (c : Nat) (g : Cluster → Cluster) : (s.modCluster c g).merge = s.merge := rfl
@[simp] theorem State.modCluster_quekin (s : State) (c : Nat) (g : Cluster → Cluster) : (s.modCluster c g).quekin = s.quekin := rfl
@[simp] theorem State.modCluster_quekout (s : State) (c : Nat) (g : Cluster → Cluster) : (s.modCluster c g).quekout = s.quekout := rfl
@[simp] theorem State.modCluster_tier (s : State) (c : Nat) (g : Cluster → Cluster) : (s.modCluster c g).tier = s.tier := rfl
@[simp] theorem State.modCluster_mem (s : State) (c : Nat) (g : Cluster → Cluster) : (s.modCluster c g).mem = s.mem := rfl
@[simp] theorem State.modCluster_poison (s : State) (c : Nat) (g : Cluster → Cluster) : (s.modCluster c g).poison = s.poison := rfl
@[simp] theorem State.modCluster_dirty (s : State) (c : Nat) (g : Cluster → Cluster) : (s.modCluster c g).dirty = s.dirty := rfl
@[simp] theorem State.modCluster_out (s : State) (c : Nat) (g : Cluster → Cluster) : (s.modCluster c g).out = s.out := rfl
@[simp] theorem State.modCluster_nextCard (s : State) (c : Nat) (g : Cluster → Cluster) : (s.modCluster c g).nextCard = s.nextCard := rfl
@[simp] theorem State.modCluster_ticks (s : State) (c : Nat) (g : Cluster → Cluster) : (s.modCluster c g).ticks = s.ticks := rfl
@[simp] theorem State.modCluster_free (s : State) (c : Nat) (g : Cluster → Cluster) : (s.modCluster c g).free = s.free := rfl
@[simp] theorem State.modCluster_jseq (s : State) (c : Nat) (g : Cluster → Cluster) : (s.modCluster c g).jseq = s.jseq := rfl
@[simp] theorem State.modCluster_held (s : State) (c : Nat) (g : Cluster → Cluster) : (s.modCluster c g).held = s.held := rfl
@[simp] theorem State.modCluster_posts (s : State) (c : Nat) (g : Cluster → Cluster) : (s.modCluster c g).posts = s.posts := rfl

@[simp] theorem State.modChan_cur (s : State) (cl ch : Nat) (g : Channel → Channel) : (s.modChan cl ch g).cur = s.cur := rfl
@[simp] theorem State.modChan_turns (s : State) (cl ch : Nat) (g : Channel → Channel) : (s.modChan cl ch g).turns = s.turns := rfl
@[simp] theorem State.modChan_agenda (s : State) (cl ch : Nat) (g : Channel → Channel) : (s.modChan cl ch g).agenda = s.agenda := rfl
@[simp] theorem State.modChan_cores (s : State) (cl ch : Nat) (g : Channel → Channel) : (s.modChan cl ch g).cores = s.cores := rfl
@[simp] theorem State.modChan_dies (s : State) (cl ch : Nat) (g : Channel → Channel) : (s.modChan cl ch g).dies = s.dies := rfl
@[simp] theorem State.modChan_layers (s : State) (cl ch : Nat) (g : Channel → Channel) : (s.modChan cl ch g).layers = s.layers := rfl
@[simp] theorem State.modChan_dev (s : State) (cl ch : Nat) (g : Channel → Channel) : (s.modChan cl ch g).dev = s.dev := rfl
@[simp] theorem State.modChan_queues (s : State) (cl ch : Nat) (g : Channel → Channel) : (s.modChan cl ch g).queues = s.queues := rfl
@[simp] theorem State.modChan_cards (s : State) (cl ch : Nat) (g : Channel → Channel) : (s.modChan cl ch g).cards = s.cards := rfl
@[simp] theorem State.modChan_gangs (s : State) (cl ch : Nat) (g : Channel → Channel) : (s.modChan cl ch g).gangs = s.gangs := rfl
@[simp] theorem State.modChan_doms (s : State) (cl ch : Nat) (g : Channel → Channel) : (s.modChan cl ch g).doms = s.doms := rfl
@[simp] theorem State.modChan_areas (s : State) (cl ch : Nat) (g : Channel → Channel) : (s.modChan cl ch g).areas = s.areas := rfl
@[simp] theorem State.modChan_images (s : State) (cl ch : Nat) (g : Channel → Channel) : (s.modChan cl ch g).images = s.images := rfl
@[simp] theorem State.modChan_bootCards (s : State) (cl ch : Nat) (g : Channel → Channel) : (s.modChan cl ch g).bootCards = s.bootCards := rfl
@[simp] theorem State.modChan_merge (s : State) (cl ch : Nat) (g : Channel → Channel) : (s.modChan cl ch g).merge = s.merge := rfl
@[simp] theorem State.modChan_quekin (s : State) (cl ch : Nat) (g : Channel → Channel) : (s.modChan cl ch g).quekin = s.quekin := rfl
@[simp] theorem State.modChan_quekout (s : State) (cl ch : Nat) (g : Channel → Channel) : (s.modChan cl ch g).quekout = s.quekout := rfl
@[simp] theorem State.modChan_tier (s : State) (cl ch : Nat) (g : Channel → Channel) : (s.modChan cl ch g).tier = s.tier := rfl
@[simp] theorem State.modChan_mem (s : State) (cl ch : Nat) (g : Channel → Channel) : (s.modChan cl ch g).mem = s.mem := rfl
@[simp] theorem State.modChan_poison (s : State) (cl ch : Nat) (g : Channel → Channel) : (s.modChan cl ch g).poison = s.poison := rfl
@[simp] theorem State.modChan_dirty (s : State) (cl ch : Nat) (g : Channel → Channel) : (s.modChan cl ch g).dirty = s.dirty := rfl
@[simp] theorem State.modChan_out (s : State) (cl ch : Nat) (g : Channel → Channel) : (s.modChan cl ch g).out = s.out := rfl
@[simp] theorem State.modChan_nextCard (s : State) (cl ch : Nat) (g : Channel → Channel) : (s.modChan cl ch g).nextCard = s.nextCard := rfl
@[simp] theorem State.modChan_ticks (s : State) (cl ch : Nat) (g : Channel → Channel) : (s.modChan cl ch g).ticks = s.ticks := rfl
@[simp] theorem State.modChan_free (s : State) (cl ch : Nat) (g : Channel → Channel) : (s.modChan cl ch g).free = s.free := rfl
@[simp] theorem State.modChan_jseq (s : State) (cl ch : Nat) (g : Channel → Channel) : (s.modChan cl ch g).jseq = s.jseq := rfl
@[simp] theorem State.modChan_held (s : State) (cl ch : Nat) (g : Channel → Channel) : (s.modChan cl ch g).held = s.held := rfl
@[simp] theorem State.modChan_posts (s : State) (cl ch : Nat) (g : Channel → Channel) : (s.modChan cl ch g).posts = s.posts := rfl

@[simp] theorem State.modDie_cur (s : State) (d : Nat) (g : Die → Die) : (s.modDie d g).cur = s.cur := rfl
@[simp] theorem State.modDie_turns (s : State) (d : Nat) (g : Die → Die) : (s.modDie d g).turns = s.turns := rfl
@[simp] theorem State.modDie_agenda (s : State) (d : Nat) (g : Die → Die) : (s.modDie d g).agenda = s.agenda := rfl
@[simp] theorem State.modDie_cores (s : State) (d : Nat) (g : Die → Die) : (s.modDie d g).cores = s.cores := rfl
@[simp] theorem State.modDie_clus (s : State) (d : Nat) (g : Die → Die) : (s.modDie d g).clus = s.clus := rfl
@[simp] theorem State.modDie_layers (s : State) (d : Nat) (g : Die → Die) : (s.modDie d g).layers = s.layers := rfl
@[simp] theorem State.modDie_dev (s : State) (d : Nat) (g : Die → Die) : (s.modDie d g).dev = s.dev := rfl
@[simp] theorem State.modDie_queues (s : State) (d : Nat) (g : Die → Die) : (s.modDie d g).queues = s.queues := rfl
@[simp] theorem State.modDie_cards (s : State) (d : Nat) (g : Die → Die) : (s.modDie d g).cards = s.cards := rfl
@[simp] theorem State.modDie_gangs (s : State) (d : Nat) (g : Die → Die) : (s.modDie d g).gangs = s.gangs := rfl
@[simp] theorem State.modDie_doms (s : State) (d : Nat) (g : Die → Die) : (s.modDie d g).doms = s.doms := rfl
@[simp] theorem State.modDie_areas (s : State) (d : Nat) (g : Die → Die) : (s.modDie d g).areas = s.areas := rfl
@[simp] theorem State.modDie_images (s : State) (d : Nat) (g : Die → Die) : (s.modDie d g).images = s.images := rfl
@[simp] theorem State.modDie_bootCards (s : State) (d : Nat) (g : Die → Die) : (s.modDie d g).bootCards = s.bootCards := rfl
@[simp] theorem State.modDie_merge (s : State) (d : Nat) (g : Die → Die) : (s.modDie d g).merge = s.merge := rfl
@[simp] theorem State.modDie_quekin (s : State) (d : Nat) (g : Die → Die) : (s.modDie d g).quekin = s.quekin := rfl
@[simp] theorem State.modDie_quekout (s : State) (d : Nat) (g : Die → Die) : (s.modDie d g).quekout = s.quekout := rfl
@[simp] theorem State.modDie_tier (s : State) (d : Nat) (g : Die → Die) : (s.modDie d g).tier = s.tier := rfl
@[simp] theorem State.modDie_mem (s : State) (d : Nat) (g : Die → Die) : (s.modDie d g).mem = s.mem := rfl
@[simp] theorem State.modDie_poison (s : State) (d : Nat) (g : Die → Die) : (s.modDie d g).poison = s.poison := rfl
@[simp] theorem State.modDie_dirty (s : State) (d : Nat) (g : Die → Die) : (s.modDie d g).dirty = s.dirty := rfl
@[simp] theorem State.modDie_out (s : State) (d : Nat) (g : Die → Die) : (s.modDie d g).out = s.out := rfl
@[simp] theorem State.modDie_nextCard (s : State) (d : Nat) (g : Die → Die) : (s.modDie d g).nextCard = s.nextCard := rfl
@[simp] theorem State.modDie_ticks (s : State) (d : Nat) (g : Die → Die) : (s.modDie d g).ticks = s.ticks := rfl
@[simp] theorem State.modDie_free (s : State) (d : Nat) (g : Die → Die) : (s.modDie d g).free = s.free := rfl
@[simp] theorem State.modDie_jseq (s : State) (d : Nat) (g : Die → Die) : (s.modDie d g).jseq = s.jseq := rfl
@[simp] theorem State.modDie_held (s : State) (d : Nat) (g : Die → Die) : (s.modDie d g).held = s.held := rfl
@[simp] theorem State.modDie_posts (s : State) (d : Nat) (g : Die → Die) : (s.modDie d g).posts = s.posts := rfl

@[simp] theorem State.modLayer_cur (s : State) (l : Nat) (g : Layer → Layer) : (s.modLayer l g).cur = s.cur := rfl
@[simp] theorem State.modLayer_turns (s : State) (l : Nat) (g : Layer → Layer) : (s.modLayer l g).turns = s.turns := rfl
@[simp] theorem State.modLayer_agenda (s : State) (l : Nat) (g : Layer → Layer) : (s.modLayer l g).agenda = s.agenda := rfl
@[simp] theorem State.modLayer_cores (s : State) (l : Nat) (g : Layer → Layer) : (s.modLayer l g).cores = s.cores := rfl
@[simp] theorem State.modLayer_clus (s : State) (l : Nat) (g : Layer → Layer) : (s.modLayer l g).clus = s.clus := rfl
@[simp] theorem State.modLayer_dies (s : State) (l : Nat) (g : Layer → Layer) : (s.modLayer l g).dies = s.dies := rfl
@[simp] theorem State.modLayer_dev (s : State) (l : Nat) (g : Layer → Layer) : (s.modLayer l g).dev = s.dev := rfl
@[simp] theorem State.modLayer_queues (s : State) (l : Nat) (g : Layer → Layer) : (s.modLayer l g).queues = s.queues := rfl
@[simp] theorem State.modLayer_cards (s : State) (l : Nat) (g : Layer → Layer) : (s.modLayer l g).cards = s.cards := rfl
@[simp] theorem State.modLayer_gangs (s : State) (l : Nat) (g : Layer → Layer) : (s.modLayer l g).gangs = s.gangs := rfl
@[simp] theorem State.modLayer_doms (s : State) (l : Nat) (g : Layer → Layer) : (s.modLayer l g).doms = s.doms := rfl
@[simp] theorem State.modLayer_areas (s : State) (l : Nat) (g : Layer → Layer) : (s.modLayer l g).areas = s.areas := rfl
@[simp] theorem State.modLayer_images (s : State) (l : Nat) (g : Layer → Layer) : (s.modLayer l g).images = s.images := rfl
@[simp] theorem State.modLayer_bootCards (s : State) (l : Nat) (g : Layer → Layer) : (s.modLayer l g).bootCards = s.bootCards := rfl
@[simp] theorem State.modLayer_merge (s : State) (l : Nat) (g : Layer → Layer) : (s.modLayer l g).merge = s.merge := rfl
@[simp] theorem State.modLayer_quekin (s : State) (l : Nat) (g : Layer → Layer) : (s.modLayer l g).quekin = s.quekin := rfl
@[simp] theorem State.modLayer_quekout (s : State) (l : Nat) (g : Layer → Layer) : (s.modLayer l g).quekout = s.quekout := rfl
@[simp] theorem State.modLayer_tier (s : State) (l : Nat) (g : Layer → Layer) : (s.modLayer l g).tier = s.tier := rfl
@[simp] theorem State.modLayer_mem (s : State) (l : Nat) (g : Layer → Layer) : (s.modLayer l g).mem = s.mem := rfl
@[simp] theorem State.modLayer_poison (s : State) (l : Nat) (g : Layer → Layer) : (s.modLayer l g).poison = s.poison := rfl
@[simp] theorem State.modLayer_dirty (s : State) (l : Nat) (g : Layer → Layer) : (s.modLayer l g).dirty = s.dirty := rfl
@[simp] theorem State.modLayer_out (s : State) (l : Nat) (g : Layer → Layer) : (s.modLayer l g).out = s.out := rfl
@[simp] theorem State.modLayer_nextCard (s : State) (l : Nat) (g : Layer → Layer) : (s.modLayer l g).nextCard = s.nextCard := rfl
@[simp] theorem State.modLayer_ticks (s : State) (l : Nat) (g : Layer → Layer) : (s.modLayer l g).ticks = s.ticks := rfl
@[simp] theorem State.modLayer_free (s : State) (l : Nat) (g : Layer → Layer) : (s.modLayer l g).free = s.free := rfl
@[simp] theorem State.modLayer_jseq (s : State) (l : Nat) (g : Layer → Layer) : (s.modLayer l g).jseq = s.jseq := rfl
@[simp] theorem State.modLayer_held (s : State) (l : Nat) (g : Layer → Layer) : (s.modLayer l g).held = s.held := rfl
@[simp] theorem State.modLayer_posts (s : State) (l : Nat) (g : Layer → Layer) : (s.modLayer l g).posts = s.posts := rfl

@[simp] theorem State.modQueue_cur (s : State) (q : Nat) (g : Queue → Queue) : (s.modQueue q g).cur = s.cur := rfl
@[simp] theorem State.modQueue_turns (s : State) (q : Nat) (g : Queue → Queue) : (s.modQueue q g).turns = s.turns := rfl
@[simp] theorem State.modQueue_agenda (s : State) (q : Nat) (g : Queue → Queue) : (s.modQueue q g).agenda = s.agenda := rfl
@[simp] theorem State.modQueue_cores (s : State) (q : Nat) (g : Queue → Queue) : (s.modQueue q g).cores = s.cores := rfl
@[simp] theorem State.modQueue_clus (s : State) (q : Nat) (g : Queue → Queue) : (s.modQueue q g).clus = s.clus := rfl
@[simp] theorem State.modQueue_dies (s : State) (q : Nat) (g : Queue → Queue) : (s.modQueue q g).dies = s.dies := rfl
@[simp] theorem State.modQueue_layers (s : State) (q : Nat) (g : Queue → Queue) : (s.modQueue q g).layers = s.layers := rfl
@[simp] theorem State.modQueue_dev (s : State) (q : Nat) (g : Queue → Queue) : (s.modQueue q g).dev = s.dev := rfl
@[simp] theorem State.modQueue_cards (s : State) (q : Nat) (g : Queue → Queue) : (s.modQueue q g).cards = s.cards := rfl
@[simp] theorem State.modQueue_gangs (s : State) (q : Nat) (g : Queue → Queue) : (s.modQueue q g).gangs = s.gangs := rfl
@[simp] theorem State.modQueue_doms (s : State) (q : Nat) (g : Queue → Queue) : (s.modQueue q g).doms = s.doms := rfl
@[simp] theorem State.modQueue_areas (s : State) (q : Nat) (g : Queue → Queue) : (s.modQueue q g).areas = s.areas := rfl
@[simp] theorem State.modQueue_images (s : State) (q : Nat) (g : Queue → Queue) : (s.modQueue q g).images = s.images := rfl
@[simp] theorem State.modQueue_bootCards (s : State) (q : Nat) (g : Queue → Queue) : (s.modQueue q g).bootCards = s.bootCards := rfl
@[simp] theorem State.modQueue_merge (s : State) (q : Nat) (g : Queue → Queue) : (s.modQueue q g).merge = s.merge := rfl
@[simp] theorem State.modQueue_quekin (s : State) (q : Nat) (g : Queue → Queue) : (s.modQueue q g).quekin = s.quekin := rfl
@[simp] theorem State.modQueue_quekout (s : State) (q : Nat) (g : Queue → Queue) : (s.modQueue q g).quekout = s.quekout := rfl
@[simp] theorem State.modQueue_tier (s : State) (q : Nat) (g : Queue → Queue) : (s.modQueue q g).tier = s.tier := rfl
@[simp] theorem State.modQueue_mem (s : State) (q : Nat) (g : Queue → Queue) : (s.modQueue q g).mem = s.mem := rfl
@[simp] theorem State.modQueue_poison (s : State) (q : Nat) (g : Queue → Queue) : (s.modQueue q g).poison = s.poison := rfl
@[simp] theorem State.modQueue_dirty (s : State) (q : Nat) (g : Queue → Queue) : (s.modQueue q g).dirty = s.dirty := rfl
@[simp] theorem State.modQueue_out (s : State) (q : Nat) (g : Queue → Queue) : (s.modQueue q g).out = s.out := rfl
@[simp] theorem State.modQueue_nextCard (s : State) (q : Nat) (g : Queue → Queue) : (s.modQueue q g).nextCard = s.nextCard := rfl
@[simp] theorem State.modQueue_ticks (s : State) (q : Nat) (g : Queue → Queue) : (s.modQueue q g).ticks = s.ticks := rfl
@[simp] theorem State.modQueue_free (s : State) (q : Nat) (g : Queue → Queue) : (s.modQueue q g).free = s.free := rfl
@[simp] theorem State.modQueue_jseq (s : State) (q : Nat) (g : Queue → Queue) : (s.modQueue q g).jseq = s.jseq := rfl
@[simp] theorem State.modQueue_held (s : State) (q : Nat) (g : Queue → Queue) : (s.modQueue q g).held = s.held := rfl
@[simp] theorem State.modQueue_posts (s : State) (q : Nat) (g : Queue → Queue) : (s.modQueue q g).posts = s.posts := rfl

@[simp] theorem State.modCard_cur (s : State) (n : Nat) (g : CardRun → CardRun) : (s.modCard n g).cur = s.cur := rfl
@[simp] theorem State.modCard_turns (s : State) (n : Nat) (g : CardRun → CardRun) : (s.modCard n g).turns = s.turns := rfl
@[simp] theorem State.modCard_agenda (s : State) (n : Nat) (g : CardRun → CardRun) : (s.modCard n g).agenda = s.agenda := rfl
@[simp] theorem State.modCard_cores (s : State) (n : Nat) (g : CardRun → CardRun) : (s.modCard n g).cores = s.cores := rfl
@[simp] theorem State.modCard_clus (s : State) (n : Nat) (g : CardRun → CardRun) : (s.modCard n g).clus = s.clus := rfl
@[simp] theorem State.modCard_dies (s : State) (n : Nat) (g : CardRun → CardRun) : (s.modCard n g).dies = s.dies := rfl
@[simp] theorem State.modCard_layers (s : State) (n : Nat) (g : CardRun → CardRun) : (s.modCard n g).layers = s.layers := rfl
@[simp] theorem State.modCard_dev (s : State) (n : Nat) (g : CardRun → CardRun) : (s.modCard n g).dev = s.dev := rfl
@[simp] theorem State.modCard_queues (s : State) (n : Nat) (g : CardRun → CardRun) : (s.modCard n g).queues = s.queues := rfl
@[simp] theorem State.modCard_gangs (s : State) (n : Nat) (g : CardRun → CardRun) : (s.modCard n g).gangs = s.gangs := rfl
@[simp] theorem State.modCard_doms (s : State) (n : Nat) (g : CardRun → CardRun) : (s.modCard n g).doms = s.doms := rfl
@[simp] theorem State.modCard_areas (s : State) (n : Nat) (g : CardRun → CardRun) : (s.modCard n g).areas = s.areas := rfl
@[simp] theorem State.modCard_images (s : State) (n : Nat) (g : CardRun → CardRun) : (s.modCard n g).images = s.images := rfl
@[simp] theorem State.modCard_bootCards (s : State) (n : Nat) (g : CardRun → CardRun) : (s.modCard n g).bootCards = s.bootCards := rfl
@[simp] theorem State.modCard_merge (s : State) (n : Nat) (g : CardRun → CardRun) : (s.modCard n g).merge = s.merge := rfl
@[simp] theorem State.modCard_quekin (s : State) (n : Nat) (g : CardRun → CardRun) : (s.modCard n g).quekin = s.quekin := rfl
@[simp] theorem State.modCard_quekout (s : State) (n : Nat) (g : CardRun → CardRun) : (s.modCard n g).quekout = s.quekout := rfl
@[simp] theorem State.modCard_tier (s : State) (n : Nat) (g : CardRun → CardRun) : (s.modCard n g).tier = s.tier := rfl
@[simp] theorem State.modCard_mem (s : State) (n : Nat) (g : CardRun → CardRun) : (s.modCard n g).mem = s.mem := rfl
@[simp] theorem State.modCard_poison (s : State) (n : Nat) (g : CardRun → CardRun) : (s.modCard n g).poison = s.poison := rfl
@[simp] theorem State.modCard_dirty (s : State) (n : Nat) (g : CardRun → CardRun) : (s.modCard n g).dirty = s.dirty := rfl
@[simp] theorem State.modCard_out (s : State) (n : Nat) (g : CardRun → CardRun) : (s.modCard n g).out = s.out := rfl
@[simp] theorem State.modCard_nextCard (s : State) (n : Nat) (g : CardRun → CardRun) : (s.modCard n g).nextCard = s.nextCard := rfl
@[simp] theorem State.modCard_ticks (s : State) (n : Nat) (g : CardRun → CardRun) : (s.modCard n g).ticks = s.ticks := rfl
@[simp] theorem State.modCard_free (s : State) (n : Nat) (g : CardRun → CardRun) : (s.modCard n g).free = s.free := rfl
@[simp] theorem State.modCard_jseq (s : State) (n : Nat) (g : CardRun → CardRun) : (s.modCard n g).jseq = s.jseq := rfl
@[simp] theorem State.modCard_held (s : State) (n : Nat) (g : CardRun → CardRun) : (s.modCard n g).held = s.held := rfl
@[simp] theorem State.modCard_posts (s : State) (n : Nat) (g : CardRun → CardRun) : (s.modCard n g).posts = s.posts := rfl

@[simp] theorem State.modDom_cur (s : State) (n : Nat) (g : Domain → Domain) : (s.modDom n g).cur = s.cur := rfl
@[simp] theorem State.modDom_turns (s : State) (n : Nat) (g : Domain → Domain) : (s.modDom n g).turns = s.turns := rfl
@[simp] theorem State.modDom_agenda (s : State) (n : Nat) (g : Domain → Domain) : (s.modDom n g).agenda = s.agenda := rfl
@[simp] theorem State.modDom_cores (s : State) (n : Nat) (g : Domain → Domain) : (s.modDom n g).cores = s.cores := rfl
@[simp] theorem State.modDom_clus (s : State) (n : Nat) (g : Domain → Domain) : (s.modDom n g).clus = s.clus := rfl
@[simp] theorem State.modDom_dies (s : State) (n : Nat) (g : Domain → Domain) : (s.modDom n g).dies = s.dies := rfl
@[simp] theorem State.modDom_layers (s : State) (n : Nat) (g : Domain → Domain) : (s.modDom n g).layers = s.layers := rfl
@[simp] theorem State.modDom_dev (s : State) (n : Nat) (g : Domain → Domain) : (s.modDom n g).dev = s.dev := rfl
@[simp] theorem State.modDom_queues (s : State) (n : Nat) (g : Domain → Domain) : (s.modDom n g).queues = s.queues := rfl
@[simp] theorem State.modDom_cards (s : State) (n : Nat) (g : Domain → Domain) : (s.modDom n g).cards = s.cards := rfl
@[simp] theorem State.modDom_gangs (s : State) (n : Nat) (g : Domain → Domain) : (s.modDom n g).gangs = s.gangs := rfl
@[simp] theorem State.modDom_areas (s : State) (n : Nat) (g : Domain → Domain) : (s.modDom n g).areas = s.areas := rfl
@[simp] theorem State.modDom_images (s : State) (n : Nat) (g : Domain → Domain) : (s.modDom n g).images = s.images := rfl
@[simp] theorem State.modDom_bootCards (s : State) (n : Nat) (g : Domain → Domain) : (s.modDom n g).bootCards = s.bootCards := rfl
@[simp] theorem State.modDom_merge (s : State) (n : Nat) (g : Domain → Domain) : (s.modDom n g).merge = s.merge := rfl
@[simp] theorem State.modDom_quekin (s : State) (n : Nat) (g : Domain → Domain) : (s.modDom n g).quekin = s.quekin := rfl
@[simp] theorem State.modDom_quekout (s : State) (n : Nat) (g : Domain → Domain) : (s.modDom n g).quekout = s.quekout := rfl
@[simp] theorem State.modDom_tier (s : State) (n : Nat) (g : Domain → Domain) : (s.modDom n g).tier = s.tier := rfl
@[simp] theorem State.modDom_mem (s : State) (n : Nat) (g : Domain → Domain) : (s.modDom n g).mem = s.mem := rfl
@[simp] theorem State.modDom_poison (s : State) (n : Nat) (g : Domain → Domain) : (s.modDom n g).poison = s.poison := rfl
@[simp] theorem State.modDom_dirty (s : State) (n : Nat) (g : Domain → Domain) : (s.modDom n g).dirty = s.dirty := rfl
@[simp] theorem State.modDom_out (s : State) (n : Nat) (g : Domain → Domain) : (s.modDom n g).out = s.out := rfl
@[simp] theorem State.modDom_nextCard (s : State) (n : Nat) (g : Domain → Domain) : (s.modDom n g).nextCard = s.nextCard := rfl
@[simp] theorem State.modDom_ticks (s : State) (n : Nat) (g : Domain → Domain) : (s.modDom n g).ticks = s.ticks := rfl
@[simp] theorem State.modDom_free (s : State) (n : Nat) (g : Domain → Domain) : (s.modDom n g).free = s.free := rfl
@[simp] theorem State.modDom_jseq (s : State) (n : Nat) (g : Domain → Domain) : (s.modDom n g).jseq = s.jseq := rfl
@[simp] theorem State.modDom_held (s : State) (n : Nat) (g : Domain → Domain) : (s.modDom n g).held = s.held := rfl
@[simp] theorem State.modDom_posts (s : State) (n : Nat) (g : Domain → Domain) : (s.modDom n g).posts = s.posts := rfl

@[simp] theorem State.due_cur (s : State) (d : Due) : (s.due d).cur = s.cur := rfl
@[simp] theorem State.due_turns (s : State) (d : Due) : (s.due d).turns = s.turns := rfl
@[simp] theorem State.due_cores (s : State) (d : Due) : (s.due d).cores = s.cores := rfl
@[simp] theorem State.due_clus (s : State) (d : Due) : (s.due d).clus = s.clus := rfl
@[simp] theorem State.due_dies (s : State) (d : Due) : (s.due d).dies = s.dies := rfl
@[simp] theorem State.due_layers (s : State) (d : Due) : (s.due d).layers = s.layers := rfl
@[simp] theorem State.due_dev (s : State) (d : Due) : (s.due d).dev = s.dev := rfl
@[simp] theorem State.due_queues (s : State) (d : Due) : (s.due d).queues = s.queues := rfl
@[simp] theorem State.due_cards (s : State) (d : Due) : (s.due d).cards = s.cards := rfl
@[simp] theorem State.due_gangs (s : State) (d : Due) : (s.due d).gangs = s.gangs := rfl
@[simp] theorem State.due_doms (s : State) (d : Due) : (s.due d).doms = s.doms := rfl
@[simp] theorem State.due_areas (s : State) (d : Due) : (s.due d).areas = s.areas := rfl
@[simp] theorem State.due_images (s : State) (d : Due) : (s.due d).images = s.images := rfl
@[simp] theorem State.due_bootCards (s : State) (d : Due) : (s.due d).bootCards = s.bootCards := rfl
@[simp] theorem State.due_merge (s : State) (d : Due) : (s.due d).merge = s.merge := rfl
@[simp] theorem State.due_quekin (s : State) (d : Due) : (s.due d).quekin = s.quekin := rfl
@[simp] theorem State.due_quekout (s : State) (d : Due) : (s.due d).quekout = s.quekout := rfl
@[simp] theorem State.due_tier (s : State) (d : Due) : (s.due d).tier = s.tier := rfl
@[simp] theorem State.due_mem (s : State) (d : Due) : (s.due d).mem = s.mem := rfl
@[simp] theorem State.due_poison (s : State) (d : Due) : (s.due d).poison = s.poison := rfl
@[simp] theorem State.due_dirty (s : State) (d : Due) : (s.due d).dirty = s.dirty := rfl
@[simp] theorem State.due_out (s : State) (d : Due) : (s.due d).out = s.out := rfl
@[simp] theorem State.due_nextCard (s : State) (d : Due) : (s.due d).nextCard = s.nextCard := rfl
@[simp] theorem State.due_ticks (s : State) (d : Due) : (s.due d).ticks = s.ticks := rfl
@[simp] theorem State.due_free (s : State) (d : Due) : (s.due d).free = s.free := rfl
@[simp] theorem State.due_jseq (s : State) (d : Due) : (s.due d).jseq = s.jseq := rfl
@[simp] theorem State.due_held (s : State) (d : Due) : (s.due d).held = s.held := rfl
@[simp] theorem State.due_posts (s : State) (d : Due) : (s.due d).posts = s.posts := rfl

@[simp] theorem State.addDev_cur (s : State) (g : Dev → Dev) : (s.addDev g).cur = s.cur := rfl
@[simp] theorem State.addDev_turns (s : State) (g : Dev → Dev) : (s.addDev g).turns = s.turns := rfl
@[simp] theorem State.addDev_agenda (s : State) (g : Dev → Dev) : (s.addDev g).agenda = s.agenda := rfl
@[simp] theorem State.addDev_cores (s : State) (g : Dev → Dev) : (s.addDev g).cores = s.cores := rfl
@[simp] theorem State.addDev_clus (s : State) (g : Dev → Dev) : (s.addDev g).clus = s.clus := rfl
@[simp] theorem State.addDev_dies (s : State) (g : Dev → Dev) : (s.addDev g).dies = s.dies := rfl
@[simp] theorem State.addDev_layers (s : State) (g : Dev → Dev) : (s.addDev g).layers = s.layers := rfl
@[simp] theorem State.addDev_queues (s : State) (g : Dev → Dev) : (s.addDev g).queues = s.queues := rfl
@[simp] theorem State.addDev_cards (s : State) (g : Dev → Dev) : (s.addDev g).cards = s.cards := rfl
@[simp] theorem State.addDev_gangs (s : State) (g : Dev → Dev) : (s.addDev g).gangs = s.gangs := rfl
@[simp] theorem State.addDev_doms (s : State) (g : Dev → Dev) : (s.addDev g).doms = s.doms := rfl
@[simp] theorem State.addDev_areas (s : State) (g : Dev → Dev) : (s.addDev g).areas = s.areas := rfl
@[simp] theorem State.addDev_images (s : State) (g : Dev → Dev) : (s.addDev g).images = s.images := rfl
@[simp] theorem State.addDev_bootCards (s : State) (g : Dev → Dev) : (s.addDev g).bootCards = s.bootCards := rfl
@[simp] theorem State.addDev_merge (s : State) (g : Dev → Dev) : (s.addDev g).merge = s.merge := rfl
@[simp] theorem State.addDev_quekin (s : State) (g : Dev → Dev) : (s.addDev g).quekin = s.quekin := rfl
@[simp] theorem State.addDev_quekout (s : State) (g : Dev → Dev) : (s.addDev g).quekout = s.quekout := rfl
@[simp] theorem State.addDev_tier (s : State) (g : Dev → Dev) : (s.addDev g).tier = s.tier := rfl
@[simp] theorem State.addDev_mem (s : State) (g : Dev → Dev) : (s.addDev g).mem = s.mem := rfl
@[simp] theorem State.addDev_poison (s : State) (g : Dev → Dev) : (s.addDev g).poison = s.poison := rfl
@[simp] theorem State.addDev_dirty (s : State) (g : Dev → Dev) : (s.addDev g).dirty = s.dirty := rfl
@[simp] theorem State.addDev_out (s : State) (g : Dev → Dev) : (s.addDev g).out = s.out := rfl
@[simp] theorem State.addDev_nextCard (s : State) (g : Dev → Dev) : (s.addDev g).nextCard = s.nextCard := rfl
@[simp] theorem State.addDev_ticks (s : State) (g : Dev → Dev) : (s.addDev g).ticks = s.ticks := rfl
@[simp] theorem State.addDev_free (s : State) (g : Dev → Dev) : (s.addDev g).free = s.free := rfl
@[simp] theorem State.addDev_jseq (s : State) (g : Dev → Dev) : (s.addDev g).jseq = s.jseq := rfl
@[simp] theorem State.addDev_held (s : State) (g : Dev → Dev) : (s.addDev g).held = s.held := rfl
@[simp] theorem State.addDev_posts (s : State) (g : Dev → Dev) : (s.addDev g).posts = s.posts := rfl

@[simp] theorem State.poisonLines_cur (s : State) (locs : List Nat) : (s.poisonLines locs).cur = s.cur := rfl
@[simp] theorem State.poisonLines_turns (s : State) (locs : List Nat) : (s.poisonLines locs).turns = s.turns := rfl
@[simp] theorem State.poisonLines_agenda (s : State) (locs : List Nat) : (s.poisonLines locs).agenda = s.agenda := rfl
@[simp] theorem State.poisonLines_cores (s : State) (locs : List Nat) : (s.poisonLines locs).cores = s.cores := rfl
@[simp] theorem State.poisonLines_clus (s : State) (locs : List Nat) : (s.poisonLines locs).clus = s.clus := rfl
@[simp] theorem State.poisonLines_dies (s : State) (locs : List Nat) : (s.poisonLines locs).dies = s.dies := rfl
@[simp] theorem State.poisonLines_layers (s : State) (locs : List Nat) : (s.poisonLines locs).layers = s.layers := rfl
@[simp] theorem State.poisonLines_dev (s : State) (locs : List Nat) : (s.poisonLines locs).dev = s.dev := rfl
@[simp] theorem State.poisonLines_queues (s : State) (locs : List Nat) : (s.poisonLines locs).queues = s.queues := rfl
@[simp] theorem State.poisonLines_cards (s : State) (locs : List Nat) : (s.poisonLines locs).cards = s.cards := rfl
@[simp] theorem State.poisonLines_gangs (s : State) (locs : List Nat) : (s.poisonLines locs).gangs = s.gangs := rfl
@[simp] theorem State.poisonLines_doms (s : State) (locs : List Nat) : (s.poisonLines locs).doms = s.doms := rfl
@[simp] theorem State.poisonLines_areas (s : State) (locs : List Nat) : (s.poisonLines locs).areas = s.areas := rfl
@[simp] theorem State.poisonLines_images (s : State) (locs : List Nat) : (s.poisonLines locs).images = s.images := rfl
@[simp] theorem State.poisonLines_bootCards (s : State) (locs : List Nat) : (s.poisonLines locs).bootCards = s.bootCards := rfl
@[simp] theorem State.poisonLines_merge (s : State) (locs : List Nat) : (s.poisonLines locs).merge = s.merge := rfl
@[simp] theorem State.poisonLines_quekin (s : State) (locs : List Nat) : (s.poisonLines locs).quekin = s.quekin := rfl
@[simp] theorem State.poisonLines_quekout (s : State) (locs : List Nat) : (s.poisonLines locs).quekout = s.quekout := rfl
@[simp] theorem State.poisonLines_tier (s : State) (locs : List Nat) : (s.poisonLines locs).tier = s.tier := rfl
@[simp] theorem State.poisonLines_mem (s : State) (locs : List Nat) : (s.poisonLines locs).mem = s.mem := rfl
@[simp] theorem State.poisonLines_dirty (s : State) (locs : List Nat) : (s.poisonLines locs).dirty = s.dirty := rfl
@[simp] theorem State.poisonLines_out (s : State) (locs : List Nat) : (s.poisonLines locs).out = s.out := rfl
@[simp] theorem State.poisonLines_nextCard (s : State) (locs : List Nat) : (s.poisonLines locs).nextCard = s.nextCard := rfl
@[simp] theorem State.poisonLines_ticks (s : State) (locs : List Nat) : (s.poisonLines locs).ticks = s.ticks := rfl
@[simp] theorem State.poisonLines_free (s : State) (locs : List Nat) : (s.poisonLines locs).free = s.free := rfl
@[simp] theorem State.poisonLines_jseq (s : State) (locs : List Nat) : (s.poisonLines locs).jseq = s.jseq := rfl
@[simp] theorem State.poisonLines_held (s : State) (locs : List Nat) : (s.poisonLines locs).held = s.held := rfl
@[simp] theorem State.poisonLines_posts (s : State) (locs : List Nat) : (s.poisonLines locs).posts = s.posts := rfl

@[simp] theorem State.bump_cur (s : State) (a : CtxId) (ev : Nat) : (s.bump a ev).cur = s.cur := by
  unfold State.bump; split <;> rfl
@[simp] theorem State.bump_turns (s : State) (a : CtxId) (ev : Nat) : (s.bump a ev).turns = s.turns := by
  unfold State.bump; split <;> rfl
@[simp] theorem State.bump_agenda (s : State) (a : CtxId) (ev : Nat) : (s.bump a ev).agenda = s.agenda := by
  unfold State.bump; split <;> rfl
@[simp] theorem State.bump_clus (s : State) (a : CtxId) (ev : Nat) : (s.bump a ev).clus = s.clus := by
  unfold State.bump; split <;> rfl
@[simp] theorem State.bump_dies (s : State) (a : CtxId) (ev : Nat) : (s.bump a ev).dies = s.dies := by
  unfold State.bump; split <;> rfl
@[simp] theorem State.bump_layers (s : State) (a : CtxId) (ev : Nat) : (s.bump a ev).layers = s.layers := by
  unfold State.bump; split <;> rfl
@[simp] theorem State.bump_dev (s : State) (a : CtxId) (ev : Nat) : (s.bump a ev).dev = s.dev := by
  unfold State.bump; split <;> rfl
@[simp] theorem State.bump_queues (s : State) (a : CtxId) (ev : Nat) : (s.bump a ev).queues = s.queues := by
  unfold State.bump; split <;> rfl
@[simp] theorem State.bump_cards (s : State) (a : CtxId) (ev : Nat) : (s.bump a ev).cards = s.cards := by
  unfold State.bump; split <;> rfl
@[simp] theorem State.bump_gangs (s : State) (a : CtxId) (ev : Nat) : (s.bump a ev).gangs = s.gangs := by
  unfold State.bump; split <;> rfl
@[simp] theorem State.bump_doms (s : State) (a : CtxId) (ev : Nat) : (s.bump a ev).doms = s.doms := by
  unfold State.bump; split <;> rfl
@[simp] theorem State.bump_areas (s : State) (a : CtxId) (ev : Nat) : (s.bump a ev).areas = s.areas := by
  unfold State.bump; split <;> rfl
@[simp] theorem State.bump_images (s : State) (a : CtxId) (ev : Nat) : (s.bump a ev).images = s.images := by
  unfold State.bump; split <;> rfl
@[simp] theorem State.bump_bootCards (s : State) (a : CtxId) (ev : Nat) : (s.bump a ev).bootCards = s.bootCards := by
  unfold State.bump; split <;> rfl
@[simp] theorem State.bump_merge (s : State) (a : CtxId) (ev : Nat) : (s.bump a ev).merge = s.merge := by
  unfold State.bump; split <;> rfl
@[simp] theorem State.bump_quekin (s : State) (a : CtxId) (ev : Nat) : (s.bump a ev).quekin = s.quekin := by
  unfold State.bump; split <;> rfl
@[simp] theorem State.bump_quekout (s : State) (a : CtxId) (ev : Nat) : (s.bump a ev).quekout = s.quekout := by
  unfold State.bump; split <;> rfl
@[simp] theorem State.bump_tier (s : State) (a : CtxId) (ev : Nat) : (s.bump a ev).tier = s.tier := by
  unfold State.bump; split <;> rfl
@[simp] theorem State.bump_mem (s : State) (a : CtxId) (ev : Nat) : (s.bump a ev).mem = s.mem := by
  unfold State.bump; split <;> rfl
@[simp] theorem State.bump_poison (s : State) (a : CtxId) (ev : Nat) : (s.bump a ev).poison = s.poison := by
  unfold State.bump; split <;> rfl
@[simp] theorem State.bump_dirty (s : State) (a : CtxId) (ev : Nat) : (s.bump a ev).dirty = s.dirty := by
  unfold State.bump; split <;> rfl
@[simp] theorem State.bump_out (s : State) (a : CtxId) (ev : Nat) : (s.bump a ev).out = s.out := by
  unfold State.bump; split <;> rfl
@[simp] theorem State.bump_nextCard (s : State) (a : CtxId) (ev : Nat) : (s.bump a ev).nextCard = s.nextCard := by
  unfold State.bump; split <;> rfl
@[simp] theorem State.bump_ticks (s : State) (a : CtxId) (ev : Nat) : (s.bump a ev).ticks = s.ticks := by
  unfold State.bump; split <;> rfl
@[simp] theorem State.bump_free (s : State) (a : CtxId) (ev : Nat) : (s.bump a ev).free = s.free := by
  unfold State.bump; split <;> rfl
@[simp] theorem State.bump_jseq (s : State) (a : CtxId) (ev : Nat) : (s.bump a ev).jseq = s.jseq := by
  unfold State.bump; split <;> rfl
@[simp] theorem State.bump_held (s : State) (a : CtxId) (ev : Nat) : (s.bump a ev).held = s.held := by
  unfold State.bump; split <;> rfl
@[simp] theorem State.bump_posts (s : State) (a : CtxId) (ev : Nat) : (s.bump a ev).posts = s.posts := by
  unfold State.bump; split <;> rfl

@[simp] theorem State.bumpCluster_cur (s : State) (cl ev n : Nat) : (s.bumpCluster cl ev n).cur = s.cur := by
  unfold State.bumpCluster; split <;> rfl
@[simp] theorem State.bumpCluster_turns (s : State) (cl ev n : Nat) : (s.bumpCluster cl ev n).turns = s.turns := by
  unfold State.bumpCluster; split <;> rfl
@[simp] theorem State.bumpCluster_agenda (s : State) (cl ev n : Nat) : (s.bumpCluster cl ev n).agenda = s.agenda := by
  unfold State.bumpCluster; split <;> rfl
@[simp] theorem State.bumpCluster_cores (s : State) (cl ev n : Nat) : (s.bumpCluster cl ev n).cores = s.cores := by
  unfold State.bumpCluster; split <;> rfl
@[simp] theorem State.bumpCluster_dies (s : State) (cl ev n : Nat) : (s.bumpCluster cl ev n).dies = s.dies := by
  unfold State.bumpCluster; split <;> rfl
@[simp] theorem State.bumpCluster_layers (s : State) (cl ev n : Nat) : (s.bumpCluster cl ev n).layers = s.layers := by
  unfold State.bumpCluster; split <;> rfl
@[simp] theorem State.bumpCluster_dev (s : State) (cl ev n : Nat) : (s.bumpCluster cl ev n).dev = s.dev := by
  unfold State.bumpCluster; split <;> rfl
@[simp] theorem State.bumpCluster_queues (s : State) (cl ev n : Nat) : (s.bumpCluster cl ev n).queues = s.queues := by
  unfold State.bumpCluster; split <;> rfl
@[simp] theorem State.bumpCluster_cards (s : State) (cl ev n : Nat) : (s.bumpCluster cl ev n).cards = s.cards := by
  unfold State.bumpCluster; split <;> rfl
@[simp] theorem State.bumpCluster_gangs (s : State) (cl ev n : Nat) : (s.bumpCluster cl ev n).gangs = s.gangs := by
  unfold State.bumpCluster; split <;> rfl
@[simp] theorem State.bumpCluster_doms (s : State) (cl ev n : Nat) : (s.bumpCluster cl ev n).doms = s.doms := by
  unfold State.bumpCluster; split <;> rfl
@[simp] theorem State.bumpCluster_areas (s : State) (cl ev n : Nat) : (s.bumpCluster cl ev n).areas = s.areas := by
  unfold State.bumpCluster; split <;> rfl
@[simp] theorem State.bumpCluster_images (s : State) (cl ev n : Nat) : (s.bumpCluster cl ev n).images = s.images := by
  unfold State.bumpCluster; split <;> rfl
@[simp] theorem State.bumpCluster_bootCards (s : State) (cl ev n : Nat) : (s.bumpCluster cl ev n).bootCards = s.bootCards := by
  unfold State.bumpCluster; split <;> rfl
@[simp] theorem State.bumpCluster_merge (s : State) (cl ev n : Nat) : (s.bumpCluster cl ev n).merge = s.merge := by
  unfold State.bumpCluster; split <;> rfl
@[simp] theorem State.bumpCluster_quekin (s : State) (cl ev n : Nat) : (s.bumpCluster cl ev n).quekin = s.quekin := by
  unfold State.bumpCluster; split <;> rfl
@[simp] theorem State.bumpCluster_quekout (s : State) (cl ev n : Nat) : (s.bumpCluster cl ev n).quekout = s.quekout := by
  unfold State.bumpCluster; split <;> rfl
@[simp] theorem State.bumpCluster_tier (s : State) (cl ev n : Nat) : (s.bumpCluster cl ev n).tier = s.tier := by
  unfold State.bumpCluster; split <;> rfl
@[simp] theorem State.bumpCluster_mem (s : State) (cl ev n : Nat) : (s.bumpCluster cl ev n).mem = s.mem := by
  unfold State.bumpCluster; split <;> rfl
@[simp] theorem State.bumpCluster_poison (s : State) (cl ev n : Nat) : (s.bumpCluster cl ev n).poison = s.poison := by
  unfold State.bumpCluster; split <;> rfl
@[simp] theorem State.bumpCluster_dirty (s : State) (cl ev n : Nat) : (s.bumpCluster cl ev n).dirty = s.dirty := by
  unfold State.bumpCluster; split <;> rfl
@[simp] theorem State.bumpCluster_out (s : State) (cl ev n : Nat) : (s.bumpCluster cl ev n).out = s.out := by
  unfold State.bumpCluster; split <;> rfl
@[simp] theorem State.bumpCluster_nextCard (s : State) (cl ev n : Nat) : (s.bumpCluster cl ev n).nextCard = s.nextCard := by
  unfold State.bumpCluster; split <;> rfl
@[simp] theorem State.bumpCluster_ticks (s : State) (cl ev n : Nat) : (s.bumpCluster cl ev n).ticks = s.ticks := by
  unfold State.bumpCluster; split <;> rfl
@[simp] theorem State.bumpCluster_free (s : State) (cl ev n : Nat) : (s.bumpCluster cl ev n).free = s.free := by
  unfold State.bumpCluster; split <;> rfl
@[simp] theorem State.bumpCluster_jseq (s : State) (cl ev n : Nat) : (s.bumpCluster cl ev n).jseq = s.jseq := by
  unfold State.bumpCluster; split <;> rfl
@[simp] theorem State.bumpCluster_held (s : State) (cl ev n : Nat) : (s.bumpCluster cl ev n).held = s.held := by
  unfold State.bumpCluster; split <;> rfl
@[simp] theorem State.bumpCluster_posts (s : State) (cl ev n : Nat) : (s.bumpCluster cl ev n).posts = s.posts := by
  unfold State.bumpCluster; split <;> rfl

@[simp] theorem State.bumpDie_cur (s : State) (d ev n : Nat) : (s.bumpDie d ev n).cur = s.cur := by
  unfold State.bumpDie; split <;> rfl
@[simp] theorem State.bumpDie_turns (s : State) (d ev n : Nat) : (s.bumpDie d ev n).turns = s.turns := by
  unfold State.bumpDie; split <;> rfl
@[simp] theorem State.bumpDie_agenda (s : State) (d ev n : Nat) : (s.bumpDie d ev n).agenda = s.agenda := by
  unfold State.bumpDie; split <;> rfl
@[simp] theorem State.bumpDie_cores (s : State) (d ev n : Nat) : (s.bumpDie d ev n).cores = s.cores := by
  unfold State.bumpDie; split <;> rfl
@[simp] theorem State.bumpDie_clus (s : State) (d ev n : Nat) : (s.bumpDie d ev n).clus = s.clus := by
  unfold State.bumpDie; split <;> rfl
@[simp] theorem State.bumpDie_layers (s : State) (d ev n : Nat) : (s.bumpDie d ev n).layers = s.layers := by
  unfold State.bumpDie; split <;> rfl
@[simp] theorem State.bumpDie_dev (s : State) (d ev n : Nat) : (s.bumpDie d ev n).dev = s.dev := by
  unfold State.bumpDie; split <;> rfl
@[simp] theorem State.bumpDie_queues (s : State) (d ev n : Nat) : (s.bumpDie d ev n).queues = s.queues := by
  unfold State.bumpDie; split <;> rfl
@[simp] theorem State.bumpDie_cards (s : State) (d ev n : Nat) : (s.bumpDie d ev n).cards = s.cards := by
  unfold State.bumpDie; split <;> rfl
@[simp] theorem State.bumpDie_gangs (s : State) (d ev n : Nat) : (s.bumpDie d ev n).gangs = s.gangs := by
  unfold State.bumpDie; split <;> rfl
@[simp] theorem State.bumpDie_doms (s : State) (d ev n : Nat) : (s.bumpDie d ev n).doms = s.doms := by
  unfold State.bumpDie; split <;> rfl
@[simp] theorem State.bumpDie_areas (s : State) (d ev n : Nat) : (s.bumpDie d ev n).areas = s.areas := by
  unfold State.bumpDie; split <;> rfl
@[simp] theorem State.bumpDie_images (s : State) (d ev n : Nat) : (s.bumpDie d ev n).images = s.images := by
  unfold State.bumpDie; split <;> rfl
@[simp] theorem State.bumpDie_bootCards (s : State) (d ev n : Nat) : (s.bumpDie d ev n).bootCards = s.bootCards := by
  unfold State.bumpDie; split <;> rfl
@[simp] theorem State.bumpDie_merge (s : State) (d ev n : Nat) : (s.bumpDie d ev n).merge = s.merge := by
  unfold State.bumpDie; split <;> rfl
@[simp] theorem State.bumpDie_quekin (s : State) (d ev n : Nat) : (s.bumpDie d ev n).quekin = s.quekin := by
  unfold State.bumpDie; split <;> rfl
@[simp] theorem State.bumpDie_quekout (s : State) (d ev n : Nat) : (s.bumpDie d ev n).quekout = s.quekout := by
  unfold State.bumpDie; split <;> rfl
@[simp] theorem State.bumpDie_tier (s : State) (d ev n : Nat) : (s.bumpDie d ev n).tier = s.tier := by
  unfold State.bumpDie; split <;> rfl
@[simp] theorem State.bumpDie_mem (s : State) (d ev n : Nat) : (s.bumpDie d ev n).mem = s.mem := by
  unfold State.bumpDie; split <;> rfl
@[simp] theorem State.bumpDie_poison (s : State) (d ev n : Nat) : (s.bumpDie d ev n).poison = s.poison := by
  unfold State.bumpDie; split <;> rfl
@[simp] theorem State.bumpDie_dirty (s : State) (d ev n : Nat) : (s.bumpDie d ev n).dirty = s.dirty := by
  unfold State.bumpDie; split <;> rfl
@[simp] theorem State.bumpDie_out (s : State) (d ev n : Nat) : (s.bumpDie d ev n).out = s.out := by
  unfold State.bumpDie; split <;> rfl
@[simp] theorem State.bumpDie_nextCard (s : State) (d ev n : Nat) : (s.bumpDie d ev n).nextCard = s.nextCard := by
  unfold State.bumpDie; split <;> rfl
@[simp] theorem State.bumpDie_ticks (s : State) (d ev n : Nat) : (s.bumpDie d ev n).ticks = s.ticks := by
  unfold State.bumpDie; split <;> rfl
@[simp] theorem State.bumpDie_free (s : State) (d ev n : Nat) : (s.bumpDie d ev n).free = s.free := by
  unfold State.bumpDie; split <;> rfl
@[simp] theorem State.bumpDie_jseq (s : State) (d ev n : Nat) : (s.bumpDie d ev n).jseq = s.jseq := by
  unfold State.bumpDie; split <;> rfl
@[simp] theorem State.bumpDie_held (s : State) (d ev n : Nat) : (s.bumpDie d ev n).held = s.held := by
  unfold State.bumpDie; split <;> rfl
@[simp] theorem State.bumpDie_posts (s : State) (d ev n : Nat) : (s.bumpDie d ev n).posts = s.posts := by
  unfold State.bumpDie; split <;> rfl

@[simp] theorem State.giveTo_cur (s : State) (c : CoreId) (h : Nat) : (s.giveTo c h).cur = s.cur := by
  unfold State.giveTo; split <;> first | rfl | simp
@[simp] theorem State.giveTo_turns (s : State) (c : CoreId) (h : Nat) : (s.giveTo c h).turns = s.turns := by
  unfold State.giveTo; split <;> first | rfl | simp
@[simp] theorem State.giveTo_agenda (s : State) (c : CoreId) (h : Nat) : (s.giveTo c h).agenda = s.agenda := by
  unfold State.giveTo; split <;> first | rfl | simp
@[simp] theorem State.giveTo_clus (s : State) (c : CoreId) (h : Nat) : (s.giveTo c h).clus = s.clus := by
  unfold State.giveTo; split <;> first | rfl | simp
@[simp] theorem State.giveTo_dies (s : State) (c : CoreId) (h : Nat) : (s.giveTo c h).dies = s.dies := by
  unfold State.giveTo; split <;> first | rfl | simp
@[simp] theorem State.giveTo_layers (s : State) (c : CoreId) (h : Nat) : (s.giveTo c h).layers = s.layers := by
  unfold State.giveTo; split <;> first | rfl | simp
@[simp] theorem State.giveTo_dev (s : State) (c : CoreId) (h : Nat) : (s.giveTo c h).dev = s.dev := by
  unfold State.giveTo; split <;> first | rfl | simp
@[simp] theorem State.giveTo_queues (s : State) (c : CoreId) (h : Nat) : (s.giveTo c h).queues = s.queues := by
  unfold State.giveTo; split <;> first | rfl | simp
@[simp] theorem State.giveTo_cards (s : State) (c : CoreId) (h : Nat) : (s.giveTo c h).cards = s.cards := by
  unfold State.giveTo; split <;> first | rfl | simp
@[simp] theorem State.giveTo_gangs (s : State) (c : CoreId) (h : Nat) : (s.giveTo c h).gangs = s.gangs := by
  unfold State.giveTo; split <;> first | rfl | simp
@[simp] theorem State.giveTo_doms (s : State) (c : CoreId) (h : Nat) : (s.giveTo c h).doms = s.doms := by
  unfold State.giveTo; split <;> first | rfl | simp
@[simp] theorem State.giveTo_areas (s : State) (c : CoreId) (h : Nat) : (s.giveTo c h).areas = s.areas := by
  unfold State.giveTo; split <;> first | rfl | simp
@[simp] theorem State.giveTo_images (s : State) (c : CoreId) (h : Nat) : (s.giveTo c h).images = s.images := by
  unfold State.giveTo; split <;> first | rfl | simp
@[simp] theorem State.giveTo_bootCards (s : State) (c : CoreId) (h : Nat) : (s.giveTo c h).bootCards = s.bootCards := by
  unfold State.giveTo; split <;> first | rfl | simp
@[simp] theorem State.giveTo_merge (s : State) (c : CoreId) (h : Nat) : (s.giveTo c h).merge = s.merge := by
  unfold State.giveTo; split <;> first | rfl | simp
@[simp] theorem State.giveTo_quekin (s : State) (c : CoreId) (h : Nat) : (s.giveTo c h).quekin = s.quekin := by
  unfold State.giveTo; split <;> first | rfl | simp
@[simp] theorem State.giveTo_quekout (s : State) (c : CoreId) (h : Nat) : (s.giveTo c h).quekout = s.quekout := by
  unfold State.giveTo; split <;> first | rfl | simp
@[simp] theorem State.giveTo_tier (s : State) (c : CoreId) (h : Nat) : (s.giveTo c h).tier = s.tier := by
  unfold State.giveTo; split <;> first | rfl | simp
@[simp] theorem State.giveTo_mem (s : State) (c : CoreId) (h : Nat) : (s.giveTo c h).mem = s.mem := by
  unfold State.giveTo; split <;> first | rfl | simp
@[simp] theorem State.giveTo_poison (s : State) (c : CoreId) (h : Nat) : (s.giveTo c h).poison = s.poison := by
  unfold State.giveTo; split <;> first | rfl | simp
@[simp] theorem State.giveTo_dirty (s : State) (c : CoreId) (h : Nat) : (s.giveTo c h).dirty = s.dirty := by
  unfold State.giveTo; split <;> first | rfl | simp
@[simp] theorem State.giveTo_out (s : State) (c : CoreId) (h : Nat) : (s.giveTo c h).out = s.out := by
  unfold State.giveTo; split <;> first | rfl | simp
@[simp] theorem State.giveTo_nextCard (s : State) (c : CoreId) (h : Nat) : (s.giveTo c h).nextCard = s.nextCard := by
  unfold State.giveTo; split <;> first | rfl | simp
@[simp] theorem State.giveTo_ticks (s : State) (c : CoreId) (h : Nat) : (s.giveTo c h).ticks = s.ticks := by
  unfold State.giveTo; split <;> first | rfl | simp
@[simp] theorem State.giveTo_free (s : State) (c : CoreId) (h : Nat) : (s.giveTo c h).free = s.free := by
  unfold State.giveTo; split <;> first | rfl | simp
@[simp] theorem State.giveTo_jseq (s : State) (c : CoreId) (h : Nat) : (s.giveTo c h).jseq = s.jseq := by
  unfold State.giveTo; split <;> first | rfl | simp
@[simp] theorem State.giveTo_held (s : State) (c : CoreId) (h : Nat) : (s.giveTo c h).held = s.held := by
  unfold State.giveTo; split <;> first | rfl | simp
@[simp] theorem State.giveTo_posts (s : State) (c : CoreId) (h : Nat) : (s.giveTo c h).posts = s.posts := by
  unfold State.giveTo; split <;> first | rfl | simp

@[simp] theorem State.switch_cur (s : State) (c : CoreId) : (s.switch c).cur = s.cur := by simp [State.switch]
@[simp] theorem State.switch_turns (s : State) (c : CoreId) : (s.switch c).turns = s.turns := by simp [State.switch]
@[simp] theorem State.switch_agenda (s : State) (c : CoreId) : (s.switch c).agenda = s.agenda := by simp [State.switch]
@[simp] theorem State.switch_clus (s : State) (c : CoreId) : (s.switch c).clus = s.clus := by simp [State.switch]
@[simp] theorem State.switch_dies (s : State) (c : CoreId) : (s.switch c).dies = s.dies := by simp [State.switch]
@[simp] theorem State.switch_layers (s : State) (c : CoreId) : (s.switch c).layers = s.layers := by simp [State.switch]
@[simp] theorem State.switch_dev (s : State) (c : CoreId) : (s.switch c).dev = s.dev := by simp [State.switch]
@[simp] theorem State.switch_queues (s : State) (c : CoreId) : (s.switch c).queues = s.queues := by simp [State.switch]
@[simp] theorem State.switch_cards (s : State) (c : CoreId) : (s.switch c).cards = s.cards := by simp [State.switch]
@[simp] theorem State.switch_gangs (s : State) (c : CoreId) : (s.switch c).gangs = s.gangs := by simp [State.switch]
@[simp] theorem State.switch_doms (s : State) (c : CoreId) : (s.switch c).doms = s.doms := by simp [State.switch]
@[simp] theorem State.switch_areas (s : State) (c : CoreId) : (s.switch c).areas = s.areas := by simp [State.switch]
@[simp] theorem State.switch_images (s : State) (c : CoreId) : (s.switch c).images = s.images := by simp [State.switch]
@[simp] theorem State.switch_bootCards (s : State) (c : CoreId) : (s.switch c).bootCards = s.bootCards := by simp [State.switch]
@[simp] theorem State.switch_merge (s : State) (c : CoreId) : (s.switch c).merge = s.merge := by simp [State.switch]
@[simp] theorem State.switch_quekin (s : State) (c : CoreId) : (s.switch c).quekin = s.quekin := by simp [State.switch]
@[simp] theorem State.switch_quekout (s : State) (c : CoreId) : (s.switch c).quekout = s.quekout := by simp [State.switch]
@[simp] theorem State.switch_tier (s : State) (c : CoreId) : (s.switch c).tier = s.tier := by simp [State.switch]
@[simp] theorem State.switch_mem (s : State) (c : CoreId) : (s.switch c).mem = s.mem := by simp [State.switch]
@[simp] theorem State.switch_poison (s : State) (c : CoreId) : (s.switch c).poison = s.poison := by simp [State.switch]
@[simp] theorem State.switch_dirty (s : State) (c : CoreId) : (s.switch c).dirty = s.dirty := by simp [State.switch]
@[simp] theorem State.switch_out (s : State) (c : CoreId) : (s.switch c).out = s.out := by simp [State.switch]
@[simp] theorem State.switch_nextCard (s : State) (c : CoreId) : (s.switch c).nextCard = s.nextCard := by simp [State.switch]
@[simp] theorem State.switch_ticks (s : State) (c : CoreId) : (s.switch c).ticks = s.ticks := by simp [State.switch]
@[simp] theorem State.switch_free (s : State) (c : CoreId) : (s.switch c).free = s.free := by simp [State.switch]
@[simp] theorem State.switch_jseq (s : State) (c : CoreId) : (s.switch c).jseq = s.jseq := by simp [State.switch]
@[simp] theorem State.switch_held (s : State) (c : CoreId) : (s.switch c).held = s.held := by simp [State.switch]
@[simp] theorem State.switch_posts (s : State) (c : CoreId) : (s.switch c).posts = s.posts := by simp [State.switch]

@[simp] theorem State.noteHbm_cur (s : State) (ev : Nat) (locs : List Nat) : (s.noteHbm ev locs).cur = s.cur := by simp [State.noteHbm, List.range_succ]
@[simp] theorem State.noteHbm_turns (s : State) (ev : Nat) (locs : List Nat) : (s.noteHbm ev locs).turns = s.turns := by simp [State.noteHbm, List.range_succ]
@[simp] theorem State.noteHbm_agenda (s : State) (ev : Nat) (locs : List Nat) : (s.noteHbm ev locs).agenda = s.agenda := by simp [State.noteHbm, List.range_succ]
@[simp] theorem State.noteHbm_cores (s : State) (ev : Nat) (locs : List Nat) : (s.noteHbm ev locs).cores = s.cores := by simp [State.noteHbm, List.range_succ]
@[simp] theorem State.noteHbm_clus (s : State) (ev : Nat) (locs : List Nat) : (s.noteHbm ev locs).clus = s.clus := by simp [State.noteHbm, List.range_succ]
@[simp] theorem State.noteHbm_layers (s : State) (ev : Nat) (locs : List Nat) : (s.noteHbm ev locs).layers = s.layers := by simp [State.noteHbm, List.range_succ]
@[simp] theorem State.noteHbm_dev (s : State) (ev : Nat) (locs : List Nat) : (s.noteHbm ev locs).dev = s.dev := by simp [State.noteHbm, List.range_succ]
@[simp] theorem State.noteHbm_queues (s : State) (ev : Nat) (locs : List Nat) : (s.noteHbm ev locs).queues = s.queues := by simp [State.noteHbm, List.range_succ]
@[simp] theorem State.noteHbm_cards (s : State) (ev : Nat) (locs : List Nat) : (s.noteHbm ev locs).cards = s.cards := by simp [State.noteHbm, List.range_succ]
@[simp] theorem State.noteHbm_gangs (s : State) (ev : Nat) (locs : List Nat) : (s.noteHbm ev locs).gangs = s.gangs := by simp [State.noteHbm, List.range_succ]
@[simp] theorem State.noteHbm_doms (s : State) (ev : Nat) (locs : List Nat) : (s.noteHbm ev locs).doms = s.doms := by simp [State.noteHbm, List.range_succ]
@[simp] theorem State.noteHbm_areas (s : State) (ev : Nat) (locs : List Nat) : (s.noteHbm ev locs).areas = s.areas := by simp [State.noteHbm, List.range_succ]
@[simp] theorem State.noteHbm_images (s : State) (ev : Nat) (locs : List Nat) : (s.noteHbm ev locs).images = s.images := by simp [State.noteHbm, List.range_succ]
@[simp] theorem State.noteHbm_bootCards (s : State) (ev : Nat) (locs : List Nat) : (s.noteHbm ev locs).bootCards = s.bootCards := by simp [State.noteHbm, List.range_succ]
@[simp] theorem State.noteHbm_merge (s : State) (ev : Nat) (locs : List Nat) : (s.noteHbm ev locs).merge = s.merge := by simp [State.noteHbm, List.range_succ]
@[simp] theorem State.noteHbm_quekin (s : State) (ev : Nat) (locs : List Nat) : (s.noteHbm ev locs).quekin = s.quekin := by simp [State.noteHbm, List.range_succ]
@[simp] theorem State.noteHbm_quekout (s : State) (ev : Nat) (locs : List Nat) : (s.noteHbm ev locs).quekout = s.quekout := by simp [State.noteHbm, List.range_succ]
@[simp] theorem State.noteHbm_tier (s : State) (ev : Nat) (locs : List Nat) : (s.noteHbm ev locs).tier = s.tier := by simp [State.noteHbm, List.range_succ]
@[simp] theorem State.noteHbm_mem (s : State) (ev : Nat) (locs : List Nat) : (s.noteHbm ev locs).mem = s.mem := by simp [State.noteHbm, List.range_succ]
@[simp] theorem State.noteHbm_poison (s : State) (ev : Nat) (locs : List Nat) : (s.noteHbm ev locs).poison = s.poison := by simp [State.noteHbm, List.range_succ]
@[simp] theorem State.noteHbm_dirty (s : State) (ev : Nat) (locs : List Nat) : (s.noteHbm ev locs).dirty = s.dirty := by simp [State.noteHbm, List.range_succ]
@[simp] theorem State.noteHbm_out (s : State) (ev : Nat) (locs : List Nat) : (s.noteHbm ev locs).out = s.out := by simp [State.noteHbm, List.range_succ]
@[simp] theorem State.noteHbm_nextCard (s : State) (ev : Nat) (locs : List Nat) : (s.noteHbm ev locs).nextCard = s.nextCard := by simp [State.noteHbm, List.range_succ]
@[simp] theorem State.noteHbm_ticks (s : State) (ev : Nat) (locs : List Nat) : (s.noteHbm ev locs).ticks = s.ticks := by simp [State.noteHbm, List.range_succ]
@[simp] theorem State.noteHbm_free (s : State) (ev : Nat) (locs : List Nat) : (s.noteHbm ev locs).free = s.free := by simp [State.noteHbm, List.range_succ]
@[simp] theorem State.noteHbm_jseq (s : State) (ev : Nat) (locs : List Nat) : (s.noteHbm ev locs).jseq = s.jseq := by simp [State.noteHbm, List.range_succ]
@[simp] theorem State.noteHbm_held (s : State) (ev : Nat) (locs : List Nat) : (s.noteHbm ev locs).held = s.held := by simp [State.noteHbm, List.range_succ]
@[simp] theorem State.noteHbm_posts (s : State) (ev : Nat) (locs : List Nat) : (s.noteHbm ev locs).posts = s.posts := by simp [State.noteHbm, List.range_succ]

@[simp] theorem State.noteRead_cur (s : State) (a : CtxId) (locs : List Nat) : (s.noteRead a locs).cur = s.cur := by simp [State.noteRead]
@[simp] theorem State.noteRead_turns (s : State) (a : CtxId) (locs : List Nat) : (s.noteRead a locs).turns = s.turns := by simp [State.noteRead]
@[simp] theorem State.noteRead_agenda (s : State) (a : CtxId) (locs : List Nat) : (s.noteRead a locs).agenda = s.agenda := by simp [State.noteRead]
@[simp] theorem State.noteRead_clus (s : State) (a : CtxId) (locs : List Nat) : (s.noteRead a locs).clus = s.clus := by simp [State.noteRead]
@[simp] theorem State.noteRead_layers (s : State) (a : CtxId) (locs : List Nat) : (s.noteRead a locs).layers = s.layers := by simp [State.noteRead]
@[simp] theorem State.noteRead_dev (s : State) (a : CtxId) (locs : List Nat) : (s.noteRead a locs).dev = s.dev := by simp [State.noteRead]
@[simp] theorem State.noteRead_queues (s : State) (a : CtxId) (locs : List Nat) : (s.noteRead a locs).queues = s.queues := by simp [State.noteRead]
@[simp] theorem State.noteRead_cards (s : State) (a : CtxId) (locs : List Nat) : (s.noteRead a locs).cards = s.cards := by simp [State.noteRead]
@[simp] theorem State.noteRead_gangs (s : State) (a : CtxId) (locs : List Nat) : (s.noteRead a locs).gangs = s.gangs := by simp [State.noteRead]
@[simp] theorem State.noteRead_doms (s : State) (a : CtxId) (locs : List Nat) : (s.noteRead a locs).doms = s.doms := by simp [State.noteRead]
@[simp] theorem State.noteRead_areas (s : State) (a : CtxId) (locs : List Nat) : (s.noteRead a locs).areas = s.areas := by simp [State.noteRead]
@[simp] theorem State.noteRead_images (s : State) (a : CtxId) (locs : List Nat) : (s.noteRead a locs).images = s.images := by simp [State.noteRead]
@[simp] theorem State.noteRead_bootCards (s : State) (a : CtxId) (locs : List Nat) : (s.noteRead a locs).bootCards = s.bootCards := by simp [State.noteRead]
@[simp] theorem State.noteRead_merge (s : State) (a : CtxId) (locs : List Nat) : (s.noteRead a locs).merge = s.merge := by simp [State.noteRead]
@[simp] theorem State.noteRead_quekin (s : State) (a : CtxId) (locs : List Nat) : (s.noteRead a locs).quekin = s.quekin := by simp [State.noteRead]
@[simp] theorem State.noteRead_quekout (s : State) (a : CtxId) (locs : List Nat) : (s.noteRead a locs).quekout = s.quekout := by simp [State.noteRead]
@[simp] theorem State.noteRead_tier (s : State) (a : CtxId) (locs : List Nat) : (s.noteRead a locs).tier = s.tier := by simp [State.noteRead]
@[simp] theorem State.noteRead_mem (s : State) (a : CtxId) (locs : List Nat) : (s.noteRead a locs).mem = s.mem := by simp [State.noteRead]
@[simp] theorem State.noteRead_poison (s : State) (a : CtxId) (locs : List Nat) : (s.noteRead a locs).poison = s.poison := by simp [State.noteRead]
@[simp] theorem State.noteRead_dirty (s : State) (a : CtxId) (locs : List Nat) : (s.noteRead a locs).dirty = s.dirty := by simp [State.noteRead]
@[simp] theorem State.noteRead_out (s : State) (a : CtxId) (locs : List Nat) : (s.noteRead a locs).out = s.out := by simp [State.noteRead]
@[simp] theorem State.noteRead_nextCard (s : State) (a : CtxId) (locs : List Nat) : (s.noteRead a locs).nextCard = s.nextCard := by simp [State.noteRead]
@[simp] theorem State.noteRead_ticks (s : State) (a : CtxId) (locs : List Nat) : (s.noteRead a locs).ticks = s.ticks := by simp [State.noteRead]
@[simp] theorem State.noteRead_free (s : State) (a : CtxId) (locs : List Nat) : (s.noteRead a locs).free = s.free := by simp [State.noteRead]
@[simp] theorem State.noteRead_jseq (s : State) (a : CtxId) (locs : List Nat) : (s.noteRead a locs).jseq = s.jseq := by simp [State.noteRead]
@[simp] theorem State.noteRead_held (s : State) (a : CtxId) (locs : List Nat) : (s.noteRead a locs).held = s.held := by simp [State.noteRead]
@[simp] theorem State.noteRead_posts (s : State) (a : CtxId) (locs : List Nat) : (s.noteRead a locs).posts = s.posts := by simp [State.noteRead]

/-! Reads after writes. -/

theorem coreKey_injective {a b : CoreId} (h : a.key = b.key) : a = b := by
  obtain ⟨k, i⟩ := a
  obtain ⟨l, j⟩ := b
  unfold CoreId.key at h
  cases k <;> cases l <;> simp [CoreKind.code] at h ⊢ <;> omega

@[simp] theorem State.core_setCore (s : State) (c : CoreId) (x : Core) : (s.setCore c x).core c = x := by
  simp [State.core, State.setCore]

theorem State.core_setCore_other (s : State) {c d : CoreId} (x : Core) (h : d ≠ c) : (s.setCore c x).core d = s.core d := by
  unfold State.core State.setCore
  exact SMap.read_put_other _ _ _ fun hk => h (coreKey_injective hk)

@[simp] theorem State.core_modCore (s : State) (c : CoreId) (g : Core → Core) : (s.modCore c g).core c = g (s.core c) :=
  State.core_setCore s c _

theorem State.core_modCore_other (s : State) {c d : CoreId} (g : Core → Core) (h : d ≠ c) : (s.modCore c g).core d = s.core d :=
  State.core_setCore_other s _ h

@[simp] theorem State.ctx_setCtx (s : State) (a : CtxId) (x : Ctx) : (s.setCtx a x).ctx a = x := by
  simp [State.ctx, State.setCtx]

theorem State.ctx_setCtx_other (s : State) {a b : CtxId} (x : Ctx) (h : b ≠ a) : (s.setCtx a x).ctx b = s.ctx b := by
  unfold State.ctx State.setCtx
  by_cases hc : b.core = a.core
  · rw [hc, State.core_setCore]
    refine SMap.read_put_other _ _ _ fun hk => h ?_
    obtain ⟨c, k⟩ := a
    obtain ⟨d, l⟩ := b
    simp_all
  · rw [State.core_setCore_other s _ hc]

@[simp] theorem State.ctx_modCtx (s : State) (a : CtxId) (g : Ctx → Ctx) : (s.modCtx a g).ctx a = g (s.ctx a) :=
  State.ctx_setCtx s a _

theorem State.ctx_modCtx_other (s : State) {a b : CtxId} (g : Ctx → Ctx) (h : b ≠ a) : (s.modCtx a g).ctx b = s.ctx b :=
  State.ctx_setCtx_other s _ h

/-- A core's other parts are untouched by a change of one of its contexts. -/
theorem State.core_modCtx (s : State) (a : CtxId) (g : Ctx → Ctx) :
    (s.modCtx a g).core a.core = { s.core a.core with ctxs := SMap.put (s.core a.core).ctxs a.ctx (g (s.ctx a)) } := by
  simp [State.modCtx, State.setCtx]

theorem State.core_modCtx_other (s : State) (a : CtxId) {d : CoreId} (g : Ctx → Ctx) (h : d ≠ a.core) :
    (s.modCtx a g).core d = s.core d :=
  State.core_setCore_other s _ h

/-- A change of a core that keeps its contexts keeps every context. -/
theorem State.ctx_modCore (s : State) (c : CoreId) (g : Core → Core) (h : (g (s.core c)).ctxs = (s.core c).ctxs) (b : CtxId) :
    (s.modCore c g).ctx b = s.ctx b := by
  unfold State.ctx
  by_cases hc : b.core = c
  · subst hc; simp [h]
  · rw [State.core_modCore_other s g hc]

@[simp] theorem State.ctx_setRegs (s : State) (a : CtxId) (r : RegState) : (s.setRegs a r).ctx a = { s.ctx a with r := r } :=
  State.ctx_modCtx s a _

@[simp] theorem State.cluster_modCluster (s : State) (c : Nat) (g : Cluster → Cluster) :
    (s.modCluster c g).cluster c = g (s.cluster c) := by
  simp [State.cluster, State.modCluster]

@[simp] theorem State.layer_modLayer (s : State) (l : Nat) (g : Layer → Layer) : (s.modLayer l g).layer l = g (s.layer l) := by
  simp [State.layer, State.modLayer]

@[simp] theorem State.queue_modQueue (s : State) (q : Nat) (g : Queue → Queue) : (s.modQueue q g).queue q = g (s.queue q) := by
  simp [State.queue, State.modQueue]

@[simp] theorem State.card_modCard (s : State) (n : Nat) (g : CardRun → CardRun) : (s.modCard n g).card n = g (s.card n) := by
  simp [State.card, State.modCard]

@[simp] theorem State.dom_modDom (s : State) (n : Nat) (g : Domain → Domain) : (s.modDom n g).dom n = g (s.dom n) := by
  simp [State.dom, State.modDom]

/-- Counting an event changes no context. -/
@[simp] theorem State.ctx_bump (s : State) (a b : CtxId) (ev : Nat) : (s.bump a ev).ctx b = s.ctx b := by
  unfold State.bump
  split
  · rfl
  · exact State.ctx_modCore s _ _ rfl b

@[simp] theorem State.ctx_due (s : State) (d : Due) (b : CtxId) : (s.due d).ctx b = s.ctx b := rfl
@[simp] theorem State.core_due (s : State) (d : Due) (c : CoreId) : (s.due d).core c = s.core c := rfl
@[simp] theorem State.ctx_addDev (s : State) (g : Dev → Dev) (b : CtxId) : (s.addDev g).ctx b = s.ctx b := rfl
@[simp] theorem State.ctx_bumpDie (s : State) (d ev n : Nat) (b : CtxId) : (s.bumpDie d ev n).ctx b = s.ctx b := by
  unfold State.bumpDie; split <;> rfl

/-- Giving the pipe to another context changes no context. -/
@[simp] theorem State.ctx_giveTo (s : State) (c : CoreId) (h : Nat) (b : CtxId) : (s.giveTo c h).ctx b = s.ctx b := by
  unfold State.giveTo
  split
  · rfl
  · rw [State.ctx_bump]
    exact State.ctx_modCore s c (fun k => { k with holder := h }) rfl b

@[simp] theorem State.ctx_switch (s : State) (c : CoreId) (b : CtxId) : (s.switch c).ctx b = s.ctx b := State.ctx_giveTo s c _ b

@[simp] theorem State.ctx_noteHbm (s : State) (ev : Nat) (locs : List Nat) (b : CtxId) : (s.noteHbm ev locs).ctx b = s.ctx b := by
  simp [State.noteHbm, List.range_succ]

@[simp] theorem State.ctx_noteRead (s : State) (a : CtxId) (locs : List Nat) :
    (s.noteRead a locs).ctx a = { s.ctx a with chunk := { (s.ctx a).chunk with rlines := (s.ctx a).chunk.rlines ++ linesOf locs } } := by
  simp [State.noteRead]

/-! Registers. -/

@[simp] theorem RegState.rdS_zero (r : RegState) : r.rdS 0 = 0 := rfl
@[simp] theorem RegState.wrS_zero (r : RegState) (x : Dword) : r.wrS 0 x = r := rfl

theorem RegState.rdS_wrS (r : RegState) (n m : Nat) (x : Dword) (hn : n < 32) :
    (r.wrS n x).rdS m = if m = 0 then 0 else if m = n then x else r.rdS m := by
  unfold RegState.rdS RegState.wrS
  split
  · rfl
  · split
    · subst n
      simp only [*, if_false]
    · split
      · rename_i h; subst h
        simp [hn]
      · rename_i h
        simp [Ne.symm h]

theorem RegState.rdF_wrF (r : RegState) (n m : Nat) (x : Dword) (hn : n < 16) :
    (r.wrF n x).rdF m = if m = n then x else r.rdF m := by
  unfold RegState.rdF RegState.wrF
  split
  · rename_i h; subst h; simp [hn]
  · rename_i h; simp [Ne.symm h]

theorem RegState.rdV_wrV (r : RegState) (n m : Nat) (x : Vec) (hn : n < 32) :
    (r.wrV n x).rdV m = if m = n then x else r.rdV m := by
  unfold RegState.rdV RegState.wrV
  split
  · rename_i h; subst h; simp [hn]
  · rename_i h; simp [Ne.symm h]

@[simp] theorem RegState.rdP_zero (r : RegState) (k : CoreKind) : r.rdP k 0 = pOnes k := rfl

theorem RegState.rdP_wrP (r : RegState) (k : CoreKind) (n m : Nat) (x : Dword) (hn : n < 8) :
    (r.wrP k n x).rdP k m = if m = 0 then pOnes k else if m = n then x &&& pOnes k else r.rdP k m := by
  unfold RegState.rdP RegState.wrP
  split
  · rfl
  · split
    · subst n
      simp only [*, if_false]
    · split
      · rename_i h; subst h
        simp [hn]
      · rename_i h
        simp [Ne.symm h]

end Sys2Proof.Machine
end

