-- ==== Sys2Proof/Laws/Issue.lean ====
section
/-! SUPPORT. What issuing an instruction comes to once it may issue: one lemma for each act of a body, and the frame of an
instruction that acts on registers alone. -/

namespace Sys2Proof.Machine

@[simp] theorem Ctx.beginChunk_r (c : Ctx) : c.beginChunk.r = c.r := by unfold Ctx.beginChunk; split <;> rfl
@[simp] theorem Ctx.beginChunk_dom (c : Ctx) : c.beginChunk.dom = c.dom := by unfold Ctx.beginChunk; split <;> rfl
@[simp] theorem Ctx.beginChunk_ahead (c : Ctx) : c.beginChunk.ahead = c.ahead := by unfold Ctx.beginChunk; split <;> rfl
@[simp] theorem Ctx.beginChunk_count (c : Ctx) : c.beginChunk.chunk.count = c.chunk.count := by
  unfold Ctx.beginChunk; split <;> simp_all [Chunk.empty]
@[simp] theorem Ctx.beginChunk_stqHeld (c : Ctx) : c.beginChunk.stqHeld = c.stqHeld := by simp [Ctx.stqHeld]

@[simp] theorem State.begun_ctx (s : State) : s.begun.ctx s.holder = (s.ctx s.holder).beginChunk := by simp [State.begun]
@[simp] theorem State.begun_doms (s : State) : s.begun.doms = s.doms := rfl
@[simp] theorem State.begun_free (s : State) : s.begun.free = s.free := rfl
@[simp] theorem State.entered_ctx (s : State) (fm : Form) (f : Fields) (a : CtxId) : (s.entered fm f).ctx a = s.begun.ctx a := by
  unfold State.entered; split <;> rfl

/-- What a body's act comes to when its instruction may issue. -/
def actIssued (fm : Form) (f : Fields) (s : State) : Act → Issued
  | .done u => .ran (retire u s.holder (fm.ldqNeed f) (s.after fm f) fm.ends.isHolding)
  | .jump u pc => .ran (retire u s.holder (fm.ldqNeed f) pc fm.ends.isHolding)
  | .leap u pc => .ran (retire u s.holder (fm.ldqNeed f) pc true)
  | .trap t => issueTrap (s.entered fm f) s.holder t (s.ctx s.holder).r.pc (s.after fm f)
  | .wait w u => .waits ((u.modCtx s.holder fun c => { c with status := .waiting w }).switch s.holder.core)
  | .miss va acc => .waits (stallMiss (s.entered fm f) s.holder acc va)
  | .park u => .ran ((((u.modCtx s.holder fun c => { c with status := .parking, chunk := Chunk.empty }).bump s.holder 0x02).due
      (.contextEnd s.holder.core s.holder.ctx)).switch s.holder.core)
  | .endFirst => .first ((s.entered fm f).modCtx s.holder fun c => { c with chunk := { c.chunk with ended := true } })

/-- An instruction that may issue does what its body does, in the state it enters. -/
theorem issueOne_acts {fm : Form} {f : Fields} {ok : CoreId → Fields → Bool} {s : State} (control : Bool)
    (body : Env → State → Act) (h : Issues fm ok f s) :
    issueOne fm f ok control body s.holder (s.ctx s.holder).r s = actIssued fm f s (body (envOf fm f s) (s.entered fm f)) := by
  have hg : ¬(fm.guard = .scalar ∧ guardBit s.holder.core.kind f (s.ctx s.holder).r = false) := by
    rintro ⟨h1, h2⟩; simp [h.guard h1] at h2
  have hb : ¬(fm.ends.isBefore = true ∧ ¬(s.ctx s.holder).chunk.count = 0) := by
    rintro ⟨h1, h2⟩; exact h2 (h.free.first h1)
  have hl : ¬(s.ctx s.holder).r.ldq.length < fm.ldqNeed f := by have := h.free.ldq; omega
  have hq : ¬(fm.stqDst f = true ∧ 8 ≤ (s.ctx s.holder).stqHeld) := by
    rintro ⟨h1, h2⟩; have := h.free.stq h1; omega
  unfold issueOne
  simp only [State.ctx_modCtx, Ctx.beginChunk_r, Ctx.beginChunk_count, Ctx.beginChunk_stqHeld, Ctx.beginChunk_dom, h.free.legal, h.free.fits,
    Bool.and_self, Bool.not_true, Bool.false_eq_true, if_false, ite_self]
  simp only [Bool.and_eq_true, decide_eq_true_eq, Bool.not_eq_true', ne_eq]
  rw [if_neg hg, if_neg hb, if_neg hl, if_neg hq]
  have he : envOf fm f s = ⟨s.holder, f, fm, (s.ctx s.holder).r, (s.ctx s.holder).r,
    Config.staleQueue (s.modCtx s.holder Ctx.beginChunk).free, ((s.modCtx s.holder Ctx.beginChunk).dom (s.ctx s.holder).dom).superstep⟩ := rfl
  have hs : s.entered fm f = if fm.stqDst f then { s.modCtx s.holder Ctx.beginChunk with
    free := (s.modCtx s.holder Ctx.beginChunk).free + 1 } else s.modCtx s.holder Ctx.beginChunk := rfl
  rw [← he, ← hs]
  cases body (envOf fm f s) (s.entered fm f) <;> rfl

/-- The state that an issued instruction leaves. -/
def Issued.state : Issued → State
  | .ran s => s | .first s => s | .waits s => s | .trapped s => s

theorem issueWith_acts {fm : Form} {f : Fields} {ok : CoreId → Fields → Bool} {s : State} (control : Bool)
    (body : Env → State → Act) (h : Issues fm ok f s) :
    issueWith fm f ok control body s = (actIssued fm f s (body (envOf fm f s) (s.entered fm f))).state := by
  unfold issueWith
  rw [h.alone.1]
  simp only []
  rw [h.alone.2]
  simp only [issueOne_acts control body h]
  cases actIssued fm f s (body (envOf fm f s) (s.entered fm f)) <;> rfl

theorem issue_acts {fm : Form} {f : Fields} {s : State} (body : Env → State → Act) (h : Issues fm alwaysOk f s) :
    issue fm f body s = .next (actIssued fm f s (body (envOf fm f s) (s.entered fm f))).state :=
  congrArg _ (issueWith_acts false body h)

theorem issueIf_acts {fm : Form} {f : Fields} {ok : CoreId → Fields → Bool} {s : State} (body : Env → State → Act)
    (h : Issues fm ok f s) :
    issueIf fm f ok body s = .next (actIssued fm f s (body (envOf fm f s) (s.entered fm f))).state :=
  congrArg _ (issueWith_acts false body h)

theorem issueControl_acts {fm : Form} {f : Fields} {s : State} (body : Env → State → Act) (h : Issues fm alwaysOk f s) :
    issueControl fm f body s = .next (actIssued fm f s (body (envOf fm f s) (s.entered fm f))).state :=
  congrArg _ (issueWith_acts true body h)

/-! The frame of a change of one context. -/

theorem OnlyContext.refl (s : State) (a : CtxId) : OnlyContext s s a :=
  ⟨rfl, fun _ _ => rfl, rfl, fun _ _ => rfl, fun _ => rfl, [], by simp⟩

theorem OnlyContext.trans {s t u : State} {a : CtxId} (h : OnlyContext s t a) (k : OnlyContext t u a) : OnlyContext s u a where
  rest := by have := k.rest; rw [h.rest] at this; exact this
  others := fun c hc => (k.others c hc).trans (h.others c hc)
  own := by have := k.own; rw [h.own] at this; exact this
  contexts := fun n hn => (k.contexts n hn).trans (h.contexts n hn)
  counters := fun d => by have := k.counters d; rw [h.counters d] at this; exact this
  due := by
    obtain ⟨l, hl⟩ := h.due
    obtain ⟨m, hm⟩ := k.due
    exact ⟨l ++ m, by rw [hm, hl, List.append_assoc]⟩

theorem OnlyContext.modCtx (s : State) (a : CtxId) (g : Ctx → Ctx) : OnlyContext s (s.modCtx a g) a where
  rest := rfl
  others := fun c hc => State.core_modCtx_other s a g hc
  own := by rw [State.core_modCtx]
  contexts := fun n hn => State.ctx_modCtx_other s g (by intro h; exact hn (congrArg CtxId.ctx h))
  counters := fun _ => rfl
  due := ⟨[], by simp⟩

theorem OnlyContext.setRegs (s : State) (a : CtxId) (r : RegState) : OnlyContext s (s.setRegs a r) a := OnlyContext.modCtx s a _

theorem OnlyContext.bump (s : State) (a : CtxId) (ev : Nat) : OnlyContext s (s.bump a ev) a := by
  unfold State.bump
  split
  · exact .refl s a
  · exact {
      rest := rfl
      others := fun c hc => State.core_modCore_other s _ hc
      own := by simp
      contexts := fun n _ => State.ctx_modCore s _ _ rfl _
      counters := fun _ => rfl
      due := ⟨[], by simp [State.modCore, State.setCore]⟩ }

theorem OnlyContext.free (s : State) (a : CtxId) (n : Nat) : OnlyContext s { s with free := n } a :=
  ⟨rfl, fun _ _ => rfl, rfl, fun _ _ => rfl, fun _ => rfl, [], by simp⟩

theorem OnlyContext.due_step (s : State) (a : CtxId) (d : Due) : OnlyContext s (s.due d) a :=
  ⟨rfl, fun _ _ => rfl, rfl, fun _ _ => rfl, fun _ => rfl, [d], rfl⟩

theorem OnlyContext.entered (s : State) (fm : Form) (f : Fields) : OnlyContext s (s.entered fm f) s.holder := by
  unfold State.entered
  split
  · exact (OnlyContext.modCtx s _ _).trans (.free _ _ _)
  · exact .modCtx s _ _

theorem OnlyContext.retire (s : State) (a : CtxId) (need : Nat) (pc : VAddr) (ends : Bool) :
    OnlyContext s (Machine.retire s a need pc ends) a :=
  (OnlyContext.modCtx s a _).trans (.bump _ _ _)

@[simp] theorem retire_ctx (s : State) (a : CtxId) (need : Nat) (pc : VAddr) (ends : Bool) :
    (retire s a need pc ends).ctx a =
      ({ s.ctx a with r := { (s.ctx a).r with pc := pc, ldq := (s.ctx a).r.ldq.drop need }, status := .live }).countOne ends := by
  unfold retire; rw [State.ctx_bump, State.ctx_modCtx]

theorem State.bump_evc (s : State) (a : CtxId) (ev : Nat) :
    ((s.bump a ev).core a.core).evc = bumpCtrs (s.core a.core).evc ev (some a.ctx) 1 := by
  unfold State.bump
  split
  · rename_i h; rw [h]; rfl
  · simp

@[simp] theorem State.modCtx_evc (s : State) (a : CtxId) (g : Ctx → Ctx) (c : CoreId) : ((s.modCtx a g).core c).evc = (s.core c).evc := by
  by_cases h : c = a.core
  · subst h; rw [State.core_modCtx]
  · rw [State.core_modCtx_other s a g h]

/-- An effect on the issuing context alone, once its instruction retires. -/
theorem retire_ownStep {fm : Form} {f : Fields} {s base u : State} (pc : VAddr) (ends : Bool)
    (ho : OnlyContext base u s.holder) (hd : u.agenda = s.agenda) (he : (u.core s.holder.core).evc = (s.core s.holder.core).evc) :
    OwnStep fm f s base (u.ctx s.holder) pc ends (retire u s.holder (fm.ldqNeed f) pc ends) where
  own := by simp [leftRegs]
  only := ho.trans (.retire _ _ _ _ _)
  due := by simp [retire, hd]
  events := by unfold retire; rw [State.bump_evc, State.bump_evc, State.modCtx_evc, he]

@[simp] theorem State.entered_agenda (s : State) (fm : Form) (f : Fields) : (s.entered fm f).agenda = s.agenda := by
  unfold State.entered; split <;> rfl
@[simp] theorem State.entered_dies (s : State) (fm : Form) (f : Fields) : (s.entered fm f).dies = s.dies := by
  unfold State.entered; split <;> rfl
@[simp] theorem State.entered_evc (s : State) (fm : Form) (f : Fields) (c : CoreId) : ((s.entered fm f).core c).evc = (s.core c).evc := by
  unfold State.entered; split <;> exact State.modCtx_evc _ _ _ _

/-- What an instruction that acts on registers alone leaves. -/
theorem retire_regStep (fm : Form) (f : Fields) (s : State) (r : RegState) (pc : VAddr) (ends : Bool) :
    RegStep fm f s r pc ends (retire ((s.entered fm f).setRegs s.holder r) s.holder (fm.ldqNeed f) pc ends) where
  own := by
    have h : ((s.entered fm f).setRegs s.holder r).ctx s.holder = s.opened.withRegs r := by
      simp [State.opened, Ctx.withRegs]
    rw [← h]
    refine retire_ownStep pc ends ((OnlyContext.entered s fm f).trans (.setRegs _ _ _)) ?_ ?_
    · simp [State.setRegs]
    · unfold State.setRegs; rw [State.modCtx_evc, State.entered_evc]
  counters := by simp [retire, State.setRegs]
  free := by simp [retire, State.setRegs]

theorem issueRegs_completes {fm : Form} {f : Fields} {s : State} (g : Env → RegState) (h : Issues fm alwaysOk f s)
    (he : fm.ends.isHolding = false) :
    ∃ t, issueRegs fm f g s = .next t ∧ RegStep fm f s (g (envOf fm f s)) (s.after fm f) false t := by
  refine ⟨_, issue_acts _ h, ?_⟩
  simpa [regBody, actIssued, Issued.state, he, envOf] using retire_regStep fm f s (g (envOf fm f s)) (s.after fm f) false

theorem issueIf_regs_completes {fm : Form} {f : Fields} {ok : CoreId → Fields → Bool} {s : State} (g : Env → RegState)
    (h : Issues fm ok f s) (he : fm.ends.isHolding = false) :
    ∃ t, issueIf fm f ok (regBody g) s = .next t ∧ RegStep fm f s (g (envOf fm f s)) (s.after fm f) false t := by
  refine ⟨_, issueIf_acts _ h, ?_⟩
  simpa [regBody, actIssued, Issued.state, he, envOf] using retire_regStep fm f s (g (envOf fm f s)) (s.after fm f) false

end Sys2Proof.Machine
end

