-- ==== Sys2Proof/Laws/Own.lean ====
section
/-! SUPPORT. The operations of a body on its own context: what each leaves of that context, and that it changes nothing else. -/

namespace Sys2Proof.Machine

/-- A state that differs from `base` only in one context, with nothing due and no event counted since `s`. -/
structure Own (s base u : State) (a : CtxId) (c : Ctx) : Prop where
  only : OnlyContext base u a
  due : u.agenda = s.agenda
  evc : (u.core a.core).evc = (s.core a.core).evc
  ctx : u.ctx a = c

theorem Own.finish {fm : Form} {f : Fields} {s base u : State} {c : Ctx} (h : Own s base u s.holder c) (pc : VAddr) (ends : Bool) :
    OwnStep fm f s base c pc ends (retire u s.holder (fm.ldqNeed f) pc ends) := by
  have := retire_ownStep (fm := fm) (f := f) pc ends h.only h.due h.evc
  rwa [h.ctx] at this

theorem Own.entered (s : State) (fm : Form) (f : Fields) : Own s s (s.entered fm f) s.holder s.opened where
  only := .entered s fm f
  due := by simp
  evc := by simp
  ctx := by simp [State.opened]

theorem Own.modCtx {s base u : State} {a : CtxId} {c : Ctx} (h : Own s base u a c) (g : Ctx → Ctx) :
    Own s base (u.modCtx a g) a (g c) where
  only := h.only.trans (.modCtx _ _ _)
  due := by simpa using h.due
  evc := by rw [State.modCtx_evc, h.evc]
  ctx := by rw [State.ctx_modCtx, h.ctx]

theorem Own.setRegs {s base u : State} {a : CtxId} {c : Ctx} (h : Own s base u a c) (r : RegState) :
    Own s base (u.setRegs a r) a (c.withRegs r) := h.modCtx _

theorem Own.stage {s base u : State} {a : CtxId} {c : Ctx} (h : Own s base u a c) (x : Effect) :
    Own s base (u.stage a x) a (c.withEffects [x]) := h.modCtx _

theorem Own.hold {s base u : State} {a : CtxId} {c : Ctx} (h : Own s base u a c) (l : List (Nat × Byte)) :
    Own s base (u.hold a l) a (c.withStores l) := h.modCtx _

theorem OnlyContext.bumpDie (s : State) (d ev n : Nat) (a : CtxId) : OnlyContext s (s.bumpDie d ev n) a := by
  unfold State.bumpDie
  split
  · exact .refl s a
  · refine ⟨rfl, fun _ _ => rfl, rfl, fun _ _ => rfl, fun k => ?_, [], by simp [State.modDie]⟩
    unfold State.modDie State.die
    rw [SMap.read_put]
    split
    · rename_i h; subst h; rfl
    · rfl

theorem OnlyContext.noteHbm (s : State) (ev : Nat) (locs : List Nat) (a : CtxId) : OnlyContext s (s.noteHbm ev locs) a := by
  unfold State.noteHbm
  induction List.range 8 generalizing s with
  | nil => exact .refl s a
  | cons d t ih => exact (OnlyContext.bumpDie s d ev _ a).trans (ih _)

theorem noteHbm_same (s : State) (ev : Nat) (locs : List Nat) :
    (s.noteHbm ev locs).agenda = s.agenda ∧ (s.noteHbm ev locs).cores = s.cores ∧ (s.noteHbm ev locs).mem = s.mem := by
  unfold State.noteHbm
  induction List.range 8 generalizing s with
  | nil => exact ⟨rfl, rfl, rfl⟩
  | cons d t ih =>
    obtain ⟨h1, h2, h3⟩ := ih (s.bumpDie d ev (locs.countP fun l => l / (80 * 2 ^ 30) == d))
    exact ⟨h1.trans (by simp), h2.trans (by simp), h3.trans (by simp)⟩

theorem State.core_of_cores {s t : State} (h : t.cores = s.cores) (c : CoreId) : t.core c = s.core c := by
  unfold State.core; rw [h]

theorem State.ctx_of_cores {s t : State} (h : t.cores = s.cores) (a : CtxId) : t.ctx a = s.ctx a := by
  unfold State.ctx; rw [State.core_of_cores h]

theorem Own.noteHbm {s base u : State} {a : CtxId} {c : Ctx} (h : Own s base u a c) (ev : Nat) (locs : List Nat) :
    Own s base (u.noteHbm ev locs) a c where
  only := h.only.trans (.noteHbm _ _ _ _)
  due := (noteHbm_same u ev locs).1.trans h.due
  evc := by rw [State.core_of_cores (noteHbm_same u ev locs).2.1, h.evc]
  ctx := by rw [State.ctx_of_cores (noteHbm_same u ev locs).2.1, h.ctx]

theorem Own.noteRead {s base u : State} {a : CtxId} {c : Ctx} (h : Own s base u a c) (locs : List Nat) :
    Own s base (u.noteRead a locs) a (c.withReads locs) := (h.modCtx _).noteHbm _ _

/-! The removal of an entry that served one access (R231). -/

theorem useOnce_cores (s : State) (a : CtxId) (unit : Nat) (c : CoreId) :
    ((s.useOnce a unit).core c) = if c = a.core then { s.core c with tlb := ((s.useOnce a unit).core c).tlb } else s.core c := by
  unfold State.useOnce
  split
  · by_cases h : c = a.core
    · subst h; simp
    · rw [if_neg h, State.core_modCore_other s _ h]
  · split <;> rfl

theorem useOnce_tlb {s u : State} (a : CtxId) (unit : Nat) (h : (u.core a.core).tlb = (s.core a.core).tlb) :
    ((u.useOnce a unit).core a.core).tlb = ((s.useOnce a unit).core a.core).tlb := by
  unfold State.useOnce
  rw [h]
  split <;> simp [h]

theorem useOnce_rest (s : State) (a : CtxId) (unit : Nat) : s.useOnce a unit = { s with cores := (s.useOnce a unit).cores } := by
  unfold State.useOnce; split <;> rfl

theorem useOnce_ctx (s : State) (a : CtxId) (unit : Nat) (b : CtxId) : (s.useOnce a unit).ctx b = s.ctx b := by
  unfold State.useOnce
  split
  · exact State.ctx_modCore s _ _ rfl b
  · rfl

/-- The removal, made after a change of one context, is the removal made before it. -/
theorem OnlyContext.useOnce {s u : State} {a : CtxId} (h : OnlyContext s u a) (unit : Nat) :
    OnlyContext (s.useOnce a unit) (u.useOnce a unit) a where
  rest := by
    have h1 := useOnce_rest u a unit
    have h2 := useOnce_rest s a unit
    have h3 := h.rest
    rw [h1, h2, h3]
  others := fun c hc => by rw [useOnce_cores u, useOnce_cores s, if_neg hc, if_neg hc, h.others c hc]
  own := by
    have ho := h.own
    have ht : (u.core a.core).tlb = (s.core a.core).tlb := by rw [ho]
    rw [useOnce_cores u, useOnce_cores s, if_pos rfl, if_pos rfl, useOnce_tlb a unit ht]
    conv => lhs; rw [ho]
  contexts := fun n hn => by rw [useOnce_ctx, useOnce_ctx, h.contexts n hn]
  counters := fun d => by
    have h1 : (u.useOnce a unit).die d = u.die d := by unfold State.die; rw [useOnce_rest]
    have h2 : (s.useOnce a unit).die d = s.die d := by unfold State.die; rw [useOnce_rest]
    rw [h1, h2, h.counters d]
  due := by
    obtain ⟨l, hl⟩ := h.due
    have h1 : (u.useOnce a unit).agenda = u.agenda := by rw [useOnce_rest]
    have h2 : (s.useOnce a unit).agenda = s.agenda := by rw [useOnce_rest]
    exact ⟨l, by rw [h1, h2, hl]⟩

theorem Own.useOnce {s base u : State} {a : CtxId} {c : Ctx} (h : Own s base u a c) (unit : Nat) :
    Own s (base.useOnce a unit) (u.useOnce a unit) a c where
  only := h.only.useOnce unit
  due := by rw [useOnce_rest]; exact h.due
  evc := by rw [useOnce_cores, if_pos rfl]; exact h.evc
  ctx := by rw [useOnce_ctx, h.ctx]

theorem Own.withEffects_nil (c : Ctx) : c.withEffects [] = c := by simp [Ctx.withEffects]

@[simp] theorem State.begun_cur (s : State) : s.begun.cur = s.cur := rfl
@[simp] theorem envOf_at (fm : Form) (f : Fields) (s : State) : (envOf fm f s).at' = s.holder := rfl
@[simp] theorem envOf_f (fm : Form) (f : Fields) (s : State) : (envOf fm f s).f = f := rfl
@[simp] theorem envOf_fm (fm : Form) (f : Fields) (s : State) : (envOf fm f s).fm = fm := rfl
@[simp] theorem envOf_r (fm : Form) (f : Fields) (s : State) : (envOf fm f s).r = (s.ctx s.holder).r := rfl

/-! An instruction whose body ends in each act, where its effect is on its own context. -/

theorem issue_done {fm : Form} {f : Fields} {s base u : State} {c : Ctx} {body : Env → State → Act} (h : Issues fm alwaysOk f s)
    (hb : body (envOf fm f s) (s.entered fm f) = .done u) (hu : Own s base u s.holder c) :
    ∃ t, issue fm f body s = .next t ∧ OwnStep fm f s base c (s.after fm f) fm.ends.isHolding t :=
  ⟨_, issue_acts body h, by rw [hb]; exact hu.finish _ _⟩

theorem issue_jump {fm : Form} {f : Fields} {s base u : State} {c : Ctx} {pc : VAddr} {body : Env → State → Act}
    (h : Issues fm alwaysOk f s) (hb : body (envOf fm f s) (s.entered fm f) = .jump u pc) (hu : Own s base u s.holder c) :
    ∃ t, issue fm f body s = .next t ∧ OwnStep fm f s base c pc fm.ends.isHolding t :=
  ⟨_, issue_acts body h, by rw [hb]; exact hu.finish _ _⟩

theorem issue_leap {fm : Form} {f : Fields} {s base u : State} {c : Ctx} {pc : VAddr} {body : Env → State → Act}
    (h : Issues fm alwaysOk f s) (hb : body (envOf fm f s) (s.entered fm f) = .leap u pc) (hu : Own s base u s.holder c) :
    ∃ t, issue fm f body s = .next t ∧ OwnStep fm f s base c pc true t :=
  ⟨_, issue_acts body h, by rw [hb]; exact hu.finish _ _⟩

theorem issueControl_done {fm : Form} {f : Fields} {s base u : State} {c : Ctx} {body : Env → State → Act}
    (h : Issues fm alwaysOk f s) (hb : body (envOf fm f s) (s.entered fm f) = .done u) (hu : Own s base u s.holder c) :
    ∃ t, issueControl fm f body s = .next t ∧ OwnStep fm f s base c (s.after fm f) fm.ends.isHolding t :=
  ⟨_, issueControl_acts body h, by rw [hb]; exact hu.finish _ _⟩

theorem issueControl_jump {fm : Form} {f : Fields} {s base u : State} {c : Ctx} {pc : VAddr} {body : Env → State → Act}
    (h : Issues fm alwaysOk f s) (hb : body (envOf fm f s) (s.entered fm f) = .jump u pc) (hu : Own s base u s.holder c) :
    ∃ t, issueControl fm f body s = .next t ∧ OwnStep fm f s base c pc fm.ends.isHolding t :=
  ⟨_, issueControl_acts body h, by rw [hb]; exact hu.finish _ _⟩

theorem issueIf_jump {fm : Form} {f : Fields} {ok : CoreId → Fields → Bool} {s base u : State} {c : Ctx} {pc : VAddr}
    {body : Env → State → Act} (h : Issues fm ok f s) (hb : body (envOf fm f s) (s.entered fm f) = .jump u pc)
    (hu : Own s base u s.holder c) :
    ∃ t, issueIf fm f ok body s = .next t ∧ OwnStep fm f s base c pc fm.ends.isHolding t :=
  ⟨_, issueIf_acts body h, by rw [hb]; exact hu.finish _ _⟩

/-! Giving up the pipe. -/

theorem State.bump_cores (s : State) (a : CtxId) (ev : Nat) : s.bump a ev = { s with cores := (s.bump a ev).cores } := by
  unfold State.bump; split <;> rfl

/-- The contexts that an entry of the table of cores lists. -/
def listed (e : Nat × Core) : List CtxId := e.2.ctxs.map fun c => ⟨coreOfKey e.1, c.1⟩

theorem SMap.read_mem {α : Type} (d : α) (m : SMap α) (i : Nat) : SMap.read d m i = d ∨ (i, SMap.read d m i) ∈ m := by
  induction m with
  | nil => exact .inl rfl
  | cons e m ih =>
    obtain ⟨k, v⟩ := e
    by_cases h : i = k
    · subst h; simp [SMap.read]
    · simp only [SMap.read, if_neg h, List.mem_cons]
      exact ih.imp_right .inr

/-- A change of a core that keeps its contexts lists the same contexts. -/
theorem mem_listed_put (m : SMap Core) (i : Nat) (x : Core) (hx : x.ctxs = (SMap.read Core.reset m i).ctxs) (b : CtxId) :
    b ∈ (SMap.put m i x).flatMap listed ↔ b ∈ m.flatMap listed := by
  induction m with
  | nil => simp_all [SMap.put, SMap.read, listed, Core.reset]
  | cons e m ih =>
    obtain ⟨k, v⟩ := e
    unfold SMap.put
    split
    · have h : b ∈ listed (i, x) → b ∈ List.flatMap listed ((k, v) :: m) := fun hb => by
        rcases SMap.read_mem Core.reset ((k, v) :: m) i with h | h
        · rw [h] at hx; simp [listed, hx, Core.reset] at hb
        · exact List.mem_flatMap.2 ⟨_, h, by simpa [listed, hx] using hb⟩
      rw [List.flatMap_cons, List.mem_append]
      exact ⟨fun hb => hb.elim h id, .inr⟩
    · split
      · rename_i h; subst h; simp_all [SMap.read, listed]
      · rename_i h; simp only [SMap.read, if_neg h] at hx; simp [ih hx]

theorem State.mem_allCtxs_modCore (s : State) (c : CoreId) (g : Core → Core) (hg : (g (s.core c)).ctxs = (s.core c).ctxs) (b : CtxId) :
    b ∈ (s.modCore c g).allCtxs ↔ b ∈ s.allCtxs := mem_listed_put s.cores c.key _ hg b

theorem State.mem_allCtxs_giveTo (s : State) (c : CoreId) (h : Nat) (b : CtxId) : b ∈ (s.giveTo c h).allCtxs ↔ b ∈ s.allCtxs := by
  unfold State.giveTo State.bump
  split
  · exact .rfl
  · split
    · exact mem_allCtxs_modCore _ _ _ rfl b
    · exact (mem_allCtxs_modCore _ _ _ rfl b).trans (mem_allCtxs_modCore _ _ _ rfl b)

/-- Who holds the pipe next depends on the holder, on the contexts and on the gangs alone (R129). -/
theorem State.pick_congr {s t : State} {c : CoreId} (hh : (s.core c).holder = (t.core c).holder) (hc : ∀ b, s.ctx b = t.ctx b)
    (hg : s.gangs = t.gangs) (hm : ∀ b, b ∈ s.allCtxs ↔ b ∈ t.allCtxs) : s.pick c = t.pick c := by
  have hs : ∀ a, s.solo a = t.solo a := fun a => by unfold State.solo State.gangOf; rw [hc, hg]
  have hl : ∀ a, s.lockstep a = t.lockstep a := fun a => by unfold State.lockstep State.gangOf; rw [hc, hg]
  have hn : ∀ a, s.notTurn a = t.notTurn a := fun a => by unfold State.notTurn; rw [hs, hl]
  have hw : ∀ a, s.mustWait a = t.mustWait a := fun a => by
    unfold State.mustWait
    simp only [hc, hl]
    congr 1
    rw [Bool.eq_iff_iff, List.any_eq_true, List.any_eq_true]
    simp only [hm]
  have hr : ∀ a, s.readyCtx a = t.readyCtx a := fun a => by unfold State.readyCtx; simp only [hc, hl, hn, hw]
  unfold State.pick
  simp only [hh, hr]

/-- Giving the pipe of a core changes its holder and counts an event. -/
theorem State.giveTo_core (s : State) (c : CoreId) (h : Nat) :
    (s.giveTo c h).core c = { s.core c with holder := h, evc := ((s.giveTo c h).core c).evc } := by
  unfold State.giveTo
  split
  · rename_i e; subst e; rfl
  · have b := (OnlyContext.bump (s.modCore c fun k => { k with holder := h }) ⟨c, h⟩ 6).own
    unfold State.bump at b ⊢
    split <;> simp

theorem State.giveTo_core_other (s : State) {c d : CoreId} (h : Nat) (hd : d ≠ c) : (s.giveTo c h).core d = s.core d := by
  unfold State.giveTo
  split
  · rfl
  · rw [(OnlyContext.bump _ ⟨c, h⟩ 6).others d hd, State.core_modCore_other s _ hd]

/-- A change of the issuing context after which the pipe is given up. -/
theorem OnlyContext.yields {s base u : State} {l : List Due} (h : OnlyContext base u s.holder) (hd : u.agenda = base.agenda ++ l)
    (hs : u.dies = base.dies) (hh : (base.core s.holder.core).holder = s.holder.ctx) :
    Yields s base (u.ctx s.holder) l (u.switch s.holder.core) := by
  have hu : (u.core s.holder.core).holder = s.holder.ctx := by rw [h.own]; exact hh
  have hg := State.giveTo_core u s.holder.core (u.pick s.holder.core)
  refine ⟨by simp, ?_, fun d hd => ?_, ?_, fun n hn => ?_, ?_, by simp [hd]⟩
  · have hr := h.rest
    have hc : u.switch s.holder.core = { u with cores := (u.switch s.holder.core).cores } := by
      unfold State.switch State.giveTo
      split
      · rfl
      · rw [State.bump_cores]; rfl
    rw [hc, hr, hs]
  · rw [State.switch, State.giveTo_core_other u _ hd, h.others d hd]
  · rw [State.switch, hg, h.own]
  · rw [State.ctx_switch, h.contexts n hn]
  · refine Eq.trans (b := u.pick s.holder.core) (by rw [State.switch, hg]) (State.pick_congr ?_ (fun b => ?_) ?_ fun b => ?_)
    · rw [hu]; simp
    · rw [State.ctx_modCore _ _ _ rfl]; simp
    · simp
    · exact ((State.mem_allCtxs_modCore _ _ _ rfl b).trans (State.mem_allCtxs_giveTo _ _ _ b)).symm

theorem State.holder_ctx (s : State) : (s.core s.holder.core).holder = s.holder.ctx := rfl

/-- An instruction that waits gives up the pipe (R129). -/
theorem Own.waits {s base u : State} {c : Ctx} (h : Own s base u s.holder c) (hd : u.dies = base.dies) (hb : base.agenda = s.agenda)
    (hh : (base.core s.holder.core).holder = s.holder.ctx) (g : Ctx → Ctx) :
    Yields s base (g c) [] ((u.modCtx s.holder g).switch s.holder.core) := by
  have h1 := h.modCtx g
  have := OnlyContext.yields (l := []) h1.only (by rw [h1.due, hb]; simp) (by simpa using hd) hh
  rwa [h1.ctx] at this

/-- A precise trap of the issuing context (R118). -/
theorem Own.traps {s u : State} {c : Ctx} (h : Own s s u s.holder c) (hd : u.dies = s.dies) (t : Trap) (next : VAddr) :
    Yields s s (c.trapped t next) [.faultMessage s.holder.core s.holder.ctx] (takeTrap u s.holder t c.r.pc next) := by
  have h1 := h.modCtx fun c => c.trapped t next
  have h2 : OnlyContext s (((u.modCtx s.holder fun c => c.trapped t next).bump s.holder 0x08).due
      (.faultMessage s.holder.core s.holder.ctx)) s.holder := (h1.only.trans (.bump _ _ _)).trans (.due_step _ _ _)
  have := OnlyContext.yields (l := [.faultMessage s.holder.core s.holder.ctx]) h2
    (by rw [State.due, State.bump_cores]; simp [h.due]) (by rw [State.due, State.bump_cores]; simpa using hd) rfl
  have he : takeTrap u s.holder t c.r.pc next = (((u.modCtx s.holder fun c => c.trapped t next).bump s.holder 0x08).due
      (.faultMessage s.holder.core s.holder.ctx)).switch s.holder.core := by
    unfold takeTrap Ctx.trapped State.modCtx
    rw [h.ctx]
  rw [he]
  have hc : ((((u.modCtx s.holder fun c => c.trapped t next).bump s.holder 0x08).due
      (.faultMessage s.holder.core s.holder.ctx))).ctx s.holder = c.trapped t next := by
    show ((u.modCtx s.holder fun c => c.trapped t next).bump s.holder 0x08).ctx s.holder = _
    rw [State.ctx_bump]; exact h1.ctx
  rwa [hc] at this

end Sys2Proof.Machine
end

