-- ==== Sys2Proof/Laws/PerInstr.lean ====
section
/-! SUPPORT. Per instruction: the row that its page and opcode name in the opcode map (R51 to R58) is that instruction's own. -/

namespace Sys2Proof.Laws.Words

/-- The opcode map's row at an instruction's page and opcode is the instruction, where its fields are those of its row. -/
def Statement (i : Instr) : Prop :=
  ∀ page opc f, i.key = some (page, opc, f) → i.ownRow = true → opcode page opc f = some i

/-- An instruction whose row stands in the map under its key. -/
theorem at_key {i : Instr} {page opc : Nat} {f : Fields} (k : i.key = some (page, opc, f)) (h : opcode page opc f = some i) :
    Statement i := by
  intro p o g hk _
  rw [k] at hk
  cases hk
  exact h

/-- A device step has no key. -/
theorem no_key {i : Instr} (k : i.key = none) : Statement i := by
  intro p o g hk
  rw [k] at hk
  cases hk

theorem add (f : Fields) : Statement (.add f) := at_key rfl rfl
theorem sub (f : Fields) : Statement (.sub f) := at_key rfl rfl
theorem and (f : Fields) : Statement (.and f) := at_key rfl rfl
theorem or (f : Fields) : Statement (.or f) := at_key rfl rfl
theorem xor (f : Fields) : Statement (.xor f) := at_key rfl rfl
theorem andn (f : Fields) : Statement (.andn f) := at_key rfl rfl
theorem shl (f : Fields) : Statement (.shl f) := at_key rfl rfl
theorem shr (f : Fields) : Statement (.shr f) := at_key rfl rfl
theorem sra (f : Fields) : Statement (.sra f) := at_key rfl rfl
theorem mul (f : Fields) : Statement (.mul f) := at_key rfl rfl
theorem mulhs (f : Fields) : Statement (.mulhs f) := at_key rfl rfl
theorem mulhn (f : Fields) : Statement (.mulhn f) := at_key rfl rfl
theorem divs (f : Fields) : Statement (.divs f) := at_key rfl rfl
theorem divn (f : Fields) : Statement (.divn f) := at_key rfl rfl
theorem rems (f : Fields) : Statement (.rems f) := at_key rfl rfl
theorem remn (f : Fields) : Statement (.remn f) := at_key rfl rfl
theorem min (f : Fields) : Statement (.min f) := at_key rfl rfl
theorem max (f : Fields) : Statement (.max f) := at_key rfl rfl
theorem minn (f : Fields) : Statement (.minn f) := at_key rfl rfl
theorem maxn (f : Fields) : Statement (.maxn f) := at_key rfl rfl
theorem addi (f : Fields) : Statement (.addi f) := at_key rfl rfl
theorem andi (f : Fields) : Statement (.andi f) := at_key rfl rfl
theorem ori (f : Fields) : Statement (.ori f) := at_key rfl rfl
theorem xori (f : Fields) : Statement (.xori f) := at_key rfl rfl
theorem shli (f : Fields) : Statement (.shli f) := at_key rfl rfl
theorem shri (f : Fields) : Statement (.shri f) := at_key rfl rfl
theorem srai (f : Fields) : Statement (.srai f) := at_key rfl rfl
theorem muli (f : Fields) : Statement (.muli f) := at_key rfl rfl
theorem mov (f : Fields) : Statement (.mov f) := at_key rfl rfl
theorem movi (f : Fields) : Statement (.movi f) := at_key rfl rfl
theorem movhi (f : Fields) : Statement (.movhi f) := at_key rfl rfl
theorem lea (f : Fields) : Statement (.lea f) := at_key rfl rfl
theorem sel (f : Fields) : Statement (.sel f) := at_key rfl rfl
theorem sext (f : Fields) : Statement (.sext f) := at_key rfl rfl
theorem zext (f : Fields) : Statement (.zext f) := at_key rfl rfl
theorem bfx (f : Fields) : Statement (.bfx f) := at_key rfl rfl
theorem bfxn (f : Fields) : Statement (.bfxn f) := at_key rfl rfl
theorem bfi (f : Fields) : Statement (.bfi f) := at_key rfl rfl
theorem clz (f : Fields) : Statement (.clz f) := at_key rfl rfl
theorem ctz (f : Fields) : Statement (.ctz f) := at_key rfl rfl
theorem popc (f : Fields) : Statement (.popc f) := at_key rfl rfl
theorem cmpeq (f : Fields) : Statement (.cmpeq f) := at_key rfl rfl
theorem cmpne (f : Fields) : Statement (.cmpne f) := at_key rfl rfl
theorem cmplt (f : Fields) : Statement (.cmplt f) := at_key rfl rfl
theorem cmple (f : Fields) : Statement (.cmple f) := at_key rfl rfl
theorem cmpltn (f : Fields) : Statement (.cmpltn f) := at_key rfl rfl
theorem cmplen (f : Fields) : Statement (.cmplen f) := at_key rfl rfl
theorem tst (f : Fields) : Statement (.tst f) := at_key rfl rfl
theorem pand (f : Fields) : Statement (.pand f) := at_key rfl rfl
theorem por (f : Fields) : Statement (.por f) := at_key rfl rfl
theorem pxor (f : Fields) : Statement (.pxor f) := at_key rfl rfl
theorem pandn (f : Fields) : Statement (.pandn f) := at_key rfl rfl
theorem pnot (f : Fields) : Statement (.pnot f) := at_key rfl rfl
theorem pset (f : Fields) : Statement (.pset f) := at_key rfl rfl
theorem pclr (f : Fields) : Statement (.pclr f) := at_key rfl rfl
theorem pmov (f : Fields) : Statement (.pmov f) := at_key rfl rfl
theorem br (f : Fields) : Statement (.br f) := at_key rfl rfl
theorem jmp (f : Fields) : Statement (.jmp f) := at_key rfl rfl
theorem call (f : Fields) : Statement (.call f) := at_key rfl rfl
theorem callr (f : Fields) : Statement (.callr f) := at_key rfl rfl
theorem ret (f : Fields) : Statement (.ret f) := at_key rfl rfl
theorem enter (f : Fields) : Statement (.enter f) := at_key rfl rfl
theorem leave (f : Fields) : Statement (.leave f) := at_key rfl rfl
theorem loop (f : Fields) : Statement (.loop f) := at_key rfl rfl
theorem brz (f : Fields) : Statement (.brz f) := at_key rfl rfl
theorem brnz (f : Fields) : Statement (.brnz f) := at_key rfl rfl
theorem loopset (f : Fields) : Statement (.loopset f) := at_key rfl rfl
theorem loopend (f : Fields) : Statement (.loopend f) := at_key rfl rfl
theorem nop (f : Fields) : Statement (.nop f) := at_key rfl rfl
theorem fadd (f : Fields) : Statement (.fadd f) := at_key rfl rfl
theorem fsub (f : Fields) : Statement (.fsub f) := at_key rfl rfl
theorem fmul (f : Fields) : Statement (.fmul f) := at_key rfl rfl
theorem fdiv (f : Fields) : Statement (.fdiv f) := at_key rfl rfl
theorem fsqrt (f : Fields) : Statement (.fsqrt f) := at_key rfl rfl
theorem fma (f : Fields) : Statement (.fma f) := at_key rfl rfl
theorem fmin (f : Fields) : Statement (.fmin f) := at_key rfl rfl
theorem fmax (f : Fields) : Statement (.fmax f) := at_key rfl rfl
theorem fneg (f : Fields) : Statement (.fneg f) := at_key rfl rfl
theorem fabs (f : Fields) : Statement (.fabs f) := at_key rfl rfl
theorem fsgn (f : Fields) : Statement (.fsgn f) := at_key rfl rfl
theorem fcmpeq (f : Fields) : Statement (.fcmpeq f) := at_key rfl rfl
theorem fcmplt (f : Fields) : Statement (.fcmplt f) := at_key rfl rfl
theorem fcmple (f : Fields) : Statement (.fcmple f) := at_key rfl rfl
theorem fclass (f : Fields) : Statement (.fclass f) := at_key rfl rfl
theorem fmov (f : Fields) : Statement (.fmov f) := at_key rfl rfl
theorem fcvt (f : Fields) : Statement (.fcvt f) := at_key rfl rfl
theorem fcvti (f : Fields) : Statement (.fcvti f) := at_key rfl rfl
theorem icvtf (f : Fields) : Statement (.icvtf f) := at_key rfl rfl
theorem fmvfs (f : Fields) : Statement (.fmvfs f) := at_key rfl rfl
theorem fmvsf (f : Fields) : Statement (.fmvsf f) := at_key rfl rfl
theorem fsel (f : Fields) : Statement (.fsel f) := at_key rfl rfl
theorem frnd (f : Fields) : Statement (.frnd f) := at_key rfl rfl
theorem reservedOpcode (code : BitVec 11) : Statement (.reservedOpcode code) := no_key rfl
theorem illegalChain : Statement (.illegalChain) := no_key rfl
theorem vadd (f : Fields) : Statement (.vadd f) := at_key rfl rfl
theorem vsub (f : Fields) : Statement (.vsub f) := at_key rfl rfl
theorem vmul (f : Fields) : Statement (.vmul f) := at_key rfl rfl
theorem vmulh (f : Fields) : Statement (.vmulh f) := at_key rfl rfl
theorem vmin (f : Fields) : Statement (.vmin f) := at_key rfl rfl
theorem vmax (f : Fields) : Statement (.vmax f) := at_key rfl rfl
theorem vabs (f : Fields) : Statement (.vabs f) := at_key rfl rfl
theorem vneg (f : Fields) : Statement (.vneg f) := at_key rfl rfl
theorem vand (f : Fields) : Statement (.vand f) := at_key rfl rfl
theorem vor (f : Fields) : Statement (.vor f) := at_key rfl rfl
theorem vxor (f : Fields) : Statement (.vxor f) := at_key rfl rfl
theorem vandn (f : Fields) : Statement (.vandn f) := at_key rfl rfl
theorem vshl (f : Fields) : Statement (.vshl f) := at_key rfl rfl
theorem vshr (f : Fields) : Statement (.vshr f) := at_key rfl rfl
theorem vsra (f : Fields) : Statement (.vsra f) := at_key rfl rfl
theorem vnot (f : Fields) : Statement (.vnot f) := at_key rfl rfl
theorem vfadd (f : Fields) : Statement (.vfadd f) := at_key rfl rfl
theorem vfsub (f : Fields) : Statement (.vfsub f) := at_key rfl rfl
theorem vfmul (f : Fields) : Statement (.vfmul f) := at_key rfl rfl
theorem vfdiv (f : Fields) : Statement (.vfdiv f) := at_key rfl rfl
theorem vfma (f : Fields) : Statement (.vfma f) := at_key rfl rfl
theorem vfms (f : Fields) : Statement (.vfms f) := at_key rfl rfl
theorem vfmin (f : Fields) : Statement (.vfmin f) := at_key rfl rfl
theorem vfmax (f : Fields) : Statement (.vfmax f) := at_key rfl rfl
theorem vfabs (f : Fields) : Statement (.vfabs f) := at_key rfl rfl
theorem vfneg (f : Fields) : Statement (.vfneg f) := at_key rfl rfl
theorem vfsqrt (f : Fields) : Statement (.vfsqrt f) := at_key rfl rfl
theorem vrcp (f : Fields) : Statement (.vrcp f) := at_key rfl rfl
theorem vrsq (f : Fields) : Statement (.vrsq f) := at_key rfl rfl
theorem vexp2 (f : Fields) : Statement (.vexp2 f) := at_key rfl rfl
theorem vlog2 (f : Fields) : Statement (.vlog2 f) := at_key rfl rfl
theorem vsel (f : Fields) : Statement (.vsel f) := at_key rfl rfl
theorem vcmpeq (f : Fields) : Statement (.vcmpeq f) := at_key rfl rfl
theorem vcmplt (f : Fields) : Statement (.vcmplt f) := at_key rfl rfl
theorem vcmple (f : Fields) : Statement (.vcmple f) := at_key rfl rfl
theorem vfcmpeq (f : Fields) : Statement (.vfcmpeq f) := at_key rfl rfl
theorem vfcmplt (f : Fields) : Statement (.vfcmplt f) := at_key rfl rfl
theorem vfcmple (f : Fields) : Statement (.vfcmple f) := at_key rfl rfl
theorem vredsum (f : Fields) : Statement (.vredsum f) := at_key rfl rfl
theorem vredmax (f : Fields) : Statement (.vredmax f) := at_key rfl rfl
theorem vredmin (f : Fields) : Statement (.vredmin f) := at_key rfl rfl
theorem vfredsum (f : Fields) : Statement (.vfredsum f) := at_key rfl rfl
theorem vfredmax (f : Fields) : Statement (.vfredmax f) := at_key rfl rfl
theorem vfredmin (f : Fields) : Statement (.vfredmin f) := at_key rfl rfl
theorem vperm (f : Fields) : Statement (.vperm f) := at_key rfl rfl
theorem vslide (f : Fields) : Statement (.vslide f) := at_key rfl rfl
theorem vzip (f : Fields) : Statement (.vzip f) := at_key rfl rfl
theorem vunzip (f : Fields) : Statement (.vunzip f) := at_key rfl rfl
theorem vmov (f : Fields) : Statement (.vmov f) := at_key rfl rfl
theorem vsplat (f : Fields) : Statement (.vsplat f) := at_key rfl rfl
theorem vext (f : Fields) : Statement (.vext f) := at_key rfl rfl
theorem vins (f : Fields) : Statement (.vins f) := at_key rfl rfl
theorem vdot (pair : BitVec 5) (f : Fields) : Statement (.vdot pair f) := by
  intro p o g hk hr
  cases hk
  have hp := pair.isLt
  have h1 : (0 * 32 + pair.toNat) / 32 = 0 := by omega
  have h2 : (0 * 32 + pair.toNat) % 32 = pair.toNat := by omega
  have h3 : BitVec.ofNat 5 (0 * 32 + pair.toNat) = pair := by
    apply BitVec.eq_of_toNat_eq
    rw [BitVec.toNat_ofNat]
    exact h2
  have hq : pair.toNat < 20 := of_decide_eq_true hr
  show page3 _ f = _
  simp only [page3, h1, h2, h3, hq, if_true]
theorem vcvtn (pair : BitVec 5) (f : Fields) : Statement (.vcvtn pair f) := by
  intro p o g hk hr
  cases hk
  have hp := pair.isLt
  have h1 : (1 * 32 + pair.toNat) / 32 = 1 := by omega
  have h2 : (1 * 32 + pair.toNat) % 32 = pair.toNat := by omega
  have h3 : BitVec.ofNat 5 (1 * 32 + pair.toNat) = pair := by
    apply BitVec.eq_of_toNat_eq
    rw [BitVec.toNat_ofNat]
    exact h2
  have hq : 20 ≤ pair.toNat := of_decide_eq_true hr
  show page3 _ f = _
  simp only [page3, h1, h2, h3, hq, if_true]
theorem vcvtw (pair : BitVec 5) (f : Fields) : Statement (.vcvtw pair f) := by
  intro p o g hk hr
  cases hk
  have hp := pair.isLt
  have h1 : (2 * 32 + pair.toNat) / 32 = 2 := by omega
  have h2 : (2 * 32 + pair.toNat) % 32 = pair.toNat := by omega
  have h3 : BitVec.ofNat 5 (2 * 32 + pair.toNat) = pair := by
    apply BitVec.eq_of_toNat_eq
    rw [BitVec.toNat_ofNat]
    exact h2
  have hq : 20 ≤ pair.toNat := of_decide_eq_true hr
  show page3 _ f = _
  simp only [page3, h1, h2, h3, hq, if_true]
theorem push (f : Fields) : Statement (.push f) := at_key rfl rfl
theorem pop (f : Fields) : Statement (.pop f) := at_key rfl rfl
theorem popq (f : Fields) : Statement (.popq f) := at_key rfl rfl
theorem engst (f : Fields) : Statement (.engst f) := at_key rfl rfl
theorem engabort (f : Fields) : Statement (.engabort f) := at_key rfl rfl
theorem slotld (f : Fields) : Statement (.slotld f) := at_key rfl rfl
theorem rowprog (f : Fields) : Statement (.rowprog f) := at_key rfl rfl
theorem cbload (f : Fields) : Statement (.cbload f) := at_key rfl rfl
theorem mcmd (f : Fields) : Statement (.mcmd f) := at_key rfl rfl
theorem gcmd (f : Fields) : Statement (.gcmd f) := at_key rfl rfl
theorem xcmd (f : Fields) : Statement (.xcmd f) := at_key rfl rfl
theorem scmd (f : Fields) : Statement (.scmd f) := at_key rfl rfl
theorem ccmd (f : Fields) : Statement (.ccmd f) := at_key rfl rfl
theorem cmdset (f : Fields) : Statement (.cmdset f) := at_key rfl rfl
theorem cmdvc (f : Fields) : Statement (.cmdvc f) := at_key rfl rfl
theorem cmdadr (f : Fields) : Statement (.cmdadr f) := at_key rfl rfl
theorem mma (pair : BitVec 5) (f : Fields) : Statement (.mma pair f) := by
  intro p o g hk hr
  cases hk
  have hp := pair.isLt
  have h1 : (3 * 32 + pair.toNat) / 32 = 3 := by omega
  have h2 : (3 * 32 + pair.toNat) % 32 = pair.toNat := by omega
  have h3 : BitVec.ofNat 5 (3 * 32 + pair.toNat) = pair := by
    apply BitVec.eq_of_toNat_eq
    rw [BitVec.toNat_ofNat]
    exact h2
  have hq : pair.toNat < 20 := of_decide_eq_true hr
  show page3 _ f = _
  simp only [page3, h1, h2, h3, hq, if_true]
theorem mtld (f : Fields) : Statement (.mtld f) := at_key rfl rfl
theorem mtst (f : Fields) : Statement (.mtst f) := at_key rfl rfl
theorem mtmma (f : Fields) : Statement (.mtmma f) := at_key rfl rfl
theorem mtzero (f : Fields) : Statement (.mtzero f) := at_key rfl rfl
theorem mtadd (f : Fields) : Statement (.mtadd f) := at_key rfl rfl
theorem mtmov (f : Fields) : Statement (.mtmov f) := by
  intro p o g hk hr
  cases hk
  simp [Instr.ownRow] at hr
  exact congrArg some (by simp [hr])
theorem mtmovRowIn (f : Fields) : Statement (.mtmovRowIn f) := by
  intro p o g hk hr
  cases hk
  simp [Instr.ownRow] at hr
  exact congrArg some (by simp [hr])
theorem mtmovRowOut (f : Fields) : Statement (.mtmovRowOut f) := by
  intro p o g hk hr
  cases hk
  simp [Instr.ownRow] at hr
  exact congrArg some (by simp [hr])
theorem mtcvt (f : Fields) : Statement (.mtcvt f) := at_key rfl rfl
theorem mtred (f : Fields) : Statement (.mtred f) := at_key rfl rfl
theorem ld8 (f : Fields) : Statement (.ld8 f) := at_key rfl rfl
theorem ld8s (f : Fields) : Statement (.ld8s f) := at_key rfl rfl
theorem ld16 (f : Fields) : Statement (.ld16 f) := at_key rfl rfl
theorem ld16s (f : Fields) : Statement (.ld16s f) := at_key rfl rfl
theorem ld32 (f : Fields) : Statement (.ld32 f) := at_key rfl rfl
theorem ld32s (f : Fields) : Statement (.ld32s f) := at_key rfl rfl
theorem ld64 (f : Fields) : Statement (.ld64 f) := at_key rfl rfl
theorem ldf (f : Fields) : Statement (.ldf f) := at_key rfl rfl
theorem st8 (f : Fields) : Statement (.st8 f) := at_key rfl rfl
theorem st16 (f : Fields) : Statement (.st16 f) := at_key rfl rfl
theorem st32 (f : Fields) : Statement (.st32 f) := at_key rfl rfl
theorem st64 (f : Fields) : Statement (.st64 f) := at_key rfl rfl
theorem stf (f : Fields) : Statement (.stf f) := at_key rfl rfl
theorem vld (f : Fields) : Statement (.vld f) := at_key rfl rfl
theorem vst (f : Fields) : Statement (.vst f) := at_key rfl rfl
theorem vlds (f : Fields) : Statement (.vlds f) := at_key rfl rfl
theorem vsts (f : Fields) : Statement (.vsts f) := at_key rfl rfl
theorem pf (f : Fields) : Statement (.pf f) := at_key rfl rfl
theorem pfw (f : Fields) : Statement (.pfw f) := at_key rfl rfl
theorem qld (f : Fields) : Statement (.qld f) := at_key rfl rfl
theorem qst (f : Fields) : Statement (.qst f) := at_key rfl rfl
theorem qvld (f : Fields) : Statement (.qvld f) := at_key rfl rfl
theorem chunkEnd (f : Fields) : Statement (.chunkEnd f) := at_key rfl rfl
theorem fence (f : Fields) : Statement (.fence f) := at_key rfl rfl
theorem amoadd (f : Fields) : Statement (.amoadd f) := at_key rfl rfl
theorem amoand (f : Fields) : Statement (.amoand f) := at_key rfl rfl
theorem amoor (f : Fields) : Statement (.amoor f) := at_key rfl rfl
theorem amoxor (f : Fields) : Statement (.amoxor f) := at_key rfl rfl
theorem amomin (f : Fields) : Statement (.amomin f) := at_key rfl rfl
theorem amomax (f : Fields) : Statement (.amomax f) := at_key rfl rfl
theorem amominn (f : Fields) : Statement (.amominn f) := at_key rfl rfl
theorem amomaxn (f : Fields) : Statement (.amomaxn f) := at_key rfl rfl
theorem amoswp (f : Fields) : Statement (.amoswp f) := at_key rfl rfl
theorem amocas (f : Fields) : Statement (.amocas f) := at_key rfl rfl
theorem mark (f : Fields) : Statement (.mark f) := at_key rfl rfl
theorem cut (f : Fields) : Statement (.cut f) := at_key rfl rfl
theorem graft (f : Fields) : Statement (.graft f) := at_key rfl rfl
theorem slfree (f : Fields) : Statement (.slfree f) := at_key rfl rfl
theorem slinfo (f : Fields) : Statement (.slinfo f) := at_key rfl rfl
theorem unmark (f : Fields) : Statement (.unmark f) := at_key rfl rfl
theorem bar (f : Fields) : Statement (.bar f) := at_key rfl rfl
theorem voteAll (f : Fields) : Statement (.voteAll f) := at_key rfl rfl
theorem voteAny (f : Fields) : Statement (.voteAny f) := at_key rfl rfl
theorem voteSum (f : Fields) : Statement (.voteSum f) := at_key rfl rfl
theorem wait (f : Fields) : Statement (.wait f) := at_key rfl rfl
theorem arrive (f : Fields) : Statement (.arrive f) := at_key rfl rfl
theorem trig (f : Fields) : Statement (.trig f) := at_key rfl rfl
theorem ttsel (f : Fields) : Statement (.ttsel f) := at_key rfl rfl
theorem ttld (f : Fields) : Statement (.ttld f) := at_key rfl rfl
theorem ttgo (f : Fields) : Statement (.ttgo f) := at_key rfl rfl
theorem ttst (f : Fields) : Statement (.ttst f) := at_key rfl rfl
theorem cclr (f : Fields) : Statement (.cclr f) := at_key rfl rfl
theorem split (f : Fields) : Statement (.split f) := at_key rfl rfl
theorem fuse (f : Fields) : Statement (.fuse f) := at_key rfl rfl
theorem trap (f : Fields) : Statement (.trap f) := at_key rfl rfl
theorem rte (f : Fields) : Statement (.rte f) := at_key rfl rfl
theorem csrr (f : Fields) : Statement (.csrr f) := at_key rfl rfl
theorem csrw (f : Fields) : Statement (.csrw f) := at_key rfl rfl
theorem csrs (f : Fields) : Statement (.csrs f) := at_key rfl rfl
theorem csrc (f : Fields) : Statement (.csrc f) := at_key rfl rfl
theorem tlbw (f : Fields) : Statement (.tlbw f) := at_key rfl rfl
theorem tlbinv (f : Fields) : Statement (.tlbinv f) := at_key rfl rfl
theorem start (f : Fields) : Statement (.start f) := at_key rfl rfl
theorem join (f : Fields) : Statement (.join f) := at_key rfl rfl
theorem park (f : Fields) : Statement (.park f) := at_key rfl rfl
theorem jenq (f : Fields) : Statement (.jenq f) := at_key rfl rfl
theorem workq (f : Fields) : Statement (.workq f) := at_key rfl rfl
theorem brk (f : Fields) : Statement (.brk f) := at_key rfl rfl
theorem restrPut (f : Fields) : Statement (.restrPut f) := by
  intro p o g hk hr
  cases hk
  simp [Instr.ownRow] at hr
  exact congrArg some (by simp [hr])
theorem restrCollect (f : Fields) : Statement (.restrCollect f) := by
  intro p o g hk hr
  cases hk
  simp [Instr.ownRow] at hr
  exact congrArg some (by simp [hr])
theorem prolgAdd (f : Fields) : Statement (.prolgAdd f) := by
  intro p o g hk hr
  cases hk
  simp [Instr.ownRow] at hr
  exact congrArg some (by simp [hr])
theorem prolgPut (f : Fields) : Statement (.prolgPut f) := by
  intro p o g hk hr
  cases hk
  simp [Instr.ownRow] at hr
  exact congrArg some (by simp [hr])
theorem restrf (f : Fields) : Statement (.restrf f) := at_key rfl rfl
theorem prolgf (f : Fields) : Statement (.prolgf f) := at_key rfl rfl
theorem rwld (f : Fields) : Statement (.rwld f) := at_key rfl rfl
theorem pwld (f : Fields) : Statement (.pwld f) := at_key rfl rfl
theorem wsel (f : Fields) : Statement (.wsel f) := at_key rfl rfl
theorem layq (f : Fields) : Statement (.layq f) := at_key rfl rfl
theorem matrixMul (core : CoreId) (ctx : Nat) : Statement (.matrixMul core ctx) := no_key rfl
theorem matrixClear (core : CoreId) (ctx : Nat) : Statement (.matrixClear core ctx) := no_key rfl
theorem matrixMarker (core : CoreId) (ctx : Nat) : Statement (.matrixMarker core ctx) := no_key rfl
theorem codebookItem (core : CoreId) (ctx : Nat) : Statement (.codebookItem core ctx) := no_key rfl
theorem gather (core : CoreId) (ctx : Nat) : Statement (.gather core ctx) := no_key rfl
theorem gmul (core : CoreId) (ctx : Nat) : Statement (.gmul core ctx) := no_key rfl
theorem copy (clus ch : Nat) : Statement (.copy clus ch) := no_key rfl
theorem mcast (clus ch : Nat) : Statement (.mcast clus ch) := no_key rfl
theorem fill (clus ch : Nat) : Statement (.fill clus ch) := no_key rfl
theorem topk (core : CoreId) (ctx : Nat) : Statement (.topk core ctx) := no_key rfl
theorem csum (core : CoreId) (ctx : Nat) : Statement (.csum core ctx) := no_key rfl
theorem engineCompletion (core : CoreId) (ctx port : Nat) : Statement (.engineCompletion core ctx port) := no_key rfl
theorem rotationBegin (core : CoreId) : Statement (.rotationBegin core) := no_key rfl
theorem accessHalfIssue (core : CoreId) (ctx : Nat) : Statement (.accessHalfIssue core ctx) := no_key rfl
theorem ldqEntryArrival (core : CoreId) (ctx : Nat) : Statement (.ldqEntryArrival core ctx) := no_key rfl
theorem contextReady (core : CoreId) (ctx : Nat) : Statement (.contextReady core ctx) := no_key rfl
theorem chunkCommit (core : CoreId) (ctx : Nat) : Statement (.chunkCommit core ctx) := no_key rfl
theorem queueEnable (q : Nat) (tailw : BitVec 31) : Statement (.queueEnable q tailw) := no_key rfl
theorem queueEnableDeferred (q : Nat) : Statement (.queueEnableDeferred q) := no_key rfl
theorem queueDisable (q : Nat) (tailw : BitVec 31) : Statement (.queueDisable q tailw) := no_key rfl
theorem tailUpdate (q : Nat) (tailw : BitVec 31) : Statement (.tailUpdate q tailw) := no_key rfl
theorem completionDoorbell (q : Nat) (chead : W32) : Statement (.completionDoorbell q chead) := no_key rfl
theorem triggerCounterWrite (k : Nat) (v : W32) : Statement (.triggerCounterWrite k v) := no_key rfl
theorem cardFetch (q : Nat) : Statement (.cardFetch q) := no_key rfl
theorem quantumBoundary (layer : Nat) : Statement (.quantumBoundary layer) := no_key rfl
theorem triggerFire (q : Nat) : Statement (.triggerFire q) := no_key rfl
theorem dealingRound (layer : Nat) : Statement (.dealingRound layer) := no_key rfl
theorem cycleSectionStart (card : Nat) (core : CoreId) : Statement (.cycleSectionStart card core) := no_key rfl
theorem workqAnswer (core : CoreId) (ctx : Nat) : Statement (.workqAnswer core ctx) := no_key rfl
theorem spallocAllocate (core : CoreId) (ctx : Nat) : Statement (.spallocAllocate core ctx) := no_key rfl
theorem spallocFree (core : CoreId) (ctx : Nat) : Statement (.spallocFree core ctx) := no_key rfl
theorem spallocResRead (core : CoreId) (ctx : Nat) : Statement (.spallocResRead core ctx) := no_key rfl
theorem watchdogPreempt (card : Nat) : Statement (.watchdogPreempt card) := no_key rfl
theorem watchdogKill (card : Nat) : Statement (.watchdogKill card) := no_key rfl
theorem watchdogFence (card : Nat) : Statement (.watchdogFence card) := no_key rfl
theorem imageLoad (addr : Nat) (load : VAddr) (asid : BitVec 16) : Statement (.imageLoad addr load asid) := no_key rfl
theorem variantReselection : Statement (.variantReselection) := no_key rfl
theorem cardRetirement (card : Nat) : Statement (.cardRetirement card) := no_key rfl
theorem completionRecordWrite (q : Nat) : Statement (.completionRecordWrite q) := no_key rfl
theorem finalCommit (dom : Nat) : Statement (.finalCommit dom) := no_key rfl
theorem contextEnd (core : CoreId) (ctx : Nat) : Statement (.contextEnd core ctx) := no_key rfl
theorem missMessage (core : CoreId) (ctx unit : Nat) : Statement (.missMessage core ctx unit) := no_key rfl
theorem stage2FaultRecord (x : Stage2Fault) : Statement (.stage2FaultRecord x) := no_key rfl
theorem leaseExpiry (core : CoreId) (entry : Nat) : Statement (.leaseExpiry core entry) := no_key rfl
theorem shootdownMessage (core : CoreId) : Statement (.shootdownMessage core) := no_key rfl
theorem shootdownAck (core : CoreId) : Statement (.shootdownAck core) := no_key rfl
theorem wakeTlbInvalidate (core : CoreId) : Statement (.wakeTlbInvalidate core) := no_key rfl
theorem linkRendezvous (parent : CoreId) : Statement (.linkRendezvous parent) := no_key rfl
theorem barrierCommit (dom : Nat) : Statement (.barrierCommit dom) := no_key rfl
theorem barrierRelease (dom : Nat) : Statement (.barrierRelease dom) := no_key rfl
theorem voteCommit (dom : Nat) : Statement (.voteCommit dom) := no_key rfl
theorem fabricToken (port : Nat) (num : W32) : Statement (.fabricToken port num) := no_key rfl
theorem ttSendEntry (core : CoreId) (entry : Nat) : Statement (.ttSendEntry core entry) := no_key rfl
theorem ttReceiveEntry (core : CoreId) (entry : Nat) : Statement (.ttReceiveEntry core entry) := no_key rfl
theorem ttForwardEntry (core : CoreId) (entry : Nat) : Statement (.ttForwardEntry core entry) := no_key rfl
theorem ttLostWord (core : CoreId) (dir : Nat) : Statement (.ttLostWord core dir) := no_key rfl
theorem quekinFlit (port peer stream : Nat) (words : List W32) : Statement (.quekinFlit port peer stream words) := no_key rfl
theorem fillerDisplacement (core : CoreId) : Statement (.fillerDisplacement core) := no_key rfl
theorem mailboxHeldEntry (core : CoreId) : Statement (.mailboxHeldEntry core) := no_key rfl
theorem mboxPop (core : CoreId) : Statement (.mboxPop core) := no_key rfl
theorem ctxResume (firmware : CoreId) (target : W32) : Statement (.ctxResume firmware target) := no_key rfl
theorem ctxDeliver (firmware : CoreId) (target : W32) : Statement (.ctxDeliver firmware target) := no_key rfl
theorem ctxKill (firmware : CoreId) (target : W32) : Statement (.ctxKill firmware target) := no_key rfl
theorem ctxUnpark (firmware : CoreId) (target : W32) : Statement (.ctxUnpark firmware target) := no_key rfl
theorem ctxRollback (firmware : CoreId) (target : W32) : Statement (.ctxRollback firmware target) := no_key rfl
theorem ctxPreempt (firmware : CoreId) (target : W32) : Statement (.ctxPreempt firmware target) := no_key rfl
theorem uncorrectableError (u : ErrUnit) : Statement (.uncorrectableError u) := no_key rfl
theorem pairMismatch (entry : Nat) : Statement (.pairMismatch entry) := no_key rfl
theorem mergeTimeout (entry : Nat) : Statement (.mergeTimeout entry) := no_key rfl
theorem rollback (dom : Nat) : Statement (.rollback dom) := no_key rfl
theorem preemption (card : Nat) : Statement (.preemption card) := no_key rfl
theorem preemptionResume (card : Nat) (core : CoreId) : Statement (.preemptionResume card core) := no_key rfl
theorem ckptSeal : Statement (.ckptSeal) := no_key rfl
theorem ckptRestore : Statement (.ckptRestore) := no_key rfl
theorem ckptBind : Statement (.ckptBind) := no_key rfl
theorem ckptQuote : Statement (.ckptQuote) := no_key rfl
theorem ckptCommitMessage (tm : List Byte) (counter : Dword) (signed sig akpub akcert : List Byte) : Statement (.ckptCommitMessage tm counter signed sig akpub akcert) := no_key rfl
theorem ckptAckTimeout : Statement (.ckptAckTimeout) := no_key rfl
theorem intervalBoundary (meas demand energy : Nat) : Statement (.intervalBoundary meas demand energy) := no_key rfl
theorem ptpMessage (time : Dword) (domain : Byte) : Statement (.ptpMessage time domain) := no_key rfl
theorem telemetryRecord : Statement (.telemetryRecord) := no_key rfl
theorem telEnergyRead (core : CoreId) (ctx : Nat) : Statement (.telEnergyRead core ctx) := no_key rfl
theorem clQuiesce : Statement (.clQuiesce) := no_key rfl
theorem clSave : Statement (.clSave) := no_key rfl
theorem clClkoff : Statement (.clClkoff) := no_key rfl
theorem clRailoff : Statement (.clRailoff) := no_key rfl
theorem clWake : Statement (.clWake) := no_key rfl
theorem quiesceDone (clus : Nat) : Statement (.quiesceDone clus) := no_key rfl
theorem saveDone (clus : Nat) : Statement (.saveDone clus) := no_key rfl
theorem clockStopped (clus : Nat) : Statement (.clockStopped clus) := no_key rfl
theorem railOff (clus : Nat) : Statement (.railOff clus) := no_key rfl
theorem wakeDone (clus : Nat) : Statement (.wakeDone clus) := no_key rfl
theorem deviceReset : Statement (.deviceReset) := no_key rfl
theorem functionReady (fn : Function) : Statement (.functionReady fn) := no_key rfl
theorem faultMessage (core : CoreId) (ctx : Nat) : Statement (.faultMessage core ctx) := no_key rfl
theorem correctedError (u : ErrUnit) : Statement (.correctedError u) := no_key rfl
theorem holdoverEntry : Statement (.holdoverEntry) := no_key rfl
theorem quekinLinkError (port : Nat) : Statement (.quekinLinkError port) := no_key rfl
theorem clockRestart (clus : Nat) : Statement (.clockRestart clus) := no_key rfl
theorem commitAcknowledgement (env : Nat) : Statement (.commitAcknowledgement env) := no_key rfl

end Sys2Proof.Laws.Words
end

