-- ==== Sys2Proof/Laws/Rows.lean ====
section
/-! SUPPORT. The table of meanings that a fetch runs is `exec` of the table of instructions that the decoder reads. -/

namespace Sys2Proof.Machine

/-- What reading a row and then applying a function gives. -/
theorem rowAt_map {α β : Type} (g : α → β) (k : Nat) (l : List (Nat × α)) :
    Sys2Proof.rowAt k (l.map fun x => (x.1, g x.2)) = (Sys2Proof.rowAt k l).map g := by
  induction l with
  | nil => rfl
  | cons x t ih => simp only [List.map, Sys2Proof.rowAt]; split <;> simp [ih]

/-- A row's meaning beside its opcode. -/
def meaning (x : Nat × Instr) : Nat × (State → Host.Outcome State Fault Refusal) := (x.1, exec x.2)

theorem runPage0_eq (f : Fields) : runPage0 f = (Sys2Proof.page0 f).map meaning := rfl
theorem runPage1_eq (f : Fields) : runPage1 f = (Sys2Proof.page1 f).map meaning := rfl
theorem runPage2_eq (f : Fields) : runPage2 f = (Sys2Proof.page2 f).map meaning := by
  simp only [runPage2, Sys2Proof.page2, runPage2a, Sys2Proof.page2a, List.map, meaning]
  split <;> first | rfl | (split <;> rfl)
theorem runPage4_eq (f : Fields) : runPage4 f = (Sys2Proof.page4 f).map meaning := rfl
theorem runPage5_eq (f : Fields) : runPage5 f = (Sys2Proof.page5 f).map meaning := rfl
theorem runPage6_eq (f : Fields) : runPage6 f = (Sys2Proof.page6 f).map meaning := by
  simp only [runPage6, Sys2Proof.page6, runPage6a, Sys2Proof.page6a, List.map, meaning]
  split <;> rfl
theorem runPage3_eq (opc : Nat) (f : Fields) : runPage3 opc f = (Sys2Proof.page3 opc f).map exec := by
  simp only [runPage3, Sys2Proof.page3]
  generalize opc / 32 = k
  match k with
  | 0 => by_cases h : opc % 32 < 20 <;> simp only [h, if_true, if_false] <;> rfl
  | 1 => by_cases h : 20 ≤ opc % 32 <;> simp only [h, if_true, if_false] <;> rfl
  | 2 => by_cases h : 20 ≤ opc % 32 <;> simp only [h, if_true, if_false] <;> rfl
  | 3 => by_cases h : opc % 32 < 20 <;> simp only [h, if_true, if_false] <;> rfl
  | _ + 4 => rfl

/-- What a fetched opcode runs is `exec` of the instruction it decodes to. -/
theorem runAt_eq (page opc : Nat) (f : Fields) : runAt page opc f = (Sys2Proof.opcode page opc f).map exec := by
  match page with
  | 0 => exact (congrArg _ (runPage0_eq f)).trans (rowAt_map exec opc _)
  | 1 => exact (congrArg _ (runPage1_eq f)).trans (rowAt_map exec opc _)
  | 2 => exact (congrArg _ (runPage2_eq f)).trans (rowAt_map exec opc _)
  | 3 => exact runPage3_eq opc f
  | 4 => exact (congrArg _ (runPage4_eq f)).trans (rowAt_map exec opc _)
  | 5 => exact (congrArg _ (runPage5_eq f)).trans (rowAt_map exec opc _)
  | 6 => exact (congrArg _ (runPage6_eq f)).trans (rowAt_map exec opc _)
  | _ + 7 => rfl

end Sys2Proof.Machine
end

