-- ==== Sys2Proof/Tests/Slice0.lean ====
section
/-! SUPPORT. Tests: a witness of the hypotheses of each statement, ill-formed instructions refused, words of the spec decoded, and single
steps of its worked examples. -/

open Sys2Proof Sys2Proof.Machine

namespace Sys2Proof.Tests

/-! One theorem is elaborated after another: many at once would take more threads than the memory limit allows. -/
set_option Elab.async false

/-- A machine with one core, whose context 0 is live with some registers and issues next. -/
def oneCore (c : CoreId) (r : RegState) : State :=
  { State.reset with cur := c, cores := [(c.key, { Core.reset with ctxs := [(0, { Ctx.reset with status := .live, r := r })] })] }

def l0 : State := oneCore ⟨.l0, 0⟩ { RegState.zero with pc := 0x1000 }

/-- Whether an instruction issues alone and acts. -/
def issuesB (fm : Form) (ok : CoreId → Fields → Bool) (f : Fields) (s : State) : Bool :=
  (s.solo s.holder).isNone && s.together s.holder == [s.holder] && fm.legal s.holder.core.kind f && ok s.holder.core f &&
    (!fm.ends.isBefore || (s.ctx s.holder).chunk.count == 0) && decide (fm.ldqNeed f ≤ (s.ctx s.holder).r.ldq.length) &&
    (!fm.stqDst f || decide ((s.ctx s.holder).stqHeld < 8)) &&
    (fm.guard != .scalar || guardBit s.holder.core.kind f (s.ctx s.holder).r)

theorem issues_of {fm : Form} {ok : CoreId → Fields → Bool} {f : Fields} {s : State} (h : issuesB fm ok f s = true) :
    Issues fm ok f s := by
  simp only [issuesB, Bool.and_eq_true, beq_iff_eq, decide_eq_true_eq, Bool.or_eq_true, Bool.not_eq_true', bne_iff_ne, ne_eq,
    Option.isNone_iff_eq_none] at h
  obtain ⟨⟨⟨⟨⟨⟨⟨h0, h1⟩, h2⟩, h3⟩, h4⟩, h5⟩, h6⟩, h7⟩ := h
  refine ⟨⟨h0, h1⟩, ⟨h2, h3, fun x => ?_, h5, fun x => ?_⟩, fun x => ?_⟩
  · rcases h4 with h | h
    · rw [x] at h; cases h
    · exact h
  · rcases h6 with h | h
    · rw [x] at h; cases h
    · exact h
  · rcases h7 with h | h
    · exact absurd x h
    · exact h

def f0 : Fields := ⟨1, 2, 0, none, none, []⟩

/-! Witnesses: for each statement with hypotheses, a state and operands that meet them. -/

def tcm (o : Nat) : Dword := BitVec.ofNat 64 (0x00FF000000000000 + o)
def regs (l : List (Nat × Dword)) : RegState :=
  l.foldl (fun r x => r.wrS x.1 x.2) { RegState.zero with pc := 0x1000 }
/-- Fields with a register prefix that names TSRC. -/
def f3 (d a b : Nat) : Fields := ⟨BitVec.ofNat 4 d, BitVec.ofNat 4 a, 0, some ⟨false, false, BitVec.ofNat 5 b, false, 0⟩, none, []⟩
def f2 (d a : Nat) : Fields := ⟨BitVec.ofNat 4 d, BitVec.ofNat 4 a, 0, none, none, []⟩
def fi (d a : Nat) (i : List (BitVec 11)) : Fields := ⟨BitVec.ofNat 4 d, BitVec.ofNat 4 a, 0, none, none, i⟩
/-- Two scalar addresses: s2 in the TCM, s3 a number. -/
def mem0 : State := oneCore ⟨.l0, 0⟩ (regs [(2, tcm 64), (3, 5), (30, tcm 0x40000)])
def boot0 : State := oneCore ⟨.boot, 0⟩ (regs [(2, 0x1000)])
/-- A state whose chunk has run one instruction. -/
def midChunk (s : State) : State := s.modCtx s.holder fun c => { c with chunk := { c.chunk with count := 1 } }

theorem witness_step : ∃ (s : State) (c : CoreId) (ts : List Turn) (l : List Half) (i : Instr) (n : Nat), s.turns = .issue c :: ts ∧ clockRuns s c = true ∧
    (let u : State := { coreTick { s with turns := ts } c with cur := c }
     mayIssue u c = true ∧ (∀ m ∈ u.together u.holder, (u.ctx m).pendFault = none) ∧
     fetchHalves u (u.fetcher u.holder) 5 (u.ctx u.holder).r.pc = .ok l ∧ (decode l).step = some (i, n)) :=
  ⟨State.reset.withFetchWord 16 0x0090, ⟨.boot, 0⟩, [], [0x0090], .add f0, 1, by decide, by decide, by decide, by decide, by decide, by decide⟩

theorem witness_memory : Memory.wf State.reset.mem ∧ ∃ t, step State.reset = .next t := ⟨by decide, _, rfl⟩

theorem witness_encoding : (Instr.add f0).key ≠ none ∧ (Instr.add f0).wf = true := by decide

theorem witness_integer : ∃ i x v s, integerRow i = some x ∧ integerResult i = some v ∧ Issues x.fm x.ok x.f s :=
  ⟨.add f0, _, _, l0, rfl, rfl, issues_of (by decide)⟩

theorem witness_predicate : ∃ i x b s, integerRow i = some x ∧ predicateBit i = some b ∧ Issues x.fm x.ok x.f s :=
  ⟨.cmpeq (f3 1 2 3), _, _, l0, rfl, rfl, issues_of (by decide)⟩

theorem witness_floats : (∃ i x c s, floatRow i = some x ∧ floatResult i = some c ∧ Issues x.fm x.ok x.f s) ∧
    (∃ i x v s, floatRow i = some x ∧ floatOutside i = some v ∧ Issues x.fm x.ok x.f s) ∧
    ∃ i x v s, floatRow i = some x ∧ moveResult i = some v ∧ Issues x.fm x.ok x.f s :=
  ⟨⟨.fadd f0, _, _, l0, rfl, rfl, issues_of (by decide)⟩, ⟨.fcmpeq (f3 1 2 3), _, _, l0, rfl, rfl, issues_of (by decide)⟩,
   ⟨.fmov f0, _, _, l0, rfl, rfl, issues_of (by decide)⟩⟩

theorem witness_vectors : (∃ i x v s, vectorRow i = some x ∧ vectorResult i = some v ∧ Issues x.fm x.ok x.f s) ∧
    (∃ i x v s, vectorRow i = some x ∧ elementRow i = some v ∧ Issues x.fm x.ok x.f s) ∧
    ∃ i x v s, vectorRow i = some x ∧ elementCompare i = some v ∧ Issues x.fm x.ok x.f s :=
  ⟨⟨.vadd { f3 1 2 3 with mod := some ⟨13, 0, 0, true⟩ }, _, _, l0, rfl, rfl, issues_of (by decide)⟩,
   ⟨.vfadd (f3 1 2 3), _, _, l0, rfl, rfl, issues_of (by decide)⟩, ⟨.vcmpeq (f3 1 2 3), _, _, l0, rfl, rfl, issues_of (by decide)⟩⟩

theorem witness_reductions : (∃ i x v s, vectorRow i = some x ∧ reductionResult i = some v ∧ Issues x.fm x.ok x.f s) ∧
    (∃ i x v s, commandRow i = some x ∧ commandWord i = some v ∧ Issues x.fm x.ok x.f s) ∧
    (∃ i x v s, tileRow i = some x ∧ tileElement i = some v ∧ Issues x.fm x.ok x.f s) ∧
    ∃ i x v s, tileRow i = some x ∧ TileMove i = some v ∧ Issues x.fm x.ok x.f s :=
  ⟨⟨.vredsum (f3 1 2 0), _, _, l0, rfl, rfl, issues_of (by decide)⟩, ⟨.mcmd (f3 2 4 0), _, _, l0, rfl, rfl, issues_of (by decide)⟩,
   ⟨.mtadd (f3 1 2 3), _, _, oneCore ⟨.l2, 0⟩ (regs []), rfl, rfl, issues_of (by decide)⟩,
   ⟨.mtzero (f2 1 0), _, _, oneCore ⟨.l2, 0⟩ (regs []), rfl, rfl, issues_of (by decide)⟩⟩

theorem witness_falseGuard : ∃ (i : Instr) (x : ChainRow) (s : State), chainRow i = some x ∧ Alone s ∧
    x.fm.legal s.holder.core.kind x.f = true ∧ x.ok s.holder.core x.f = true ∧ x.fm.guard = .scalar ∧
    guardBit s.holder.core.kind x.f (s.ctx s.holder).r = false :=
  ⟨.add { f3 1 2 3 with reg := some ⟨false, false, 3, false, 1⟩ }, _, l0, rfl, ⟨by decide, by decide⟩, by decide, by decide, by decide, by decide⟩

theorem witness_load : ∃ (i : Instr) (x : LoadRow) (s : State) (locs : List Nat), loadRow i = some x ∧ Issues x.fm alwaysOk x.f s ∧ x.aligned (envOf x.fm x.f s) ∧
    reachAll (s.entered x.fm x.f) s.holder 0 0 true (x.addrs (envOf x.fm x.f s)) = .ok locs ∧
    (s.entered x.fm x.f).poisonAt s.holder (locs.zip (x.addrs (envOf x.fm x.f s))) = none :=
  ⟨.ld64 (f2 1 2), _, mem0, _, rfl, issues_of (by decide), by constructor <;> decide, rfl, by decide⟩

theorem witness_store : ∃ (i : Instr) (x : StoreRow) (s : State) (locs : List Nat), storeRow i = some x ∧ Issues x.fm alwaysOk x.f s ∧ x.aligned (envOf x.fm x.f s) ∧
    reachAll (s.entered x.fm x.f) s.holder 0 1 true ((x.bytes (envOf x.fm x.f s)).map (·.1)) = .ok locs ∧
    ¬((s.entered x.fm x.f).phased s.holder = true ∧ locs.any isHost = true) ∧ locs.Nodup :=
  ⟨.st64 (f2 1 2), _, mem0, _, rfl, issues_of (by decide), (by decide : (tcm 64).toNat % 8 = 0), rfl, by decide, by decide⟩

/-- What an access answered. -/
def got {ε α : Type} [Inhabited α] (x : Except ε α) : α := match x with | .ok a => a | .error _ => default
theorem got_of {ε α : Type} [Inhabited α] {x : Except ε α} (h : x.isOk = true) : x = .ok (got x) := by
  cases x with
  | ok a => rfl
  | error e => cases h

theorem witness_atomic : ∀ host : Bool, ∃ (i : Instr) (fm : Form) (f : Fields) (s : State) (locs : List Nat), atomicForm i = some (fm, f) ∧ Issues fm alwaysOk f s ∧ (envOf fm f s).ea.toNat % 8 = 0 ∧ f.fmt = 0 ∧
    reachAll (s.entered fm f) s.holder 0 3 true (span (envOf fm f s).ea 8) = .ok locs ∧
    (s.entered fm f).poisonAt s.holder (locs.zip (span (envOf fm f s).ea 8)) = none ∧ locs.any isHost = host ∧
    (s.ctx s.holder).chunk.count = 0 ∧ (s.entered fm f).phased s.holder = false := by
  intro host
  cases host
  · exact ⟨.amoadd (f3 1 2 3), _, _, mem0, _, rfl, issues_of (by decide), by decide, by decide, rfl, by decide, by decide, by decide, by decide⟩
  · exact ⟨.amoadd (f3 1 2 3), _, _, (oneCore ⟨.l0, 0⟩ (regs [(2, 0x4000)])).modCore ⟨.l0, 0⟩ fun k => { k with tlb := ⟨[⟨0x40, 0x1E00, true, 100, none⟩], 0⟩ },
      _, rfl, issues_of (by decide), by decide, by decide, got_of (by decide +kernel), by decide +kernel, by decide +kernel, by decide, by decide⟩

theorem witness_staged :
    (∃ (i : Instr) (x : StagedRow) (s : State), enginePortRow i = some x ∧ Issues x.fm alwaysOk x.f s ∧ x.cond (envOf x.fm x.f s) (s.entered x.fm x.f)) ∧
    (∃ (i : Instr) (x : StagedRow) (s : State), signalRow i = some x ∧ Issues x.fm alwaysOk x.f s ∧ x.cond (envOf x.fm x.f s) (s.entered x.fm x.f)) ∧
    (∃ (i : Instr) (x : StagedRow) (s : State), hintRow i = some x ∧ Issues x.fm alwaysOk x.f s ∧ x.cond (envOf x.fm x.f s) (s.entered x.fm x.f)) ∧
    (∃ (i : Instr) (x : StagedRow) (s : State), csrRow i = some x ∧ Issues x.fm alwaysOk x.f s ∧ x.cond (envOf x.fm x.f s) (s.entered x.fm x.f)) ∧
    ∃ (i : Instr) (x : StagedRow) (s : State), helperRow i = some x ∧ Issues x.fm alwaysOk x.f s ∧ x.cond (envOf x.fm x.f s) (s.entered x.fm x.f) :=
  ⟨⟨.engabort (f2 0 1), _, l0, rfl, issues_of (by decide), trivial⟩, ⟨.cclr (f2 1 0), _, l0, rfl, issues_of (by decide), trivial⟩,
   ⟨.fence (f2 0 0), _, l0, rfl, issues_of (by decide), trivial⟩, ⟨.csrr (fi 4 0 [0x304]), _, l0, rfl, issues_of (by decide), by decide⟩,
   ⟨.join (f2 1 3), _, (oneCore ⟨.l0, 0⟩ (regs [(3, 5)])).modCtx ⟨⟨.l0, 0⟩, 5⟩ fun c => { c with status := .ended }, rfl, issues_of (by decide),
    by decide⟩⟩

theorem witness_control : ∃ (i : Instr) (x : ControlRow) (s : State), controlRow i = some x ∧ Issues x.fm alwaysOk x.f s ∧ x.cond (envOf x.fm x.f s) :=
  ⟨.jmp (f2 0 2), _, mem0, rfl, issues_of (by decide), by decide⟩

theorem witness_stack : ∃ (i : Instr) (x : StackRow) (s : State), stackRow i = some x ∧ Issues x.fm alwaysOk x.f s ∧ x.cond (envOf x.fm x.f s) (s.entered x.fm x.f) :=
  ⟨.enter (fi 0 0 [2]), _, mem0, rfl, issues_of (by decide), by decide⟩

theorem witness_traps : ∃ (i : Instr) (fm : Form) (f : Fields) (trap : Env → State → Option Trap) (x : Trap) (s : State), trapRow i = some (fm, f, trap) ∧ Issues fm alwaysOk f s ∧ (s.ctx s.holder).chunk.count = 0 ∧
    trap (envOf fm f s) (s.entered fm f) = some x :=
  ⟨.brk (f2 0 0), _, _, _, _, l0, rfl, issues_of (by decide), by decide, rfl⟩

theorem witness_trapLater : ∃ (i : Instr) (fm : Form) (f : Fields) (trap : Env → State → Option Trap) (x : Trap) (s : State), trapRow i = some (fm, f, trap) ∧ Issues fm alwaysOk f s ∧ (s.ctx s.holder).chunk.count ≠ 0 ∧
    trap (envOf fm f s) (s.entered fm f) = some x :=
  ⟨.ret (f2 0 0), _, _, _, _, midChunk (oneCore ⟨.l0, 0⟩ (regs [(31, 1)])), rfl, issues_of (by decide), by decide, rfl⟩

theorem witness_illegal : (∃ (i : Instr) (x : ChainRow) (s : State), chainRow i = some x ∧ Alone s ∧
    (x.fm.legal s.holder.core.kind x.f && x.ok s.holder.core x.f) = false ∧ (s.ctx s.holder).chunk.count = 0) ∧
    ((midChunk l0).ctx l0.holder).chunk.count ≠ 0 :=
  ⟨⟨.and { f3 1 2 3 with mod := some ⟨1, 0, 0, false⟩ }, _, l0, rfl, ⟨by decide, by decide⟩, by decide, by decide⟩, by decide⟩

theorem witness_before : (∃ (i : Instr) (x : ChainRow) (s : State), chainRow i = some x ∧ Alone s ∧ x.fm.legal s.holder.core.kind x.f = true ∧
    x.ok s.holder.core x.f = true ∧ guardBit s.holder.core.kind x.f (s.ctx s.holder).r = true ∧ x.fm.ends.isBefore = true ∧ (s.ctx s.holder).chunk.count ≠ 0) ∧
    (∃ (i : Instr) (x : ChainRow) (s : State), chainRow i = some x ∧ Alone s ∧ x.fm.legal s.holder.core.kind x.f = true ∧
      x.ok s.holder.core x.f = true ∧ guardBit s.holder.core.kind x.f (s.ctx s.holder).r = true ∧
      s.opened.r.ldq.length < x.fm.ldqNeed x.f) ∧
    ∃ (i : Instr) (x : ChainRow) (s : State), chainRow i = some x ∧ Alone s ∧ x.fm.legal s.holder.core.kind x.f = true ∧
      guardBit s.holder.core.kind x.f (s.ctx s.holder).r = true ∧ x.fm.ldqNeed x.f ≤ s.opened.r.ldq.length ∧
      x.fm.stqDst x.f = true ∧ 8 ≤ (s.ctx s.holder).stqHeld :=
  ⟨⟨.bar (f2 0 0), _, midChunk l0, rfl, ⟨by decide, by decide⟩, by decide, by decide, by decide, by decide, by decide⟩,
   ⟨.add { f3 1 0 3 with reg := some ⟨false, false, 3, true, 0⟩ }, _, l0, rfl, ⟨by decide, by decide⟩, by decide, by decide, by decide, by decide⟩,
   ⟨.add { f3 0 2 3 with reg := some ⟨false, false, 3, true, 0⟩ }, _,
    oneCore ⟨.l0, 0⟩ { RegState.zero with stq := List.replicate 8 0 }, rfl, ⟨by decide, by decide⟩, by decide, by decide, by decide, by decide, by decide⟩⟩

/-- A state with some doublewords in the TCM of L0 core 0. -/
def tcm0 (s : State) (l : List (Nat × Nat)) : State :=
  { s with mem := l.foldl (fun m x => Memory.store m (tcmLoc ⟨.l0, 0⟩ x.1) 8 x.2) s.mem }

/-- A card at s2 with a page table of its own, and a device-fed queue 5. -/
def enq0 : State := (tcm0 mem0 [(64, 0xFF000000000100), (88, 0x10000008)]).modQueue 5 fun q => { q with en := true, desc := [0, 0, 0, 8] }

theorem witness_reads : (∃ (i : Instr) (x : ReadRow) (s : State) (locs : List Nat), readRow i = some x ∧ Issues x.fm alwaysOk x.f s ∧
      let e := envOf x.fm x.f s
      let u := s.entered x.fm x.f
      x.cond e u ∧ reachAll u s.holder 0 0 true (x.addrs e) = .ok locs ∧ u.poisonAt s.holder (locs.zip (x.addrs e)) = none ∧
        ¬readsTable i e (u.afterRead s.holder locs) (u.see s.holder locs)) ∧
    ∃ (f : Fields) (s : State) (l1 l2 : List Nat), Issues Forms.jenqF alwaysOk f s ∧
      let e := envOf Forms.jenqF f s
      let u := s.entered Forms.jenqF f
      let v := u.afterRead s.holder l1
      let at2 := span (BitVec.ofNat 64 (((dwordsIn (u.see s.holder l1) 8).headD 0).toNat % 2 ^ 56)) 32
      e.tsrcS.toNat % 64 = 0 ∧ reachAll u s.holder 0 0 true (span e.tsrcS 64) = .ok l1 ∧
        u.poisonAt s.holder (l1.zip (span e.tsrcS 64)) = none ∧ readsTable (.jenq f) e v (u.see s.holder l1) ∧
        reachAll v s.holder 0 0 true at2 = .ok l2 ∧ v.poisonAt s.holder (l2.zip at2) = none := by
  constructor
  · refine ⟨.rwld (f2 0 2), _, mem0, _, rfl, issues_of (by decide), ?_, got_of (by decide +kernel), by decide +kernel, ?_⟩
    · constructor <;> decide +kernel
    · rintro ⟨⟨_, h⟩, -⟩; cases h
  · exact ⟨f3 1 3 2, enq0, _, _, issues_of (by decide +kernel), by decide +kernel, got_of (by decide +kernel), by decide +kernel,
      ⟨⟨_, rfl⟩, by decide +kernel⟩, got_of (by decide +kernel), by decide +kernel⟩

theorem witness_queues :
    (∃ (fm : Form) (f : Fields) (n : Nat) (s : State) (locs : List Nat), fm = Forms.qldF ∧ n = 2 ^ f.aux.toNat ∧ Issues fm alwaysOk f s ∧
      let e := envOf fm f s
      let u := s.entered fm f
      e.ea.toNat % (if n = 32 then 4 else n) = 0 ∧ aheadOf (s.ctx s.holder) false = none ∧
        reachAll u s.holder 0 0 true (span e.ea n) = .ok locs ∧ u.poisonAt s.holder (locs.zip (span e.ea n)) = none) ∧
    (∃ (f : Fields) (s : State) (h : Ahead), Issues Forms.qvldF alwaysOk f s ∧
      let e := envOf Forms.qvldF f s
      let u := s.entered Forms.qvldF f
      e.ea.toNat % 4 = 0 ∧ aheadOf (s.ctx s.holder) false = some h ∧ h.fault = none ∧ u.poisonAt s.holder (h.locs.zip (span e.ea 32)) = none) ∧
    (∃ (f : Fields) (s : State) (h : Ahead) (code : Byte) (info : W32) (va : Dword), Issues Forms.qvldF alwaysOk f s ∧
      (envOf Forms.qvldF f s).ea.toNat % 4 = 0 ∧ aheadOf (s.ctx s.holder) false = some h ∧ h.fault = some (code, info, va) ∧ code ≠ 0x17 ∧
      (s.ctx s.holder).chunk.count = 0) ∧
    ∃ (f : Fields) (s : State) (x : BitVec 256) (q : List (BitVec 256)) (locs : List Nat), Issues Forms.qstF alwaysOk f s ∧
      let e := envOf Forms.qstF f s
      let u := s.entered Forms.qstF f
      e.ea.toNat % (if 2 ^ f.aux.toNat = 32 then 4 else 2 ^ f.aux.toNat) = 0 ∧ (∀ h, aheadOf (s.ctx s.holder) true = some h → h.fault = none) ∧
        e.r.stq = x :: q ∧ reachAll u s.holder 0 1 true (span e.ea (2 ^ f.aux.toNat)) = .ok locs := by
  refine ⟨⟨_, { f2 0 2 with aux := 3 }, _, mem0, _, rfl, rfl, issues_of (by decide), by decide, by decide, got_of (by decide +kernel), by decide +kernel⟩, ?_, ?_, ?_⟩
  · exact ⟨f2 0 2, mem0.modCtx mem0.holder fun c => { c with ahead := [⟨0x1000, false, [], 7, none⟩] }, _, issues_of (by decide), by decide, rfl, rfl, by decide⟩
  · exact ⟨f2 0 2, mem0.modCtx mem0.holder fun c => { c with ahead := [⟨0x1000, false, [], 0, some (0x10, 0, 64)⟩] }, _, 0x10, 0, 64,
      issues_of (by decide), by decide, rfl, rfl, by decide, by decide⟩
  · exact ⟨{ f2 0 2 with aux := 5 }, mem0.modCtx mem0.holder fun c => { c with r := { c.r with stq := [9] } }, 9, [], _, issues_of (by decide),
      by decide, (fun h e => by cases e), by decide, got_of (by decide +kernel)⟩

theorem witness_start : (∃ (f : Fields) (s : State) (h : Nat), Issues Forms.startF alwaysOk f s ∧ (envOf Forms.startF f s).srcS.toNat % 2 = 0 ∧
      1 ≤ h ∧ h ≤ 10 ∧ (s.ctx ⟨s.holder.core, h⟩).status = .free ∧ ∀ k, 1 ≤ k → k < h → (s.ctx ⟨s.holder.core, k⟩).status ≠ .free) ∧
    (∃ (f : Fields) (s : State) (h : Nat), Issues Forms.startF alwaysOk f s ∧ (envOf Forms.startF f s).srcS.toNat % 2 = 0 ∧
      1 ≤ h ∧ h ≤ 10 ∧ (s.ctx ⟨s.holder.core, h⟩).status = .ended ∧ s.opened.chunk.hasJoined h = true ∧
      ∀ k, 1 ≤ k → k < h → (s.ctx ⟨s.holder.core, k⟩).status = .live) ∧
    (∃ (f : Fields) (s : State), Issues Forms.startF alwaysOk f s ∧ (envOf Forms.startF f s).srcS.toNat % 2 = 0 ∧
      ∀ k, 1 ≤ k → k ≤ 10 → (s.ctx ⟨s.holder.core, k⟩).status = .live) ∧ ∃ (f : Fields) (s : State), Issues Forms.parkF alwaysOk f s := by
  let full := (List.range 10).foldl (fun (s : State) k => s.modCtx ⟨⟨.l0, 0⟩, k + 1⟩ fun c => { c with status := .live }) mem0
  let joined := (full.modCtx ⟨⟨.l0, 0⟩, 7⟩ fun c => { c with status := .ended }).modCtx mem0.holder fun c =>
    { c with chunk := { c.chunk with count := 1, effects := [.joined 7] } }
  exact ⟨⟨f3 1 2 3, mem0, 1, issues_of (by decide), by decide, by decide, by decide, by decide, fun k a b => absurd b (by omega)⟩,
    ⟨f3 1 2 3, joined, 7, issues_of (by decide +kernel), by decide +kernel, by decide, by decide, by decide +kernel, by decide +kernel,
      fun k a b => by interval_cases k <;> decide +kernel⟩,
    ⟨f3 1 2 3, full, issues_of (by decide +kernel), by decide +kernel, fun k a b => by interval_cases k <;> decide +kernel⟩,
    ⟨f2 0 0, l0, issues_of (by decide)⟩⟩

theorem witness_tlbinv : (∃ (f : Fields) (s : State), Issues Forms.tlbinvF alwaysOk f s ∧
      let e := envOf Forms.tlbinvF f s
      isPriv s.holder.core.kind = true ∧ e.srcS.toNat % 4096 = 0 ∧ e.srcS.toNat < 2 ^ 56 ∧ bits e.tsrcS.toNat 8 40 = 0 ∧
        bits e.tsrcS.toNat 6 2 ≠ 3 ∧ (s.ctx s.holder).shot = true) ∧
    ∃ (f : Fields) (s : State) (ts : List CoreId), Issues Forms.tlbinvF alwaysOk f s ∧
      let e := envOf Forms.tlbinvF f s
      let u := s.entered Forms.tlbinvF f
      ts = ((u.cores.map fun x => coreOfKey x.1).filter fun c => shootTarget s.holder.core (e.tsrcS.toNat % 16) c && !(u.core c).gated) ∧
        isPriv s.holder.core.kind = true ∧ e.srcS.toNat % 4096 = 0 ∧ e.srcS.toNat < 2 ^ 56 ∧ bits e.tsrcS.toNat 8 40 = 0 ∧
        bits e.tsrcS.toNat 6 2 ≠ 3 ∧ (s.ctx s.holder).shot = false ∧ ts ≠ [] ∧ ts.Nodup := by
  let s := (oneCore ⟨.boot, 0⟩ (regs [(2, 0x1000), (3, 2)])).setCore ⟨.l1, 3⟩ Core.reset
  exact ⟨⟨f3 0 2 3, s.modCtx s.holder fun c => { c with shot := true }, issues_of (by decide +kernel), by decide +kernel⟩,
    ⟨f3 0 2 3, s, [⟨.l1, 3⟩], issues_of (by decide +kernel), by decide +kernel⟩⟩

/-- Two cores whose control contexts are a gang. -/
def gang2 (fused : Bool) : State :=
  let c : Ctx := { Ctx.reset with status := .live, gang := some 1, r := { RegState.zero with pc := 0x1000 } }
  { State.reset with
    cur := ⟨.l0, 0⟩, cores := [(0, { Core.reset with ctxs := [(0, c)] }), (8, { Core.reset with ctxs := [(0, c)] })]
    gangs := [(1, { members := [⟨⟨.l0, 0⟩, 0⟩, ⟨⟨.l0, 1⟩, 0⟩], w := 2, h := 1, fused := fused })] }
def members2 : List CtxId := [⟨⟨.l0, 0⟩, 0⟩, ⟨⟨.l0, 1⟩, 0⟩]
theorem gang2_ready : GangReady (gang2 true) 1 members2 :=
  ⟨by decide, by decide, by decide, by decide, by decide, by decide, by decide, by decide⟩

/-- Whether nothing holds an instruction back in a context. -/
def unheldB (fm : Form) (f : Fields) (s : State) (a : CtxId) : Bool :=
  fm.legal a.core.kind f && (s.ctx a).chunk.count == 0 && decide (fm.ldqNeed f ≤ (s.ctx a).r.ldq.length) && decide ((s.ctx a).stqHeld < 8)
theorem unheld_of {fm : Form} {f : Fields} {s : State} {a : CtxId} (h : unheldB fm f s a = true) : Unheld fm alwaysOk f s a := by
  simp only [unheldB, Bool.and_eq_true, beq_iff_eq, decide_eq_true_eq] at h
  exact ⟨h.1.1.1, rfl, fun _ => h.1.1.2, h.1.2, fun _ => h.2⟩

theorem witness_gangs :
    (∃ (i : Instr) (x : RegRow) (s : State) (g : Nat) (ms : List CtxId), integerRow i = some x ∧ GangReady s g ms ∧
      ∀ m ∈ ms, Unheld x.fm x.ok x.f s m ∧ (x.fm.guard = .scalar → guardBit m.core.kind x.f (s.ctx m).r = true)) ∧
    (∃ (f : Fields) (s : State) (g : Nat) (ms : List CtxId), GangReady s g ms ∧ (∀ m ∈ ms, Unheld Forms.splitF alwaysOk f s m) ∧
      ∀ m ∈ ms, Unheld Forms.fuseF alwaysOk f s m) ∧
    (∃ (f : Fields) (s : State), Issues Forms.splitF alwaysOk f s ∧ Issues Forms.fuseF alwaysOk f s ∧
      ¬∃ g, (s.ctx s.holder).gang = some g ∧ s.holder.ctx = 0 ∧ (s.gangOf g).fused = false ∧ 1 < (s.gangOf g).members.length) ∧
    ∃ (f : Fields) (s : State) (g : Nat), Issues Forms.fuseF alwaysOk f s ∧ (s.ctx s.holder).gang = some g ∧ s.holder.ctx = 0 ∧
      (s.gangOf g).fused = false ∧ 1 < (s.gangOf g).members.length := by
  refine ⟨⟨.add f0, _, gang2 true, 1, members2, rfl, gang2_ready, fun m h => ?_⟩, ⟨f2 0 0, gang2 true, 1, members2, gang2_ready, fun m h => ?_, fun m h => ?_⟩,
    ⟨f2 0 0, l0, issues_of (by decide), issues_of (by decide), ?_⟩, ⟨f2 0 0, gang2 false, 1, issues_of (by decide), by decide, by decide, by decide, by decide⟩⟩
  · rcases List.mem_pair.mp h with rfl | rfl <;> exact ⟨unheld_of (by decide), fun _ => by decide⟩
  · rcases List.mem_pair.mp h with rfl | rfl <;> exact unheld_of (by decide)
  · rcases List.mem_pair.mp h with rfl | rfl <;> exact unheld_of (by decide)
  · rintro ⟨g, h, -⟩; cases (show (none : Option Nat) = some g from h)

theorem witness_rendezvous :
    (∃ (i : Instr) (x : StagedRow) (s : State), voteRow i = some x ∧ Issues x.fm alwaysOk x.f s ∧ (s.ctx s.holder).dom = 0 ∧
      (s.holder.core.kind = .l0 → s.holder.ctx = 0)) ∧
    ∃ (i : Instr) (fm : Form) (f : Fields) (form : Nat) (value : Env → Dword) (s : State), arrivalRow i = some (fm, f, form, value) ∧
      Issues fm alwaysOk f s ∧ (s.ctx s.holder).dom ≠ 0 ∧ (s.holder.core.kind = .l0 → s.holder.ctx = 0) :=
  ⟨⟨.voteAll (f2 1 2), _, l0, rfl, issues_of (by decide), by decide, by decide⟩,
   ⟨.voteSum (f2 1 2), _, _, _, _, l0.modCtx l0.holder fun c => { c with dom := 1 }, rfl, issues_of (by decide), by decide, by decide⟩⟩

/-- Registers of a fold: a fine block of one block at 0x100, a coarse one at 0x800. -/
def fold0 (fine coarse : Nat) (level : BitVec 4) : State :=
  oneCore ⟨.l0, 0⟩ { regs [(1, tcm coarse), (2, tcm fine), (3, 1)] with level := level }

theorem witness_links :
    (∃ (i : Instr) (x : LinkRow) (s : State), linkRow i = some x ∧ Issues x.fm alwaysOk x.f s ∧ (s.ctx s.holder).mate = none ∧
      x.fits (envOf x.fm x.f s) (s.entered x.fm x.f)) ∧
    (∃ (f : Fields) (s : State) (l1 l2 : List Nat), Issues Forms.restrfF alwaysOk f s ∧
      let e := envOf Forms.restrfF f s
      let u := s.entered Forms.restrfF f
      let b := e.tsrcS.toNat
      let v := u.afterRead s.holder l1
      let x := u.see s.holder l1
      let w := restrictSet v s.holder.core (bits e.r.wsel.toNat 2 2)
      let outs := (List.range (8 * b / e.stride)).map fun k =>
        restrictOut w (fun j => some (bits x (32 * j) 32)) b e.stride e.linkOp e.mode f.sat k
      let bytes := outs.zipIdx.flatMap fun (c : Coded × Nat) => bytesAt (e.oldS + BitVec.ofNat 64 (4 * c.2)) 4 c.1.code
      foldCheck e e.srcS e.oldS (e.r.level != 15) = none ∧ reachAll u s.holder 0 0 true (span e.srcS (32 * b)) = .ok l1 ∧
        u.poisonAt s.holder (l1.zip (span e.srcS (32 * b))) = none ∧ reachAll v s.holder 0 1 true (bytes.map (·.1)) = .ok l2) ∧
    ∃ (f : Fields) (s : State) (l1 l2 l3 : List Nat), Issues Forms.prolgfF alwaysOk f s ∧
      let e := envOf Forms.prolgfF f s
      let u := s.entered Forms.prolgfF f
      let b := e.tsrcS.toNat
      let p := 8 * b / e.stride
      let v := u.afterRead s.holder l1
      let v2 := v.afterRead s.holder l2
      let x := u.see s.holder l1
      let z := v.see s.holder l2
      let y : List W32 := (List.range p).map fun i => BitVec.ofNat 32 (bits x (32 * i) 32)
      let w := prolongSet v2 s.holder.core (bits e.r.wsel.toNat 0 2)
      let outs : List (Nat × Coded) := (List.range (8 * b)).filterMap fun j =>
        (prolongOut w y p e.stride j (bits z (32 * j) 32) e.mode f.sat).map fun r => (j, r)
      let bytes := outs.flatMap fun (c : Nat × Coded) => bytesAt (e.oldS + BitVec.ofNat 64 (4 * c.1)) 4 c.2.code
      foldCheck e e.oldS e.srcS (e.r.level != 0) = none ∧
        reachAll u s.holder 0 0 true (span e.srcS (4 * p)) = .ok l1 ∧ u.poisonAt s.holder (l1.zip (span e.srcS (4 * p))) = none ∧
        reachAll v s.holder 0 0 true (span e.oldS (32 * b)) = .ok l2 ∧ v.poisonAt s.holder (l2.zip (span e.oldS (32 * b))) = none ∧
        reachAll v2 s.holder 0 1 true (bytes.map (·.1)) = .ok l3 := by
  refine ⟨⟨.restrPut (f2 1 3), _, ({ fold0 0x100 0x800 0 with cards := [(7, { CardRun.none with dw := List.replicate 8 0xFFFFFFFFFFFFFFFF })] } : State).modCtx
    ⟨⟨.l0, 0⟩, 0⟩ fun c => { c with card := some 7 }, rfl, issues_of (by decide), by decide, by constructor <;> decide⟩, ?_, ?_⟩
  · exact ⟨{ f3 1 2 3 with aux := 1 }, fold0 0x100 0x800 0, _, _, issues_of (by decide), by decide +kernel, got_of (by decide +kernel),
      by decide +kernel, got_of (by decide +kernel)⟩
  · exact ⟨f3 1 2 3, fold0 0x800 0x100 1, _, _, _, issues_of (by decide), by decide +kernel, got_of (by decide +kernel), by decide +kernel,
      got_of (by decide +kernel), by decide +kernel, got_of (by decide +kernel)⟩

/-- A timetable image at s2 with one receive entry. -/
def tt0 : State := tcm0 mem0 [(64, 1), (80, 2 ^ 41 + 2 ^ 38 + 0x800), (88, 2 ^ 48)]

theorem witness_timetable : ∃ (f : Fields) (s : State) (l1 l2 : List Nat) (ws : List (Dword × Dword)), Issues Forms.ttldF alwaysOk f s ∧
    let e := envOf Forms.ttldF f s
    let u := s.entered Forms.ttldF f
    let v := u.noteRead s.holder l1
    let h := u.see s.holder l1
    let x := v.see s.holder l2
    e.srcS.toNat % 16 = 0 ∧ (s.core s.holder.core).tt.running ≠ some f.aux.toNat ∧
    reachEach u s.holder 0 0 false (span e.srcS 16) = .ok l1 ∧ u.poisonAt s.holder (l1.zip (span e.srcS 16)) = none ∧
    1 ≤ h ∧ h ≤ 255 ∧ reachEach v s.holder 0 0 false (span (e.srcS + 16) (16 * h)) = .ok l2 ∧
    v.poisonAt s.holder (l2.zip (span (e.srcS + 16) (16 * h))) = none ∧
    ws = (List.range h).map (fun i => (BitVec.ofNat 64 (x / 2 ^ (128 * i)), BitVec.ofNat 64 (x / 2 ^ (128 * i + 64)))) ∧
    ttChecks s.holder.core 0 [] ws = none := by
  exact ⟨f2 0 2, tt0, _, _, _, issues_of (by decide +kernel), by decide +kernel, by decide +kernel, got_of (by decide +kernel), by decide +kernel,
    by decide +kernel, by decide +kernel, got_of (by decide +kernel), by decide +kernel, rfl, by decide +kernel⟩

/-- A delimiter of tag 0 at s30, the top frame of the stack. -/
def cut0 (room : Dword) : State :=
  tcm0 (oneCore ⟨.l0, 0⟩ (regs [(1, tcm 0x1000), (3, room), (30, tcm 0x3FFF0)])) [(0x3FFF0, 0x2000), (0x3FFF8, 0)]

theorem witness_cut : (∀ room : Bool, ∃ (f : Fields) (s : State) (ot resume : Nat) (below : List (Nat × Nat)) (maps : List Nat) (us : List Unit)
    (fr : List Nat × Nat) (locs : List Nat), Issues Forms.cutF (fun _ f => cutOk f) f s ∧
    let e := envOf Forms.cutF f s
    let u := s.entered Forms.cutF f
    let a := s.holder
    let p := (e.r.rdS 30).toNat
    let fb := ot - p
    let tag := e.srcS.toNat % 2 ^ 16
    let rmap := e.srcS.toNat / 2 ^ 16 % 2 ^ 32 &&& 0xBFFFFFFE
    let scope := if f.scope = 0 then 1 else f.scope
    findDelimiter u a (e.r.rdS 30) tag = .ok (some (ot, below)) ∧
    eachFrame u a (peekStack u a) (cutSlot p ot (stackFloor u a) (stackTopOf u a)) below.reverse = .ok (maps, us) ∧
    (∀ j, j < 32 → bitOf rmap j = true → e.r.rdS j ≠ 0 → p ≤ (e.r.rdS j).toNat ∧ (e.r.rdS j).toNat ≤ ot) ∧
    e.oldS.toNat % 64 = 0 ∧ placeOk scope e.oldS = true ∧
    if room then 512 + fb ≤ e.tsrcS.toNat ∧ reachAll u a 0 1 true (span e.oldS (512 + fb)) = .ok locs ∧ locs.any isHost = false ∧
      peek u a 0 (span (e.r.rdS 30) fb) = .ok fr ∧ peekStack u a ot = .ok resume
    else e.tsrcS.toNat < 512 + fb) ∧
    ∃ (f : Fields) (s : State) (x : Option (Nat × List (Nat × Nat))), Issues Forms.slinfoF alwaysOk f s ∧ f.aux.toNat = 1 ∧
      let e := envOf Forms.slinfoF f s
      findDelimiter (s.entered Forms.slinfoF f) s.holder (e.r.rdS 30) (e.srcS.toNat % 2 ^ 16) = .ok x := by
  refine ⟨fun room => ?_, { f2 1 0 with aux := 1 }, cut0 0, _, issues_of (by decide +kernel), by decide, got_of (by decide +kernel)⟩
  cases room
  · exact ⟨f3 1 0 3, cut0 511, (tcm 0x3FFF0).toNat, 0, [], [], [], ([], 0), [], issues_of (by decide +kernel), rfl, rfl,
      by decide +kernel, by decide +kernel, by decide +kernel, by simp only [Bool.false_eq_true, if_false]; decide +kernel⟩
  · exact ⟨f3 1 0 3, cut0 512, (tcm 0x3FFF0).toNat, _, [], [], [], _, _, issues_of (by decide +kernel), rfl, rfl,
      by decide +kernel, by decide +kernel, by decide +kernel, by decide +kernel, got_of (by decide +kernel), by decide +kernel,
      got_of (by decide +kernel), got_of (by decide +kernel)⟩

/-- A well-formed slice without frames at 0x1000. -/
def slice0 : State :=
  tcm0 (oneCore ⟨.l0, 0⟩ (regs [(2, tcm 0x1000), (30, tcm 0x40000)]))
    [(0x1000, 0x0002000043494C53), (0x1008, 1), (0x1028, 0x2000), (0x1030, 2406369243726080615)]

theorem witness_slfree : ∃ (f : Fields) (s : State) (hd : List Nat × Nat) (wl : List Nat), Issues Forms.slfreeF alwaysOk f s ∧
    let e := envOf Forms.slfreeF f s
    let u := s.entered Forms.slfreeF f
    let x := spread slfreeBytes hd.2
    e.srcS.toNat % 64 = 0 ∧ peek u s.holder 0 (slfreeBytes.map fun o => e.srcS + BitVec.ofNat 64 o) = .ok hd ∧ sliceBad x = false ∧
    slicePermits e (s.ctx s.holder).asid x e.srcS hd.1 = true ∧ reachAll u s.holder 0 3 true (span (e.srcS + 8) 8) = .ok wl := by
  exact ⟨f2 0 2, slice0, _, _, issues_of (by decide +kernel), by decide +kernel, got_of (by decide +kernel), by decide +kernel, by decide +kernel,
    got_of (by decide +kernel)⟩

theorem recordsIn_empty (x len base : Nat) (h : len = 0) : recordsIn x len base (len / 16 + 1) 0 = .ok [] := by subst h; rfl

theorem witness_graft : ∃ (f : Fields) (s : State) (hd fr : List Nat × Nat) (rs : List (Nat × Nat)) (maps : List Nat)
    (new : List (Nat × Nat)) (wl : List Nat), Issues Forms.graftF alwaysOk f s ∧
    let e := envOf Forms.graftF f s
    let u := s.entered Forms.graftF f
    let a := s.holder
    let h := e.srcS
    let g := (e.r.rdS 30).toNat
    let x := hd.2
    let fb := hdr x 16 4
    let ob := hdr x 32 8
    let n : Int := g - 16 - fb
    let d : Int := n - ob
    h.toNat % 64 = 0 ∧ g % 16 = 0 ∧ g ≤ stackTopOf u a ∧ peek u a 0 (span h 512) = .ok hd ∧
    peek u a 0 (span (h + 512) fb) = .ok fr ∧ sliceBad x = false ∧ sliceCheck (leBytes 512 x ++ leBytes fb fr.2) = hdr x 48 8 ∧
    slicePermits e (s.ctx a).asid x h (hd.1 ++ fr.1) = true ∧ hdr x 8 1 = 1 ∧ remapBad e.tsrcS.toNat = false ∧
    (stackFloor u a : Int) ≤ n ∧ recordsIn fr.2 fb (h.toNat + 512) (fb / 16 + 1) 0 = .ok rs ∧
    eachFrame u a (fun o => .ok (dwAt fr.2 o)) (graftSlot a e.tsrcS.toNat (hdr x 20 4) ob (ob + fb) (h.toNat + 512) d) rs = .ok (maps, new) ∧
    (∀ j, j < 32 → rmapHas (hdr x 28 4) j = true → sliceReg x j ≠ 0 → ob ≤ sliceReg x j ∧ sliceReg x j ≤ ob + fb) ∧
    reachAll u a 0 3 true (span (h + 8) 8) = .ok wl := by
  exact ⟨f3 0 2 0, slice0, _, _, [], [], [], _, issues_of (by decide +kernel), by decide +kernel, by decide +kernel, by decide +kernel,
    got_of (by decide +kernel), got_of (by decide +kernel), by decide +kernel, by decide +kernel, by decide +kernel, by decide +kernel,
    by decide +kernel, by decide +kernel, recordsIn_empty _ _ _ (by decide +kernel), rfl, by decide +kernel, got_of (by decide +kernel)⟩

def a0 : CtxId := ⟨⟨.l0, 0⟩, 0⟩
def core0 : CoreId := ⟨.l0, 0⟩
def cmd0 (dw : List Dword) : Command :=
  { dw := dw, seed := 0, superstep := 0, codebook := Vector.replicate 4 0, isCodebook := false, begun := false, prog := 0, outcome := none, done := 0,
    flg := 0, err := 0, errVa := 0 }
/-- A state in which the home of a location is reserved for a running chunk of another core. -/
def held0 (held : Bool) (l : Nat) (s : State) : State :=
  if held then s.modCtx ⟨⟨.l3, 3⟩, 0⟩ fun c => { c with status := .live, chunk := { c.chunk with count := 1, squashes := 16, rlines := [l / 64] } } else s
/-- A state with a command at the head of a port's queue. -/
def head0 (p : Nat) (h : Command) : State := mem0.modCtx a0 fun c => { c with ports := [(p, { Port.empty with input := [h] })] }
def csum0 (src : Dword) : Command := cmd0 [1, src, tcm 0x200, 0]

theorem witness_engines : ∀ held : Bool, ∃ (i : Instr) (x : EngineRow) (s : State) (h : Command) (il : List Nat) (ls : List (List Nat)),
    engineRow i = some x ∧ headOf s x.a x.port = some h ∧ x.ready h ∧ (s.ctx x.a).mate = none ∧ Memory.wf s.mem ∧
    reachEach s x.a 2 0 false (x.index h) = .ok il ∧ reachRuns s x.a (portUnit x.port) (x.runs s h il) = .ok ls ∧
    poisonIn s (readBytes (x.runs s h il) ls) = [] ∧ unitFits s x.a ((x.work s h il ls).1.map (·.1)) = true ∧
    s.reserved ((x.work s h il ls).1.map (·.1)) = held := by
  intro held
  cases held
  · exact ⟨.csum ⟨.l0, 0⟩ 0, _, held0 false 0 (head0 2 (csum0 (tcm 0x100))), csum0 (tcm 0x100), _, _, rfl, by decide, ⟨by decide, by decide⟩, by decide,
      by decide, rfl, got_of (by decide +kernel), by decide +kernel, by decide +kernel, by decide +kernel⟩
  · exact ⟨.csum ⟨.l0, 0⟩ 0, _, held0 true (tcmLoc ⟨.l0, 0⟩ 0) (head0 2 (csum0 (tcm 0x100))), csum0 (tcm 0x100), _, _, rfl, by decide, ⟨by decide, by decide⟩,
      by decide, by decide, rfl, got_of (by decide +kernel), by decide +kernel, by decide +kernel, by decide +kernel⟩

theorem witness_engineEnds :
    (∃ (i : Instr) (a : CtxId) (p : Nat) (ok : Command → Prop) (s : State) (h : Command), emptyRow i = some (a, p, ok) ∧
      headOf s a p = some h ∧ ok h) ∧
    (∃ (i : Instr) (x : EngineRow) (s : State) (h : Command) (st : Byte) (va : Dword), engineRow i = some x ∧ headOf s x.a x.port = some h ∧
      x.ready h ∧ reachEach s x.a 2 0 false (x.index h) = .ok [] ∧
      reachRuns s x.a (portUnit x.port) (x.runs s h []) = .error (.status st va)) ∧
    (∃ (i : Instr) (x : EngineRow) (s : State) (h : Command) (va : VAddr) (acc : Nat), engineRow i = some x ∧ headOf s x.a x.port = some h ∧
      x.ready h ∧ reachEach s x.a 2 0 false (x.index h) = .ok [] ∧
      reachRuns s x.a (portUnit x.port) (x.runs s h []) = .error (.miss va acc)) ∧
    (∃ (core : CoreId) (ctx : Nat) (s : State) (h : Command), headOf s ⟨core, ctx⟩ 1 = some h ∧ cmdOp h.dw = 1 ∧ h.slot = true) ∧
    (∃ (core : CoreId) (ctx : Nat) (s : State) (h : Command), headOf s ⟨core, ctx⟩ 0 = some h ∧ h.isCodebook = true) ∧
    ∃ (core : CoreId) (s : State) (x : Dword × BitVec 12), (s.core core).mxStaged = some x :=
  ⟨⟨.matrixMarker ⟨.l0, 0⟩ 0, _, _, _, head0 0 (cmd0 [2 ^ 57]), cmd0 [2 ^ 57], rfl, by decide, ⟨by decide, by decide⟩⟩,
   ⟨.csum ⟨.l0, 0⟩ 0, _, head0 2 (csum0 0xFF0F0000000000), csum0 0xFF0F0000000000, 2, 0xFF0F0000000000, rfl, by decide, ⟨by decide, by decide⟩, rfl, rfl⟩,
   ⟨.csum ⟨.l0, 0⟩ 0, _, head0 2 (csum0 0x4000), csum0 0x4000, 0x4000, 0, rfl, by decide, ⟨by decide, by decide⟩, rfl, rfl⟩,
   ⟨⟨.l0, 0⟩, 0, head0 1 { cmd0 [2 ^ 56] with slot := true }, _, rfl, by decide, rfl⟩,
   ⟨⟨.l0, 0⟩, 0, head0 0 { cmd0 [] with isCodebook := true }, _, rfl, rfl⟩,
   ⟨⟨.l0, 0⟩, mem0.modCore ⟨.l0, 0⟩ fun c => { c with mxStaged := some (0, 1) }, (0, 1), rfl⟩⟩

/-- A channel with an active operation. -/
def chan0 (o : ChanOp) : State := mem0.modCluster 0 fun k => { k with chans := [(0, { Channel.reset with active := some o })] }
def copy0 (valid : Dword) : ChanOp := ⟨a0, 8, cmd0 [valid, tcm 0x100, tcm 0x200, 0, 2 ^ 34]⟩

theorem witness_channels : ∀ some? held : Bool, ∃ (i : Instr) (cl ch op : Nat) (s : State) (o : ChanOp) (row ls : List (List Nat)),
    channelRow i = some (cl, ch, op) ∧ (s.chan cl ch).active = some o ∧ cmdOp o.cmd.dw = op ∧ o.cmd.outcome = none ∧
    (∀ m ∈ (s.ctx o.owner).misses, m.unit ≠ 3 + 16 * ch) ∧ unitHeld s o.owner.core (3 + 16 * ch) = false ∧
    let h := o.cmd
    let d := h.dw
    let rowb := cmdField d 4 32 32
    let total := cmdValid d * rowb
    let n := min 64 (rowb - h.prog % rowb)
    let w := ((copyData s d (h.prog % rowb) n (ls.headD [])).zipIdx.take n).flatMap fun v =>
      (ls.drop 1).filterMap fun x => x[v.2]?.map fun l => (l, v.1)
    if some? then h.prog < total ∧ (s.ctx o.owner).mate = none ∧ Memory.wf s.mem ∧
      (h.prog % rowb = 0 → reachRuns s o.owner (3 + 16 * ch) (copyRuns d (h.prog / rowb) 0 rowb) = .ok row) ∧
      (h.prog % rowb ≠ 0 → row = []) ∧ (s.phased o.owner = true → ∀ x ∈ row.drop 1, x.any isHost = false) ∧
      reachRuns s o.owner (3 + 16 * ch) (copyRuns d (h.prog / rowb) (h.prog % rowb) n) = .ok ls ∧
      poisonIn s ((ls.headD []).zip (span (off (copySrc d (h.prog / rowb)) (h.prog % rowb)) n)) = [] ∧
      unitFits s o.owner (w.map (·.1)) = true ∧ s.reserved (w.map (·.1)) = held
    else total ≤ h.prog := by
  intro some? held
  cases some?
  · exact ⟨.copy 0 0, 0, 0, 0, chan0 (copy0 0), copy0 0, [], [], rfl, by decide, by decide, by decide, by decide, by decide,
      by simp only [Bool.false_eq_true, if_false]; decide⟩
  · cases held
    · exact ⟨.copy 0 0, 0, 0, 0, held0 false 0 (chan0 (copy0 1)), copy0 1, _, _, rfl, by decide, by decide, by decide, by decide, by decide, by decide, by decide,
        by decide, fun _ => got_of (by decide +kernel), fun h => absurd (by decide) h, fun h => absurd h (by decide), got_of (by decide +kernel),
        by decide +kernel, by decide +kernel, by decide +kernel⟩
    · exact ⟨.copy 0 0, 0, 0, 0, held0 true (tcmLoc core0 0) (chan0 (copy0 1)), copy0 1, _, _, rfl, by decide, by decide, by decide, by decide, by decide,
        by decide, by decide, by decide, fun _ => got_of (by decide +kernel), fun h => absurd (by decide) h, fun h => absurd h (by decide),
        got_of (by decide +kernel), by decide +kernel, by decide +kernel, by decide +kernel⟩

theorem witness_completions :
    (∀ full : Bool, ∃ (core : CoreId) (ctx port : Nat) (s : State) (h : Command) (st : Byte) (va : Dword) (rest : List Command), h.outcome = some (st, va) ∧
      cmdField h.dw 0 39 1 = 1 ∧ decide (16 ≤ ((s.ctx ⟨core, ctx⟩).port port).output.length) = full ∧ port < 8 ∧ unitHeld s core (portUnit port) = false ∧
      ((s.ctx ⟨core, ctx⟩).port port).input = h :: rest) ∧
    ∃ (core : CoreId) (ctx port : Nat) (s : State) (h : Command) (st : Byte) (va : Dword) (cl ch : Nat) (o : ChanOp), h.outcome = some (st, va) ∧
      (cmdField h.dw 0 39 1 = 1 → ((s.ctx ⟨core, ctx⟩).port port).output.length < 16) ∧ 8 ≤ port ∧
      ((s.ctx ⟨core, ctx⟩).port port).input = [] ∧ finishedOp s ⟨core, ctx⟩ port = some (cl, ch, o) ∧ o.cmd = h :=
  let h : Command := { cmd0 [2 ^ 39] with outcome := some (0, 0) }
  ⟨fun full => ⟨⟨.l0, 0⟩, 0, 2, mem0.modCtx a0 fun c => { c with ports := [(2, { Port.empty with
      input := [h], output := List.replicate (if full then 16 else 15) 0 })] }, h, 0, 0, [], rfl, by decide, by cases full <;> decide, by decide,
      by cases full <;> decide, by cases full <;> rfl⟩,
   ⟨⟨.l0, 0⟩, 0, 8, chan0 ⟨a0, 8, h⟩, h, 0, 0, 0, 0, ⟨a0, 8, h⟩, rfl, fun _ => by decide, by decide, by decide, by decide, rfl⟩⟩

/-- A context that waits. -/
def wait0 (w : Wait) : State := mem0.modCtx a0 fun c => { c with status := .waiting w }
/-- A gang whose members wait to fuse. -/
def fuse2 : State := members2.foldl (fun s m => s.modCtx m fun c => { c with status := .waiting .fuse }) (gang2 false)
/-- A queue instruction at the pc, on a page that may be executed, with an address in s2. -/
def ahead0 (i : Instr) (va : Dword) (c : Ctx → Ctx) : State :=
  (({ mem0 with mem := Memory.store [] 0x1000 4 ((encode i).foldr (fun h n => h.toNat + 65536 * n) 0) } : State).modCore ⟨.l0, 0⟩ fun k =>
    { k with tlb := ⟨[⟨0x10, 0x1100, true, 100, none⟩], 0⟩ }).modCtx a0 fun x => c { x with r := x.r.wrS 2 va }

theorem witness_ready :
    (∃ (core : CoreId) (ctx : Nat) (s : State) (w : Wait), (s.ctx ⟨core, ctx⟩).status = .waiting w ∧ waitReady s ⟨core, ctx⟩ w = true ∧
      (w ≠ .fuse ∨ (s.ctx ⟨core, ctx⟩).gang = none)) ∧
    (∃ (core : CoreId) (ctx : Nat) (s : State), (s.ctx ⟨core, ctx⟩).status = .waiting .spalloc ∧ (s.ctx ⟨core, ctx⟩).spreqs = []) ∧
    (∃ (core : CoreId) (ctx g : Nat) (s : State) (ms : List CtxId) (pc : VAddr), (s.ctx ⟨core, ctx⟩).gang = some g ∧
      (s.gangOf g).members = ms ∧ ⟨core, ctx⟩ ∈ ms ∧ ms.Nodup ∧ ∀ m ∈ ms, (s.ctx m).status = .waiting .fuse ∧ (s.ctx m).r.pc = pc) ∧
    (∀ stop ∈ [0, 1, 2, 3], ∃ (core : CoreId) (ctx : Nat) (s : State) (x : Found), core.kind = .l0 ∧ accessOpen s ⟨core, ctx⟩ = true ∧
      scanFrom s ⟨core, ctx⟩ = some x ∧
      match stop, x with | 0, .load _ _ => True | 1, .drain _ => True | 2, .miss _ _ _ _ => True | 3, .fault _ _ _ _ _ => True | _, _ => False) ∧
    (∃ (core : CoreId) (ctx : Nat) (s : State) (v : BitVec 256) (rest : List (BitVec 256)), (s.ctx ⟨core, ctx⟩).r.ldqDue = v :: rest ∧
      (s.ctx ⟨core, ctx⟩).r.ldq.length < 8) ∧
    ∃ (core : CoreId) (ctx : Nat) (s : State), 8 ≤ (s.ctx ⟨core, ctx⟩).r.ldq.length := by
  refine ⟨⟨⟨.l0, 0⟩, 0, wait0 (.counter 0 0), .counter 0 0, by decide, by decide, .inl (by decide)⟩, ⟨⟨.l0, 0⟩, 0, wait0 .spalloc, by decide, by decide⟩,
    ⟨⟨.l0, 0⟩, 0, 1, fuse2, members2, 0x1000, by decide, by decide, by decide, by decide, by decide⟩, fun stop h => ?_,
    ⟨⟨.l0, 0⟩, 0, mem0.modCtx a0 fun c => { c with r := { c.r with ldqDue := [7] } }, 7, [], rfl, by decide⟩,
    ⟨⟨.l0, 0⟩, 0, mem0.modCtx a0 fun c => { c with r := { c.r with ldq := List.replicate 8 0 } }, by decide⟩⟩
  fin_cases h
  · exact ⟨⟨.l0, 0⟩, 0, ahead0 (.qld (f2 0 2)) (tcm 64) id, .load 0x1000 ((List.range 1).map (tcmLoc ⟨.l0, 0⟩ 64 + ·)), rfl, by decide +kernel, by decide +kernel, trivial⟩
  · exact ⟨⟨.l0, 0⟩, 0, ahead0 (.qst (f2 0 2)) (tcm 64) fun c => { c with r := { c.r with stq := [9] } }, .drain 0x1000, rfl, by decide +kernel, by decide +kernel, trivial⟩
  · exact ⟨⟨.l0, 0⟩, 0, ahead0 (.qld (f2 0 2)) 0x40000 id, .miss 0x1000 false 0 0x40000, rfl, by decide +kernel, by decide +kernel, trivial⟩
  · exact ⟨⟨.l0, 0⟩, 0, ahead0 (.qld (f2 0 2)) 0xFF0F0000000000 id, .fault 0x1000 false 0x06 0 0xFF0F0000000000, rfl, by decide +kernel, by decide +kernel, trivial⟩

theorem witness_commits :
    (∃ (core : CoreId) (ctx : Nat) (s : State), commitGroup s ⟨core, ctx⟩ = [⟨core, ctx⟩] ∧ (s.ctx ⟨core, ctx⟩).mate = none ∧
      (s.ctx ⟨core, ctx⟩).chunk.ended = true ∧ refusedAt (s.ctx ⟨core, ctx⟩).chunk = [] ∧ reservedAway s [⟨core, ctx⟩] = false ∧ Memory.wf s.mem ∧
      (s.ctx ⟨core, ctx⟩).chunk.lease = none ∧ s.phased ⟨core, ctx⟩ = true ∧ exportOver s ⟨core, ctx⟩ = none ∧
      ∃ v, journalLines s (s.ctx ⟨core, ctx⟩).dom core (linesOf ((s.ctx ⟨core, ctx⟩).chunk.held.map (·.1))) = .ok v) ∧
    ∀ late : Bool, ∃ (core : CoreId) (ctx : Nat) (s : State), commitGroup s ⟨core, ctx⟩ = [⟨core, ctx⟩] ∧ (s.ctx ⟨core, ctx⟩).mate = none ∧
      (s.ctx ⟨core, ctx⟩).chunk.ended = true ∧ (s.ctx ⟨core, ctx⟩).chunk.base < (s.ctx ⟨core, ctx⟩).chunk.count ∧ (s.ctx ⟨core, ctx⟩).status ≠ .reserved ∧
      if late then ∃ n, (s.ctx ⟨core, ctx⟩).chunk.lease = some n ∧ n ≤ s.ticks else refusedAt (s.ctx ⟨core, ctx⟩).chunk ≠ [] := by
  refine ⟨⟨⟨.l0, 0⟩, 0, ({ mem0 with doms := [(1, { Domain.none with phs := true })] } : State).modCtx a0 fun c =>
      { c with dom := 1, chunk := { Chunk.empty with count := 1, ended := true, stores := [(tcmLoc ⟨.l0, 0⟩ 64, 7)] } },
      by decide, by decide, by decide, by decide, by decide, by decide, by decide, by decide, by decide, _, rfl⟩, fun late => ?_⟩
  cases late
  · exact ⟨⟨.l0, 0⟩, 0, mem0.modCtx a0 fun c =>
      { c with chunk := { Chunk.empty with count := 1, ended := true, rlines := [64], against := [(homeOf 4096, sigBit 64)] } }, by decide⟩
  · exact ⟨⟨.l0, 0⟩, 0, mem0.modCtx a0 fun c => { c with chunk := { Chunk.empty with count := 1, ended := true, lease := some 0 } },
      by decide, by decide, by decide, by decide, by decide, 0, rfl, by decide⟩


theorem witness_effects : (∃ (a : CtxId) (s : State), (s.ctx a).mate = none ∧ s.phased a = true ∧ (s.ctx a).copy ≠ .copyB ∧ (5 : Nat) ≠ a.ctx ∧
      (s.ctx ⟨a.core, 5⟩).status = .reserved ∧ (s.ctx ⟨a.core, 5⟩).chunk = Chunk.empty) ∧
    (∃ (a : CtxId) (s : State) (n op : Nat) (v : Dword), n ∉ csrActs ∧ Settles s a n (csrNew n op (csrValue s a n) v)) ∧
    ∀ busy : Bool, ∃ s : State, bitOf s.dev.ckptStat.toNat 31 = busy :=
  ⟨⟨a0, (({ mem0 with doms := [(1, { Domain.none with phs := true })] } : State).modCtx a0 fun c => { c with dom := 1 }).modCtx ⟨⟨.l0, 0⟩, 5⟩ fun c =>
      { c with status := .reserved }, by decide, by decide, by decide, by decide, by decide, rfl⟩,
   ⟨a0, mem0, 0x113, 0, 5, by decide, by constructor <;> decide +kernel⟩,
   fun busy => ⟨{ mem0 with dev := { Dev.reset with ckptStat := if busy then 0x80000000 else 0 } }, by cases busy <;> decide⟩⟩

/-- A queue whose descriptor in memory, word 3, is as given, with the doorbell block on. -/
def queue0 (w3 : Nat) (q : Queue) : State :=
  { mem0 with mem := Memory.store [] (descLoc mem0 5 + 24) 8 w3, queues := [(5, q)], dev := { Dev.reset with ready := 0x10000000 } }
def ring0 (w3 : Dword) : Queue := { Queue.reset with en := true, desc := [0, 0, 0, w3, 0, 0, 0, 0] }

theorem witness_doorbells :
    (∃ i s, Enables i s 5 1 ∧ Memory.wf s.mem ∧ (enabled s 5).devfed = true) ∧
    (∃ i s, Enables i s 5 1 ∧ Memory.wf s.mem ∧ (enabled s 5).devfed = false ∧ (1 : BitVec 31).toNat = (enabled s 5).size) ∧
    (∃ i s, Enables i s 5 2 ∧ Memory.wf s.mem ∧ (enabled s 5).devfed = false ∧ (2 : BitVec 31).toNat = (enabled s 5).size + 1) ∧
    (∃ s : State, Memory.wf s.mem ∧ hostReady s ∧ (described s 5).en = false ∧ (described s 5).head ≠ (described s 5).tail) ∧
    (∃ s : State, Memory.wf s.mem ∧ hostReady s ∧ (described s 5).en = true ∧ (described s 5).devfed = true) ∧
    (∃ s : State, Memory.wf s.mem ∧ hostReady s ∧ (described s 5).en = true ∧ (described s 5).devfed = false ∧
      tailFits (described s 5) (tailAfter (described s 5) 1) ∧ mustFetch { described s 5 with tail := 0 } = false ∧ (described s 5).cards.Nodup ∧
      tailFits (described s 5) (tailAfter (described s 5) 0) ∧ tailAfter (described s 5) 0 = 0 ∧ ∀ n ∈ (described s 5).cards, n < s.nextCard) ∧
    (∃ s : State, Memory.wf s.mem ∧ hostReady s ∧ (described s 5).en = true ∧ (described s 5).devfed = false ∧
      ¬tailFits (described s 5) (tailAfter (described s 5) 2) ∧ mustFetch (described s 5) = false ∧ (described s 5).cards.Nodup) ∧
    ∃ s : State, Memory.wf s.mem ∧ ¬hostReady s := by
  refine ⟨⟨.queueEnable 5 1, queue0 8 Queue.reset, ⟨rfl, .inl ⟨rfl, rfl, rfl⟩⟩, by decide +kernel, by decide +kernel⟩,
    ⟨.queueEnableDeferred 5, queue0 0 { Queue.reset with waitEnable := some 1 }, ⟨rfl, .inr ⟨rfl, 1, rfl, by decide⟩⟩, by decide +kernel, by decide +kernel⟩,
    ⟨.queueEnable 5 2, queue0 0 Queue.reset, ⟨rfl, .inl ⟨rfl, rfl, rfl⟩⟩, by decide +kernel, by decide +kernel⟩,
    ⟨queue0 0 { Queue.reset with tail := 1 }, by decide +kernel, rfl, by decide, by decide⟩,
    ⟨queue0 8 (ring0 8), by decide +kernel, rfl, by decide, by decide +kernel⟩,
    ⟨queue0 0 (ring0 0), by decide +kernel, rfl, by decide, by decide +kernel, by unfold tailFits; decide +kernel, by decide +kernel, by decide,
      by unfold tailFits; decide +kernel, by decide +kernel, by decide⟩,
    ⟨queue0 0 (ring0 0), by decide +kernel, rfl, by decide, by decide +kernel, by unfold tailFits; decide +kernel, by decide +kernel, by decide⟩,
    ⟨mem0, by decide, by unfold hostReady; decide⟩⟩

/-- Card 7 with its record count and its flags, running. -/
def card0 (records flags : Nat) : CardRun := { CardRun.none with done := false, queue := 5, dw := [0, 0, BitVec.ofNat 64 (records * 2 ^ 32), BitVec.ofNat 64 flags, 0, 0, 0, 0] }
/-- Card 7 on L0 core 0, in a context of domain 1. -/
def run0 (k : CardRun) (c : Ctx → Ctx) : State :=
  ({ mem0 with cards := [(7, k)], doms := [(1, { Domain.none with card := 7, members := [a0], phs := k.phs })] } : State).modCtx a0 fun x =>
    c { x with card := some 7, dom := 1 }

theorem witness_triggers :
    (∃ s : State, hostReady s) ∧
    (∀ records ∈ [0, 1], ∃ (q n : Nat) (s : State), s.headCard q = some n ∧ (s.card n).fired = false ∧
      (s.card n).field 4 32 16 ≤ (SMap.read (0 : W32) s.dev.trig ((s.card n).field 4 0 12)).toNat ∧ (s.card n).recCount = records ∧
      (s.queue q).en = true ∧ cardReady s (s.card n) = true) ∧
    ∃ (q : Nat) (s : State), Memory.wf s.mem ∧ (s.queue q).en = true ∧ (s.queue q).devfed = false ∧ s.nextCard ∉ (s.queue q).cards ∧
      (s.queue q).cards.length < (s.queue q).depth :=
  ⟨⟨queue0 0 Queue.reset, rfl⟩, fun records h => ⟨5, 7, { mem0 with
      dev := { Dev.reset with ready := 0x7FFFFFFF }, queues := [(5, { ring0 0 with cards := [7] })], cards := [(7, card0 records 0)] },
     by rcases List.mem_pair.mp h with rfl | rfl <;> decide⟩,
   ⟨5, { mem0 with queues := [(5, { ring0 0 with tail := 1 })] }, by decide, by decide, by decide, by decide, by decide⟩⟩

theorem witness_records : ∃ (q n : Nat) (rest : List Nat) (s : State), Memory.wf s.mem ∧ (s.queue q).cards = n :: rest ∧ (s.card n).done = true ∧
    ((s.queue q).cfc = true → ((s.queue q).head - (s.queue q).chead).toNat < (s.queue q).size) ∧ (s.queue q).cpl % 16 = 0 ∧ s.bootCards = [] ∧
    n ∉ rest :=
  ⟨5, 7, [], { mem0 with queues := [(5, { ring0 2 with cards := [7] })], cards := [(7, CardRun.none)] }, by decide, rfl, by decide, by decide, by decide, rfl,
    by decide⟩

theorem witness_cardEnds :
    (∃ (d : Nat) (s : State), (s.dom d).phs = true ∧ (s.dom d).members = [] ∧ awayFrom s d = false ∧ exchangesDone s d = true ∧ ctxsIn s d ≠ [] ∧
      exportsLive s (coresIn s d) = true) ∧
    ∃ (n : Nat) (s : State), cardOver s n = true :=
  ⟨⟨1, (run0 (card0 0 16) fun c => { c with status := .ended }).modDom 1 fun d => { d with members := [] }, by decide +kernel⟩,
   ⟨7, { mem0 with cards := [(7, card0 0 0)] }, by decide +kernel⟩⟩

/-- A card of layer 3 on a queue, and one core of that layer that is not fenced. -/
def deal0 : State :=
  { mem0 with
    dev := { Dev.reset with ready := 0x7FFFFFFF }
    cores := (List.range 8).map fun i => ((⟨.l3, i⟩ : CoreId).key, { Core.reset with fenced := true })
    queues := [(5, { ring0 0xC0 with cards := [7] })], cards := [(7, { card0 1 0x80000080 with layer := 3, fired := true })] }

/-- The state in which a dealing round of layer 3 looks for its heads. -/
def tended0 : State := ((deal0.queues.map (·.1)).filter fun q => (deal0.queue q).layerNo == 3).foldl tend deal0
theorem deal0_heads : mappedHeads tended0 3 = [7] := by
  have h : (tended0.layer 3).slots.filterMap (fun x => (tended0.headCard x.queue).map fun n => (n, x)) = [(7, ⟨0, 5, 0⟩)] := by
    decide +kernel
  unfold mappedHeads
  rw [h]
  simp only [List.mergeSort_singleton]
  decide +kernel

theorem read_all {α : Type} {p : α → Prop} {d : α} (hd : p d) : ∀ (m : SMap α) (i : Nat), (∀ x ∈ m, p x.2) → p (SMap.read d m i)
  | [], _, _ => hd
  | (k, v) :: m, i, h => by
    simp only [SMap.read]
    split
    · exact h (k, v) List.mem_cons_self
    · exact read_all hd m i fun x hx => h x (List.mem_cons_of_mem _ hx)

/-- A property of every context of a state holds of each. -/
theorem ctx_all {p : Ctx → Prop} (hr : p Ctx.reset) {s : State} (hc : Core.reset.ctxs = []) (h : ∀ x ∈ s.cores, ∀ y ∈ x.2.ctxs, p y.2) (b : CtxId) : p (s.ctx b) :=
  read_all hr _ _ (read_all (p := fun k : Core => ∀ y ∈ k.ctxs, p y.2) (by rw [hc]; exact fun y hy => by cases hy) s.cores _ h)

theorem witness_dealing :
    (∃ s : State, ∃ im ∈ s.images, matchVariant s im.addr ≠ im.variant) ∧
    (∃ s : State, (∀ im ∈ s.images, matchVariant s im.addr = im.variant) ∧ sealing s = true) ∧
    (∃ (l n : Nat) (rest : List Nat) (c : CoreId) (s : State), (∀ im ∈ s.images, matchVariant s im.addr = im.variant) ∧ sealing s = false ∧
      mappedHeads (((s.queues.map (·.1)).filter fun q => (s.queue q).layerNo == l).foldl tend s) l = n :: rest ∧ (s.card n).layer = l ∧
      (s.card n).dealtAll = false ∧ (s.card n).next < (s.card n).recCount ∧ (s.card n).isFiller = false ∧
      (s.card n).paired = false ∧ (s.card n).dup = false ∧ placeLeft s (s.card n) = true ∧
      askers (coreFree s) (s.card n) false = [[c]] ∧ ∀ b, ∀ q ∈ (s.ctx b).queries, q.given ≠ none) ∧
    ∃ (n : Nat) (c : CoreId) (s : State), (c, false) ∈ (s.card n).sections ∧ (s.card n).killed = false ∧ coreFree s c = true ∧ sealing s = false :=
  ⟨⟨{ mem0 with images := [⟨0, 0, 0, some 3⟩] }, by decide +kernel⟩,
   ⟨{ mem0 with dev := { Dev.reset with ckptStat := 0x80000001, ready := 0x40000000 } }, by decide +kernel, by decide⟩,
   ⟨3, 7, [], ⟨.l3, 8⟩, deal0, by decide +kernel, by decide, deal0_heads, by decide +kernel, by decide +kernel, by decide +kernel, by decide +kernel,
     by decide +kernel, by decide +kernel, by decide +kernel, by decide +kernel,
     fun b => ctx_all (p := fun c => ∀ q ∈ c.queries, q.given ≠ none) (by decide) rfl (by decide +kernel) b⟩,
   ⟨7, ⟨.l1, 0⟩, { mem0 with cards := [(7, { card0 1 0 with sections := [(⟨.l1, 0⟩, false)] })] }, by decide +kernel⟩⟩

def query0 (g : Option (List Dword)) : Query := ⟨0xFF010000000040, 3, 0, g⟩
/-- A card of layer 0 with one record left, whose context asks. -/
def asked0 (g : Option (List Dword)) : State := run0 (card0 1 0) fun c => { c with queries := [query0 g] }

theorem asked0_busy (g : Option (List Dword)) (d : CoreId) (h : d.kind = .l0) : coreFree (asked0 g) d = false := by
  have hr : SMap.read (0 : Dword) (asked0 g).dev.readyCl (dieOf d) = 0 := rfl
  unfold coreFree coreTakes
  rw [hr, h]
  simp [bitOf]

/-- Context 0 of L0 core 0 asks for records of card 7. -/
def asks0 (s : State) (g : Option (List Dword)) : Prop :=
  (s.ctx a0).queries = [query0 g] ∧ (s.ctx a0).card = some 7 ∧ (s.ctx a0).status ≠ .free ∧ (s.ctx a0).copy ≠ .shadow ∧ (s.ctx a0).mate = none ∧
    (s.card 7).layer = 0 ∧ (s.card 7).next < (s.card 7).recCount

theorem witness_queryWaits :
    (∃ s : State, asks0 s none ∧ selectionDue s = false ∧ sealing s = false ∧ s.reserved (answerLocs s a0 (query0 none)) = true) ∧
    (∃ s : State, asks0 s none ∧ SMap.read [] (s.dom (s.ctx a0).dom).replays (core0.key * 16) = [] ∧ selectionDue s = false ∧ sealing s = true) ∧
    (∃ s : State, asks0 s none ∧ SMap.read [] (s.dom (s.ctx a0).dom).replays (core0.key * 16) = [] ∧ selectionDue s = true) ∧
    ∃ s : State, asks0 s none ∧ SMap.read [] (s.dom (s.ctx a0).dom).replays (core0.key * 16) = [[1, 2]] ∧
      s.reserved (answerLocs s a0 (query0 none)) = false :=
  ⟨⟨held0 true (spLoc 0 64) (asked0 none), by unfold asks0; decide +kernel⟩,
   ⟨{ asked0 none with dev := { Dev.reset with ckptStat := 0x80000001, ready := 0x40000000 } }, by unfold asks0; decide +kernel⟩,
   ⟨{ asked0 none with images := [⟨0, 0, 0, some 3⟩] }, by unfold asks0; decide +kernel⟩,
   ⟨(asked0 none).modDom 1 fun d => { d with replays := [(core0.key * 16, [[1, 2]])] }, by unfold asks0; decide +kernel⟩⟩

theorem witness_queries : (∀ given ∈ [none, some [1, 2]], ∃ (core : CoreId) (ctx n : Nat) (s : State) (q : Query) (rest : List Query),
      let a : CtxId := ⟨core, ctx⟩
      (s.ctx a).queries = q :: rest ∧ (s.ctx a).card = some n ∧ (s.ctx a).status ≠ .free ∧ (s.ctx a).copy ≠ .shadow ∧ (s.ctx a).mate = none ∧
      SMap.read [] (s.dom (s.ctx a).dom).replays (core.key * 16 + ctx) = [] ∧ q.given = given ∧ selectionDue s = false ∧ sealing s = false ∧
      s.reserved (answerLocs s a q) = false ∧ Memory.wf s.mem ∧ s.phased a = false ∧ ∃ base, ∀ i, i < 16 → windowReach s a (q.addr + BitVec.ofNat 64 i) = .loc (base + i)) ∧
    ∃ (core : CoreId) (ctx n : Nat) (s : State) (q : Query),
      let a : CtxId := ⟨core, ctx⟩
      (s.ctx a).queries = [q] ∧ (s.ctx a).card = some n ∧ (s.ctx a).status ≠ .free ∧ (s.ctx a).copy ≠ .shadow ∧ (s.ctx a).mate = none ∧
      SMap.read [] (s.dom (s.ctx a).dom).replays (core.key * 16 + ctx) = [] ∧ q.given = none ∧ (s.card n).layer = 0 ∧ core.kind = .l0 ∧
      placeLeft s (s.card n) = true ∧ selectionDue s = false ∧ sealing s = false ∧ (∀ d, d.kind = .l0 → coreFree s d = false) ∧
      (∀ b, b ≠ a → ∀ z ∈ (s.ctx b).queries, z.given ≠ none) ∧ SMap.has s.cards n = true := by
  refine ⟨fun given h => ⟨core0, 0, 7, asked0 given, query0 given, [], by revert given; decide, by revert given; decide, by revert given; decide,
    by revert given; decide, by revert given; decide, by revert given; decide, rfl, by revert given; decide, by revert given; decide,
    by revert given; decide, by revert given; decide, by revert given; decide, spLoc 0 64, by revert given; decide⟩, ?_⟩
  refine ⟨core0, 0, 7, asked0 none, query0 none, by decide, by decide, by decide, by decide, by decide, by decide, rfl, by decide, rfl, by decide +kernel,
    by decide, by decide, asked0_busy none, fun b hb => ?_, by decide⟩
  rw [show (asked0 none).ctx b = _ from State.ctx_modCtx_other _ _ hb]
  exact ctx_all (p := fun c => ∀ q ∈ c.queries, q.given ≠ none) (by decide) rfl (by decide +kernel) b

theorem witness_parking :
    (∃ (core : CoreId) (ctx : Nat) (s : State), mayEnd s ⟨core, ctx⟩ = true ∧ ctx ≠ 0 ∧ core.kind = .l0) ∧
    (∃ (core : CoreId) (ctx : Nat) (s : State), mayEnd s ⟨core, ctx⟩ = true ∧ isPriv core.kind = true) ∧
    (∃ (core : CoreId) (s : State), mayEnd s ⟨core, 0⟩ = true ∧ isPriv core.kind = false ∧ s.phased ⟨core, 0⟩ = false ∧ (s.ctx ⟨core, 0⟩).gang = none) ∧
    ∃ (core : CoreId) (s : State), mayEnd s ⟨core, 0⟩ = true ∧ isPriv core.kind = false ∧ s.phased ⟨core, 0⟩ = true ∧
      (s.dom (s.ctx ⟨core, 0⟩).dom).members.filter (· != ⟨core, 0⟩) = [] ∧ awayFrom s (s.ctx ⟨core, 0⟩).dom = false :=
  ⟨⟨core0, 3, mem0.modCtx ⟨core0, 3⟩ fun c => { c with status := .parking }, by decide +kernel⟩,
   ⟨⟨.boot, 0⟩, 0, boot0.modCtx boot0.holder fun c => { c with status := .parking }, by decide +kernel⟩,
   ⟨core0, run0 (card0 0 0) fun c => { c with status := .parking }, by decide +kernel⟩,
   ⟨core0, run0 (card0 0 16) fun c => { c with status := .parking }, by decide +kernel⟩⟩

/-- A request of the allocator, and the blocks of cluster 0. -/
def sp0 (x : W32) (l : List Block) : State := (run0 (card0 1 0) fun c => { c with spreqs := [x] }).modCluster 0 fun k => { k with blocks := l }
def block0 (o k : Nat) : Block := ⟨o, k, 7, 1, false, none⟩

theorem witness_spalloc (x : W32) (l : List Block)
    (_ : (x, l) ∈ [(11, []), (22, []), (12, [block0 0 21, block0 0x200000 20, block0 0x300000 19]), (12, []), (21, []), (0x80001000, [block0 0 12]),
      (0x80001000, [block0 0 12, block0 0x1000 12])]) :
    ∃ (core : CoreId) (ctx cl : Nat) (s : State), (s.ctx ⟨core, ctx⟩).spreqs = [x] ∧ clusterOf core = some cl ∧ (s.cluster cl).blocks = l :=
  ⟨core0, 0, 0, sp0 x l, rfl, rfl, rfl⟩
theorem witness_blocks : pickBlock [block0 0 21, block0 0x200000 20, block0 0x300000 19] 12 = none ∧ pickBlock [] 12 = some 0x300000 ∧
    pickBlock [] 21 = some 0 ∧ ∀ s : State, s = sp0 0x80001000 [block0 0 12, block0 0x1000 12] → some (block0 0x1000 12).card = (s.ctx a0).card := by
  refine ⟨by decide +kernel, by decide +kernel, by decide +kernel, ?_⟩; rintro _ rfl; decide

theorem witness_watchdog : (∃ (n : Nat) (s : State), watched s n = true ∧ timed s n = true ∧ s.ctxsOf n ≠ []) ∧
    (∃ (n : Nat) (s : State), watched s n = true ∧ (s.card n).doomed = true) ∧
    ∃ (n : Nat) (s : State), timed s n = false ∧ (s.card n).doomed = false :=
  ⟨⟨7, { (run0 { card0 2 0 with next := 1 } id) with layers := [(0, { Layer.reset with wd := Vector.replicate 8 1 })] }, by decide +kernel⟩,
   ⟨7, run0 { card0 2 0 with next := 1, doomed := true } id, by decide +kernel⟩, ⟨7, run0 (card0 2 0) id, by decide +kernel⟩⟩

/-- An image at 0 of one variant, without cards, for the device as it is. -/
def image0 : State := { mem0 with mem := [(0, 0x000100014237565A), (8, 48), (16, 7410425521722818471)].foldl (fun m x => Memory.store m x.1 8 x.2) [] }

/-- A boot card for queue 4092, and that queue. -/
def boot1 (dw3 : Dword) : BootCard := { queue := 4092, dw := [0, 0, 0x1_00080001, dw3, 0, 0, 0, 0], table := [], image := 0, variant := 0, index := 2 }
def feed0 (q : Queue) (b : BootCard) : State := { mem0 with queues := [(4092, q)], bootCards := [b] }

theorem witness_images :
    (∃ (addr v : Nat) (s : State), Memory.wf s.mem ∧ matchVariant s addr = some v) ∧
    (∃ (b : BootCard) (rest : List BootCard) (s : State), s.bootCards = b :: rest ∧ (s.queue b.queue).en = false) ∧
    (∃ (b : BootCard) (rest : List BootCard) (s : State), s.bootCards = b :: rest ∧ codeFor (s.queue b.queue) b.dw b.table = 0 ∧
      (s.queue b.queue).size ≤ (s.queue b.queue).depth + reservedEntries s none b.queue) ∧
    (∃ (b : BootCard) (rest : List BootCard) (s : State), s.bootCards = b :: rest ∧ (s.queue b.queue).en = true ∧
      codeFor (s.queue b.queue) b.dw b.table ≠ 0) ∧
    (∃ (b : BootCard) (rest : List BootCard) (s : State), s.bootCards = b :: rest ∧ (s.queue b.queue).en = true ∧
      codeFor (s.queue b.queue) b.dw b.table = 0 ∧ (s.queue b.queue).depth + reservedEntries s none b.queue < (s.queue b.queue).size ∧
      Memory.wf s.mem) ∧
    ∃ (s : State) (im : Image), Memory.wf s.mem ∧ s.images = [im] ∧ matchVariant s im.addr ≠ im.variant ∧
      ∃ e ∈ s.cards, s.card e.1 = e.2 ∧ e.2.image.any (fun y => y.1 == 0) = true ∧ e.2.dealtAll = false ∧ e.2.next = 0 ∧ e.2.nextB = 0 :=
  ⟨⟨0, 0, image0, by decide +kernel, by decide +kernel⟩,
   ⟨boot1 0, [], feed0 Queue.reset (boot1 0), rfl, rfl⟩,
   ⟨boot1 0x10000000, [], feed0 { ring0 0 with tail := 1 } (boot1 0x10000000), rfl, by decide +kernel, by decide⟩,
   ⟨boot1 0, [], feed0 (ring0 0) (boot1 0), rfl, rfl, by decide +kernel⟩,
   ⟨boot1 0x10000000, [], feed0 (ring0 0) (boot1 0x10000000), rfl, rfl, by decide +kernel, by decide, by decide⟩,
   ⟨{ mem0 with images := [⟨0, 0, 0, some 3⟩], cards := [(7, { card0 1 0 with image := some (0, 3, 1) })] }, ⟨0, 0, 0, some 3⟩, by decide, rfl,
     by decide +kernel, (7, { card0 1 0 with image := some (0, 3, 1) }), List.mem_singleton.mpr rfl, by decide +kernel⟩⟩

theorem undoList_nil (s : State) : undoList s [] = [] := by simp [undoList]
theorem killed_rollback : ((rollbackSet (run0 (card0 1 16) id) [] [7]).card 7).killed = false := by
  unfold rollbackSet
  simp only [undoList_nil]
  decide +kernel

/-- A saved card that may resume on L1 core 0. -/
def area0 : SaveArea :=
  { card := 7, cores := [⟨⟨.l1, 0⟩, Core.reset, false⟩], blocks := [], sections := [], poison := [], answers := [], replays := [], held := false, timeless := false, pins := [] }

theorem witness_preemption :
    (∀ b : Bool, ∃ (i : Instr) (n : Nat) (c : CoreId) (s : State), (s.core c).leaving = false ∧ (s.ctx ⟨c, 0⟩).gang = none ∧ (s.ctx ⟨c, 0⟩).mate = none ∧
      (i = .preemption n ∧ (s.card n).phs = false ∧ (s.card n).done = false ∧ (s.card n).killed = false ∧
        ((s.ctxsOf n).map (·.core)).dedup = [c] ∧ (s.ctx ⟨c, 0⟩).card = some n) ∧ mayLeave (markLeaving s [c]) [c] = b) ∧
    (∃ (n : Nat) (c : CoreId) (s : State), (s.core c).leaving = false ∧ (s.ctx ⟨c, 0⟩).gang = none ∧ (s.ctx ⟨c, 0⟩).mate = none ∧
      (s.ctx ⟨c, 0⟩).card = some n ∧ (s.card n).isFiller = true ∧ (s.ctx ⟨c, 0⟩).status ≠ .free) ∧
    (∃ (n : Nat) (s : State), (s.card n).phs = true ∧ (s.card n).done = false ∧ (s.card n).killed = false ∧ s.ctxsOf n ≠ [] ∧
      (∀ a ∈ s.ctxsOf n, (s.core a.core).leaving = false) ∧
      ((rollbackSet s (Machine.closure s s.doms.length ((s.doms.filter fun d => d.2.card == n && d.2.phs && d.2.saved != []).map (·.1))) [n]).card n).killed =
        false) ∧
    ∃ (n : Nat) (c : CoreId) (s : State) (x : SaveArea) (y : Saved), s.areas = [x] ∧ x.card = n ∧ x.held = false ∧ x.cores = [y] ∧
      x.blocks = [] ∧ x.sections = [] ∧ resumeCores s x c = some [c] ∧ (s.card n).isFiller = false ∧ sealing s = false ∧
      ∀ k, (SMap.read Ctx.reset y.data.ctxs k).gang = none := by
  refine ⟨fun b => ?_, ⟨7, core0, run0 (card0 1 0x10000020) id, by decide +kernel⟩, ⟨7, run0 (card0 1 16) id, by decide, by decide, by decide, by decide +kernel, by decide +kernel, ?_⟩,
    ⟨7, ⟨.l1, 0⟩, { mem0 with areas := [area0], cards := [(7, card0 1 0)] }, area0, ⟨⟨.l1, 0⟩, Core.reset, false⟩, by decide +kernel, by decide +kernel,
      by decide +kernel, by decide +kernel, by decide +kernel, by decide +kernel, by decide +kernel, by decide +kernel, by decide +kernel, fun _ => rfl⟩⟩
  · cases b
    · exact ⟨_, 7, core0, run0 (card0 1 0) fun c => { c with chunk := { c.chunk with count := 1 } }, by decide, by decide, by decide,
        ⟨rfl, by decide +kernel⟩, by decide +kernel⟩
    · exact ⟨_, 7, core0, run0 (card0 1 0) id, by decide, by decide, by decide, ⟨rfl, by decide +kernel⟩, by decide +kernel⟩
  · have h : Machine.closure (run0 (card0 1 16) id) (run0 (card0 1 16) id).doms.length
        (((run0 (card0 1 16) id).doms.filter fun d => d.2.card == 7 && d.2.phs && d.2.saved != []).map (·.1)) = [] := by decide +kernel
    rw [h]
    exact killed_rollback

/-- Domain 1 with a saved core and a journaled line. -/
def journal0 (poisoned : Bool) : State :=
  (run0 (card0 1 16) id).modDom 1 fun d => { d with saved := [⟨core0, Core.reset, false⟩], journal := [⟨5, List.replicate 64 9, poisoned, core0, 0, some 4096⟩] }

theorem witness_rollback : ∀ poisoned : Bool, ∃ (d : Nat) (s : State), (s.dom d).phs = true ∧ (s.dom d).saved ≠ [] ∧ Machine.closure s s.doms.length [d] = [d] ∧
    Memory.wf s.mem ∧ ((s.dom d).journal.map (·.line)).Nodup ∧ (∀ e ∈ (s.dom d).journal, e.pre.length = 64) ∧ Apart (s.dom d).journal ∧
    if poisoned then ¬ Sound s (s.dom d).journal ∧ (s.card (s.dom d).card).killed = false ∧ (s.card (s.dom d).card).done = false
    else Sound s (s.dom d).journal ∧ (s.dom d).tooLarge = none ∧ ((s.dom d).saved.map (·.core)).Nodup ∧ awayFrom s d = false := by
  intro poisoned
  have apart : ∀ p, Apart ((journal0 p).dom 1).journal := fun p e h q hq f k => by
    cases List.mem_singleton.mp h; cases List.mem_singleton.mp k; cases hq; exact .inr (by show 5 * 64 + 64 ≤ 4096; decide)
  cases poisoned
  · exact ⟨1, journal0 false, by decide, by decide, by decide +kernel, by decide, by decide, by decide, apart _,
      by simp only [Bool.false_eq_true, if_false]
         exact ⟨fun e h => by cases List.mem_singleton.mp h; exact ⟨rfl, fun _ _ _ _ => List.not_mem_nil⟩, by decide, by decide, by decide⟩⟩
  · exact ⟨1, journal0 true, by decide, by decide, by decide +kernel, by decide, by decide, by decide, apart _,
      fun h => absurd (h _ (List.mem_singleton.mpr rfl)).1 (by decide), by decide, by decide⟩

/-- A pair's effect that waits at the merge router. -/
def entry0 : MergeEntry := { who := a0, chan := 0, target := 0, crc := 0, bad := true, passed := false }
def merge0 (phs : Nat) : State :=
  { (run0 (card0 1 phs) fun c => { c with mate := some ⟨.l0, 4⟩ }) with merge := [entry0] }
/-- A unit that card 7 met as failed, with some spares used. -/
def fail0 (u : ErrUnit) (used : Nat) : State :=
  { mem0 with cards := [(7, card0 1 0)], dev := { Dev.reset with failing := [(u, 7)], spares := [(match u with | .memory v => bankNo v | _ => 0, used)], laneSpares := [(core0.key, used)] } }

theorem witness_errors :
    (∃ (l : Nat) (s : State), ∀ x ∈ s.dev.failing, x.1 ≠ unitKey (.memory l)) ∧
    (∃ (c : CoreId) (line : Nat) (s : State), (∀ x ∈ s.dev.failing, x.1 ≠ .code c line) ∧ hasCode s c line = true) ∧
    (∃ (u : ErrUnit) (c : CoreId) (s : State), (u = .lane c ∨ u = .logic c) ∧ c.kind ≠ .service ∧ (∀ x ∈ s.dev.failing, x.1 ≠ u) ∧
      (s.ctx ⟨c, 0⟩).gang = none ∧ (s.ctx ⟨c, 0⟩).status = .live ∧ (s.ctx ⟨c, 0⟩).card ≠ none ∧ s.phased ⟨c, 0⟩ = true) ∧
    (∀ used ∈ [15, 16], ∀ l ∈ [4096, spLoc 0 4100], ∃ (v n : Nat) (s : State) (rest : List (ErrUnit × Nat)), unitKey (.memory l) = .memory v ∧
      s.dev.failing = (.memory v, n) :: rest ∧ SMap.read 0 s.dev.spares (bankNo v) = used ∧ (s.card n).done = false ∧ (s.card n).killed = false ∧
      ∀ e ∈ s.doms, e.2.card = n → e.2.phs = false) ∧
    (∀ used ∈ [3, 4], ∃ (u : ErrUnit) (c : CoreId) (n : Nat) (s : State) (rest : List (ErrUnit × Nat)), u = .lane c ∧ s.dev.failing = (u, n) :: rest ∧
      SMap.read 0 s.dev.laneSpares c.key = used ∧ (s.card n).done = false ∧ (s.card n).killed = false ∧
      ∀ e ∈ s.doms, (e.2.card = n ∨ e.2.card ∈ cardsOn s [c]) → e.2.phs = false) ∧
    (∃ (u : ErrUnit) (c : CoreId) (n : Nat) (s : State) (rest : List (ErrUnit × Nat)), u = .logic c ∧ s.dev.failing = (u, n) :: rest ∧
      (s.card n).done = false ∧ (s.card n).killed = false ∧ ∀ e ∈ s.doms, (e.2.card = n ∨ e.2.card ∈ cardsOn s [c]) → e.2.phs = false) ∧
    (∀ spare ∈ [[36, 37], []], ∃ (cl n : Nat) (s : State) (rest : List (ErrUnit × Nat)), cl < 288 ∧ s.dev.failing = (.cluster cl, n) :: rest ∧
      (s.card n).done = false ∧ (s.card n).killed = false ∧ (∀ e ∈ s.doms, e.2.phs = false) ∧ (s.die (cl / 36)).spare = spare ∧
      defectEntry 4 (cl / 36) (cl % 36) 0 ∉ s.dev.defects) ∧
    ∀ phs ∈ [0, 16], ∃ (k n : Nat) (s : State) (x : MergeEntry) (m : CoreId), s.merge[k]? = some x ∧ x.bad = true ∧ x.passed = false ∧
      partnerStands s x = false ∧
      (s.ctx x.who).mate = some m ∧ m ≠ x.who.core ∧ (s.ctx x.who).card = some n ∧ (s.card n).done = false ∧ (s.card n).killed = false ∧
      if phs = 0 then (s.dom (s.ctx x.who).dom).phs = false
      else (s.dom (s.ctx x.who).dom).phs = true ∧ (s.dom (s.ctx x.who).dom).superstep ∉ (s.dom (s.ctx x.who).dom).mismatches := by
  refine ⟨⟨4096, mem0, by decide⟩, ⟨core0, 64, mem0.modCore core0 fun c => { c with icache := [(64, [])] }, by decide, by decide⟩, ⟨.lane core0, core0, run0 (card0 1 16) id, .inl rfl, by decide, by decide, by decide, by decide, by decide, by decide⟩,
    fun used _ l hl => ⟨l, 7, fail0 (.memory l) used, [], by revert l; decide, rfl, by simp [fail0, SMap.read], rfl, rfl, fun e h => by cases h⟩,
    fun used _ => ⟨.lane core0, core0, 7, fail0 (.lane core0) used, [], rfl, rfl, rfl, rfl, rfl, fun e h => by cases h⟩,
    ⟨.logic core0, core0, 7, fail0 (.logic core0) 0, [], rfl, rfl, rfl, rfl, fun e h => by cases h⟩,
    fun spare _ => ⟨40, 7, { fail0 (.cluster 40) 0 with dies := [(1, { Die.reset with spare := spare })] }, [], by decide, rfl, rfl, rfl,
      (fun e h => by cases h), rfl, List.not_mem_nil⟩, fun phs h => ?_⟩
  rcases List.mem_pair.mp h with rfl | rfl
  · exact ⟨0, 7, merge0 0, entry0, ⟨.l0, 4⟩, by decide +kernel⟩
  · exact ⟨0, 7, merge0 16, entry0, ⟨.l0, 4⟩, by decide +kernel⟩

/-- A shoot-down from the boot core, arrived or not. -/
def shoot0 (arrived : Bool) : CtxId × Dword × Dword × Bool := (⟨⟨.boot, 0⟩, 0⟩, 0, 1, arrived)

/-- A context with a miss, and a selector that answers it. -/
def miss0 : Miss := { unit := 0, seq := 1, va := 0x4000, acc := 0, posted := true, early := none }
def missed0 : State := mem0.modCtx a0 fun c => { c with status := .waiting .miss, misses := [miss0] }

theorem witness_messages :
    (∃ (core : CoreId) (ctx : Nat) (s : State), (s.ctx ⟨core, ctx⟩).msgDue = true) ∧
    (∃ (core : CoreId) (ctx unit : Nat) (s : State) (x : Miss) (pre post : List Miss), (s.ctx ⟨core, ctx⟩).misses = pre ++ x :: post ∧ x.unit = unit ∧
      x.posted = false ∧ (∀ y ∈ pre ++ post, y.unit ≠ unit) ∧ x.acc < 256) ∧
    (∃ (c : CoreId) (s : State) (who : CtxId) (unit : Nat) (m : List Dword) (pre post : List (CtxId × Nat × List Dword)),
      (s.core c).mailbox.held = pre ++ (who, unit, m) :: post ∧ (∀ x ∈ pre, (s.core c).mailbox.room x.2.2 = false) ∧ (s.core c).mailbox.room m = true) ∧
    (∃ (sel tag : Dword) (s : State),
      let a := (reqTarget (bits sel.toNat 0 32) (bits sel.toNat 40 4)).1
      bits sel.toNat 32 8 = 0 ∧ bitOf tag.toNat 0 = true ∧ (s.core a.core).tlb.slots.length ≤ tlbSize a.core.kind ∧
        (s.core a.core).tlb.next < tlbSize a.core.kind) ∧
    (∀ fc ∈ [0, 0x10, 0x11], ∃ (sel : Dword) (s : State),
      let t := reqTarget (bits sel.toNat 0 32) (bits sel.toNat 40 4)
      (s.ctx t.1).misses = [miss0] ∧ t.2 = 0 ∧ miss0.seq.toNat = bits sel.toNat 0 8 ∧ (s.ctx t.1).status = .waiting .miss ∧
        bits sel.toNat 32 8 = fc) ∧
    (∃ (sel : Dword) (s : State),
      let t := reqTarget (bits sel.toNat 0 32) (bits sel.toNat 40 4)
      (s.ctx t.1).misses = [miss0] ∧ ∀ m ∈ (s.ctx t.1).misses, m.unit = t.2 → m.seq.toNat ≠ bits sel.toNat 0 8) ∧
    (∀ holds : Bool, ∃ (c : CoreId) (s : State) (x : CtxId × Dword × Dword × Bool) (pre post : List (CtxId × Dword × Dword × Bool)),
      (s.core c).shoot = pre ++ x :: post ∧ (∀ y ∈ pre, y.2.2.2 = true) ∧ x.2.2.2 = false ∧ (∀ y ∈ post, y ≠ x) ∧
      (s.ctx ⟨c, 0⟩).chunk.holds = holds ∧ (holds = true → (s.ctx ⟨c, 0⟩).chunk.base < (s.ctx ⟨c, 0⟩).chunk.count) ∧
      (∀ k, k ≠ 0 → (s.ctx ⟨c, k⟩).gang = none) ∧ (s.ctx ⟨c, 0⟩).gang = some 1 ∧ (s.gangOf 1).members = members2 ∧
      ∀ m ∈ members2, (m.core = c → m.ctx = 0) ∧ m ∈ commitGroup s ⟨c, 0⟩) ∧
    ∀ access : Bool, ∃ (c : CoreId) (s : State) (x : CtxId × Dword × Dword × Bool) (pre post : List (CtxId × Dword × Dword × Bool)),
      (s.core c).shoot = pre ++ x :: post ∧ (∀ y ∈ pre, y.2.2.2 = false) ∧ x.2.2.2 = true ∧
      ((s.core c).exports.any fun e => e.fx.isHostAccess) = access := by
  refine ⟨⟨core0, 0, mem0.modCtx a0 fun c => { c with msgDue := true }, rfl⟩,
   ⟨core0, 0, 2, mem0.modCtx a0 fun c => { c with misses := [⟨2, 0, 0x4000, 255, false, none⟩] }, ⟨2, 0, 0x4000, 255, false, none⟩, [], [], rfl, rfl, rfl,
     by decide, by decide⟩,
   ⟨⟨.service, 0⟩, mem0.modCore ⟨.service, 0⟩ fun c => { c with mailbox := ⟨[], [(a0, 1, [1, 2, 3, 4])]⟩ }, a0, 1, [1, 2, 3, 4], [], [], rfl, by decide, by decide⟩,
   ⟨0, 1, mem0, by decide⟩, fun fc h => ⟨BitVec.ofNat 64 (fc * 2 ^ 32 + 1), missed0, ?_⟩, ⟨2, missed0, by decide⟩, fun holds => ?_, fun access => ?_⟩
  · fin_cases h <;> decide
  · refine ⟨⟨.l0, 0⟩, ((gang2 true).modCtx ⟨⟨.l0, 0⟩, 0⟩ fun c => { c with
        chunk := { c.chunk with count := 1, stores := if holds then [(0, 0)] else [] } }).modCore ⟨.l0, 0⟩ fun c =>
        { c with shoot := [shoot0 true, shoot0 false] }, shoot0 false, [shoot0 true], [], rfl, by decide, by decide, by decide,
      by cases holds <;> decide, by cases holds <;> decide, fun k h => ?_, by cases holds <;> decide, by cases holds <;> decide,
      by cases holds <;> decide⟩
    cases k with
    | zero => exact absurd rfl h
    | succ k => cases holds <;> rfl
  · exact ⟨core0, mem0.modCore core0 fun c => { c with
      shoot := [shoot0 false, shoot0 true], exports := if access then [⟨1, 0, .hostStore [] [], none⟩] else [] }, shoot0 true, [shoot0 false], [], rfl, by decide, by decide,
      by cases access <;> decide⟩

/-- A layer-1 core and its first child, each with an offer on their link. -/
def offer0 (kind n : Nat) (m : BitVec 8) : LinkOp :=
  { kind := kind, stride := 1, op := 1, a := tcm 0x100, n := n, m := m, data := List.replicate 8 0, bad := false, rnd := 1, sat := false, ws := 0, order := 0,
    ready := true, next := 0x1004 }
def link2 (o y : LinkOp) : State :=
  { State.reset with cores := [(0, { Core.reset with ctxs := [(0, { Ctx.reset with status := .waiting .link, link := some y })] }),
      (1, { Core.reset with ctxs := [(0, { Ctx.reset with status := .waiting .link, link := some o })] })] }
def parent0 : CtxId := ⟨⟨.l1, 0⟩, 0⟩
theorem offersAt_link2 : offersAt (link2 (offer0 1 1 1) (offer0 0 1 0)) core0 0 = [(a0, offer0 0 1 0)] ∧
    offersAt (link2 (offer0 3 8 1) (offer0 2 1 0)) core0 2 = [(a0, offer0 2 1 0)] :=
  ⟨List.mergeSort_singleton _, List.mergeSort_singleton _⟩
theorem childOffer_link2 : childOffer (link2 (offer0 1 1 1) (offer0 0 1 0)) parent0 0 0 = some (a0, offer0 0 1 0) ∧
    childOffer (link2 (offer0 3 8 1) (offer0 2 1 0)) parent0 0 2 = some (a0, offer0 2 1 0) := by
  have c : childOf parent0.core 0 = some core0 := by decide
  unfold childOffer
  rw [c]
  simp only [offersAt_link2]
  decide

theorem witness_collects :
    (∃ (p : CtxId) (s : State) (o : LinkOp) (hs : List (Nat × CtxId × LinkOp)), (s.core p.core).ctxs.map (·.1) = [p.ctx] ∧ (s.ctx p).link = some o ∧
      (s.ctx p).mate = none ∧ o.ready = true ∧ s.reserved [tcmLoc p.core 0] = false ∧ s.poison = [] ∧ Memory.wf s.mem ∧ o.kind = 1 ∧ hs.map (·.1) = (List.range 8).filter (fun c => bitOf o.m.toNat c) ∧
      (∀ h ∈ hs, childOffer s p h.1 0 = some h.2 ∧ (s.ctx h.2.1).link = some h.2.2 ∧ h.2.2.n = o.n ∧ (s.ctx h.2.1).mate = none) ∧
      (hs.map (·.2.1)).Nodup ∧ s.phased p = false) ∧
    ∃ (p : CtxId) (s : State) (o : LinkOp) (pos : Nat) (a : CtxId) (y : LinkOp), (s.core p.core).ctxs.map (·.1) = [p.ctx] ∧ (s.ctx p).link = some o ∧
      (s.ctx p).mate = none ∧ o.ready = true ∧ s.reserved [tcmLoc a.core 0] = false ∧ s.poison = [] ∧ Memory.wf s.mem ∧ o.kind = 3 ∧ pos < 8 ∧ o.m = BitVec.ofNat 8 (2 ^ pos) ∧ o.bad = false ∧
      childOffer s p pos 2 = some (a, y) ∧ (s.ctx a).mate = none ∧ (s.ctx a).link = some y ∧ s.phased a = false ∧ o.n * y.stride = 8 * y.n :=
  ⟨⟨parent0, link2 (offer0 1 1 1) (offer0 0 1 0), offer0 1 1 1, [(0, a0, offer0 0 1 0)], rfl, rfl, rfl, rfl, by decide, rfl, by decide, rfl, by decide,
     fun h m => by cases List.mem_singleton.mp m; exact ⟨childOffer_link2.1, rfl, rfl, rfl⟩, by decide, rfl⟩,
   ⟨parent0, link2 (offer0 3 8 1) (offer0 2 1 0), offer0 3 8 1, 0, a0, offer0 2 1 0, rfl, rfl, rfl, rfl, by decide, rfl, by decide, rfl, by decide, by decide, rfl,
     childOffer_link2.2, rfl, rfl, rfl, rfl⟩⟩

/-- A domain whose only participant has arrived at a rendezvous. -/
def meet0 (form : Nat) : State := run0 (card0 1 0) fun c => { c with status := .waiting .rendezvous, arrival := some ⟨form, 1, false, 0, 1, 0x1004⟩ }
/-- A second participant, at a rendezvous of another form. -/
def meet2 : State :=
  (((meet0 0).modCtx ⟨⟨.l0, 1⟩, 0⟩ fun _ => { (meet0 1).ctx a0 with copy := .only }).modDom 1 fun d => { d with members := members2 })
/-- A fabric domain whose token has not come. -/
def fabric0 : State :=
  { ((meet0 0).modDom 1 fun d => { d with kind := 5, inst := 2 }) with dev := { Dev.reset with fab := [(0, 0x2000000000001)] } }

/-- A phase-structured domain of which one participant waits at a barrier and another has parked. -/
def parked0 : State :=
  ((meet0 0).modDom 1 fun d => { d with phs := true }).modCtx ⟨⟨.l0, 1⟩, 0⟩ fun c => { c with status := .ended, dom := 1, card := some 7 }

theorem witness_meetings :
    (∃ (d : Nat) (s : State), allArrived s d = true ∧ (s.dom d).members.Nodup ∧ (∀ f ∈ formsOf s d, f = 0) ∧ exchangesDone s d = true ∧
      exportsLive s (coresIn s d) = true ∧ tokensHere s d = true ∧ ∀ m ∈ (s.dom d).members, m.ctx = 0 ∧ (s.ctx m).status ≠ .ended) ∧
    (∃ (d : Nat) (s : State), allArrived s d = true ∧ (s.dom d).members.Nodup ∧ (∀ f ∈ formsOf s d, f = 0) ∧ exchangesDone s d = true ∧
      exportsLive s (coresIn s d) = true ∧ tokensHere s d = true ∧ (s.dom d).phs = true ∧
      ∃ c ∈ coresIn s d, (s.ctx ⟨c, 0⟩).status = .ended ∧ (s.ctx ⟨c, 0⟩).dom = d ∧ (s.ctx ⟨c, 0⟩).gang = none) ∧
    (∃ (d : Nat) (s : State), allArrived s d = true ∧ (s.dom d).members.Nodup ∧ (∀ f ∈ formsOf s d, f = 0) ∧ exchangesDone s d = true ∧
      exportsLive s (coresIn s d) = false) ∧
    (∃ (d : Nat) (s : State), allArrived s d = true ∧ (s.dom d).members.Nodup ∧ (∀ f ∈ formsOf s d, f = 0) ∧ exchangesDone s d = true ∧
      exportsLive s (coresIn s d) = true ∧ tokensHere s d = false) ∧
    (∀ form ∈ [1, 2, 3], ∃ (d : Nat) (s : State), allArrived s d = true ∧ (s.dom d).members.Nodup ∧ ∀ f ∈ formsOf s d, f = form) ∧
    (∃ (d : Nat) (s : State), allArrived s d = true ∧ (s.dom d).members.Nodup ∧ (∃ f ∈ formsOf s d, ∃ g ∈ formsOf s d, f ≠ g) ∧ 0 ∈ formsOf s d) ∧
    ∃ (d : Nat) (s : State) (bar : Bool), (s.dom d).release = some bar ∧ (s.dom d).members.Nodup :=
  ⟨⟨1, meet0 0, by decide +kernel⟩, ⟨1, parked0, by decide +kernel⟩,
   ⟨1, (meet0 0).modCore core0 fun c => { c with exports := [⟨1, 0, .hostStore [] [], some 0⟩] }, by decide +kernel⟩, ⟨1, fabric0, by decide +kernel⟩, fun form h => ⟨1, meet0 form, by revert form; decide +kernel⟩,
   ⟨1, meet2, by decide +kernel⟩, ⟨1, (meet0 0).modDom 1 fun d => { d with release := some true }, true, by decide +kernel⟩⟩

/-- A core whose timetable slot 0 runs one entry of one word, with words at its east input. -/
def table0 (a : Nat) (words : List (Nat × W32 × Bool)) : State :=
  mem0.modCore core0 fun c => { c with tt := { Timetable.reset with
    slots := [(0, [(BitVec.ofNat 64 a, 0x1000000000000)])], running := some 0, inputs := [(1, words)] } }
def send0 : State := table0 (2 ^ 35 + 0x800) []
def receive0 : State := table0 (2 ^ 41 + 2 ^ 38 + 0x800) [(0, 7, false)]
def forward0 (comb : Nat) : State := table0 (2 * 2 ^ 41 + 2 ^ 38 + 2 * 2 ^ 35 + comb * 2 ^ 31) [(0, 7, false)]
/-- A sparse receive entry of three words: the mask of element 0 and its value. -/
def sparse0 : State :=
  mem0.modCore core0 fun c => { c with tt := { Timetable.reset with
    slots := [(0, [(BitVec.ofNat 64 (2 ^ 41 + 2 ^ 38 + 5 * 2 ^ 31 + 0x800), 0x3000000000000)])], running := some 0
    inputs := [(1, [(0, 1, false), (0, 0, false), (0, 9, false)])] } }

def quekin0 : State := table0 (2 ^ 41 + 5 * 2 ^ 38 + 2 ^ 26 + 0x800) []

theorem witness_entries :
    (∃ (c n : CoreId) (i cycle : Nat) (e : TtEntry) (s : State), quekinNow s c i 0 = none ∧ entryNow s c i 0 = some (e, cycle) ∧
      SMap.read 0 (s.core c).tt.moved i < e.len ∧ neighbour c e.dout = some n ∧ n.key ≠ c.key ∧ (s.ctx ⟨c, 0⟩).mate = none ∧ (s.ctx ⟨n, 0⟩).mate = none ∧
      ∀ x ∈ (List.range (min 8 (e.len - SMap.read 0 (s.core c).tt.moved i))).map fun j => readWord s (wordLocs c e (SMap.read 0 (s.core c).tt.moved i + j)),
        x.2 = false) ∧
    (∃ (c : CoreId) (i cycle : Nat) (e : TtEntry) (s : State), entryNow s c i 1 = some (e, cycle) ∧ e.comb < 5 ∧
      SMap.read 0 (s.core c).tt.moved i < e.len ∧ s.phased ⟨c, 0⟩ = false ∧ Memory.wf s.mem) ∧
    (∃ (c : CoreId) (i cycle : Nat) (e : TtEntry) (s : State) (lo hi : W32) (vals : List W32), entryNow s c i 1 = some (e, cycle) ∧ e.comb = 5 ∧
      let k := SMap.read 0 (s.core c).tt.moved i
      let n := e.len - k
      let w := (((SMap.read [] (s.core c).tt.inputs e.din).filter fun x => x.1 == cycle).take n).map (·.2)
      let mask := (List.range 64).filter fun b => bitOf (lo.toNat + 2 ^ 32 * hi.toNat) b
      k < e.len ∧ n ≤ 8 ∧ w.length = n ∧ (∀ x ∈ w, x.2 = false) ∧ SMap.read [] (s.core c).tt.stream i ++ w = (lo :: hi :: vals).map (fun x => (x, false)) ∧
      mask.length = vals.length ∧ vals.length ≤ 32 ∧ e.addr + 256 ≤ e.window ∧ s.phased ⟨c, 0⟩ = false ∧ Memory.wf s.mem) ∧
    (∀ comb ∈ [0, 2], ∃ (c n : CoreId) (i cycle : Nat) (e : TtEntry) (s : State), entryNow s c i 2 = some (e, cycle) ∧ e.comb = comb ∧
      (∀ j, j < 1 → (readWord s (wordLocs c e (SMap.read 0 (s.core c).tt.moved i + j))).2 = false) ∧ e.len = 1 ∧
      SMap.read 0 (s.core c).tt.moved i < e.len ∧ neighbour c e.dout = some n ∧ n.key ≠ c.key ∧ (s.ctx ⟨c, 0⟩).mate = none ∧ (s.ctx ⟨n, 0⟩).mate = none ∧
      (((SMap.read [] (s.core c).tt.inputs e.din).filter fun x => x.1 == cycle).take (min 8 (e.len - SMap.read 0 (s.core c).tt.moved i))).length =
        min 8 (e.len - SMap.read 0 (s.core c).tt.moved i)) ∧
    (∃ (c : CoreId) (dir : Nat) (s : State) (x : Nat × W32 × Bool) (rest : List (Nat × W32 × Bool)), lostAt s c dir = x :: rest) ∧
    (∀ full : Bool, ∃ (p : Nat) (w : List W32) (s : State), w ≠ [] ∧ decide (256 ≤ (s.quekin.filter fun x => x.1 == p).length) = full) ∧
    ∃ (p i : Nat) (s : State) (x : Nat × Core) (e : TtEntry), x ∈ s.cores ∧ (runningEntries (s.core (coreOfKey x.1)).tt)[i]? = some e ∧ e.qport = p ∧
      5 ∈ e.dirs ∧ e.cen = true ∧ i ∉ (s.core (coreOfKey x.1)).tt.finished :=
  ⟨⟨core0, ⟨.l0, 1⟩, 0, 0, ttEntry (BitVec.ofNat 64 (2 ^ 35 + 0x800), 0x1000000000000), send0, by decide +kernel, by decide +kernel, by decide +kernel, by decide +kernel, by decide +kernel,
     by decide +kernel, by decide +kernel, fun x h => by
       obtain ⟨j, -, rfl⟩ := List.mem_map.mp h; simp [readWord, show send0.poison = [] from rfl]⟩,
   ⟨core0, 0, 0, ttEntry (BitVec.ofNat 64 (2 ^ 41 + 2 ^ 38 + 0x800), 0x1000000000000), receive0, by decide +kernel⟩,
   ⟨core0, 0, 0, ttEntry (BitVec.ofNat 64 (2 ^ 41 + 2 ^ 38 + 5 * 2 ^ 31 + 0x800), 0x3000000000000), sparse0, 1, 0, [9],
     by decide +kernel, by decide +kernel, by decide +kernel, by decide +kernel, by decide +kernel,
     @of_decide_eq_true _ (List.decidableBAll _ _) (by decide +kernel), by decide +kernel, by decide +kernel, by decide +kernel, by decide +kernel, by decide +kernel, by decide +kernel⟩,
   fun comb h => ⟨core0, ⟨.l0, 4⟩, 0, 0, ttEntry (BitVec.ofNat 64 (2 * 2 ^ 41 + 2 ^ 38 + 2 * 2 ^ 35 + comb * 2 ^ 31), 0x1000000000000), forward0 comb,
     by rcases List.mem_pair.mp h with rfl | rfl <;> decide +kernel⟩,
   ⟨core0, 1, mem0.modCore core0 fun c => { c with tt := { Timetable.reset with inputs := [(1, [(0, 7, false)])] } }, (0, 7, false), [], by decide +kernel⟩,
   fun full => ⟨0, [1], { mem0 with quekin := List.replicate (if full then 256 else 255) (0, 0, 0, [2]) }, by decide, by cases full <;> decide +kernel⟩,
   ⟨0, 0, quekin0, (0, quekin0.core core0), _, by decide +kernel, rfl, by decide +kernel⟩⟩

/-- CTX.ACT's word for context 0 of L0 core 0, on a core the boot core serves. -/
def act0 (c : Ctx → Ctx) : State := run0 (card0 1 0) c

/-- Two cores of a fused gang, the first stopped with its message in the mailbox, the second by its error. -/
def gangStop0 : State :=
  (((gang2 true).modCtx a0 fun c => { c with status := .stopped, card := some 7, r := { c.r with code := 0x17, tvec := 0x2000 } }).modCtx ⟨⟨.l0, 1⟩, 0⟩ fun c =>
    { c with status := .stopped, card := some 7, r := { c.r with code := 0x1A } })

theorem witness_firmware :
    (∃ w : W32, bits w.toNat 0 12 ≠ 0) ∧ (∃ w : W32, bits w.toNat 0 12 = 0 ∧ 8 < bits w.toNat 12 4) ∧
    (∃ (fw : CoreId) (w : W32), bits w.toNat 0 12 = 0 ∧ bits w.toNat 12 4 ≤ 8 ∧
      (targetExists w.toNat (bits w.toNat 12 4) (actTarget w).core && serves fw (actTarget w).core) = false) ∧
    ∃ (fw : CoreId) (w : W32), bits w.toNat 0 12 = 0 ∧ bits w.toNat 12 4 ≤ 8 ∧ targetExists w.toNat (bits w.toNat 12 4) (actTarget w).core = true ∧
      serves fw (actTarget w).core = true ∧ actTarget w = a0 ∧
      (∃ s : State, (s.ctx a0).status = .stopped ∧ (s.ctx a0).msgDue = false ∧ ctxHeld s a0 = false ∧ s.lockstep a0 = [a0] ∧
        (s.ctx a0).r.code ∉ [0x02, 0x18, 0x1A] ∧ (s.ctx a0).r.tvec ≠ 0 ∧ (s.ctx a0).r.active = false) ∧
      (∃ s : State, (s.ctx a0).status = .stopped ∧ (s.ctx a0).msgDue = false ∧ ctxHeld s a0 = false ∧ s.lockstep a0 = members2 ∧
        (∀ m ∈ s.lockstep a0, (s.ctx m).link = none) ∧ (s.ctx a0).r.code ∉ [0x02, 0x18, 0x1A] ∧ (s.ctx a0).r.tvec ≠ 0 ∧ (s.ctx a0).r.active = false) ∧
      (∃ s : State, (s.ctx a0).status = .stopped ∧ (s.ctx a0).msgDue = false ∧ ctxHeld s a0 = false ∧ (s.ctx a0).r.code = 0x18 ∧ (s.ctx a0).r.tvec = 0) ∧
      (∃ s : State, (s.ctx a0).status ≠ .stopped) ∧ (∃ s : State, (s.ctx a0).card = none) ∧
      (∃ (s : State) (n : Nat), (s.ctx a0).card = some n ∧ (s.ctx a0).status ≠ .free ∧ (s.ctx a0).status ≠ .ended ∧ (s.card n).killed = false ∧
        (s.card n).done = false) ∧
      (∀ p : Bool, ∃ s : State, (s.core a0.core).parked.isSome = p) ∧
      (∃ (s : State) (n : Nat), (s.ctx a0).card = some n ∧ (s.ctx a0).status ≠ .free ∧ s.phased a0 = false) ∧
      (∃ (s : State) (n : Nat), (s.ctx a0).card = some n ∧ (s.ctx a0).status ≠ .free ∧ (s.ctx a0).status ≠ .ended ∧
        (s.card n).begun = true ∧ (s.card n).killed = false ∧ (s.card n).done = false ∧ s.phased a0 = true ∧ (s.dom (s.ctx a0).dom).saved ≠ []) ∧
      ∃ (s : State) (n : Nat), (s.ctx a0).card = some n ∧ (s.ctx a0).status = .ended ∧
        (∀ b ∈ s.ctxsOf n, (s.ctx b).status = .ended) ∧ (∀ x ∈ s.areas, x.card ≠ n) ∧ (s.card n).dup = false ∧
        (s.card n).recCount ≤ (s.card n).next ∧ (∀ x ∈ (s.card n).sections, x.2 = true) ∧ s.phased a0 = true :=
  ⟨⟨1, by decide⟩, ⟨0x9000, by decide⟩, ⟨⟨.service, 1⟩, 0, by decide⟩, ⟨.boot, 0⟩, 0, by decide, by decide, by decide, by decide, by decide,
   ⟨act0 fun c => { c with status := .stopped, r := { c.r with tvec := 0x2000 } }, by decide⟩, ⟨gangStop0, by decide +kernel⟩,
   ⟨act0 fun c => { c with status := .stopped, r := { c.r with code := 0x18 } }, by decide⟩, ⟨act0 id, by decide⟩, ⟨mem0, by decide⟩,
   ⟨act0 id, 7, by decide⟩, fun p => ⟨(act0 id).modCore core0 fun c => { c with parked := if p then some 0 else none }, by cases p <;> decide⟩,
   ⟨act0 id, 7, by decide⟩, ⟨{ journal0 false with cards := [(7, { card0 1 16 with next := 1 })] }, 7, by decide⟩,
   ⟨run0 { card0 1 16 with next := 1 } fun c => { c with status := .ended }, 7, by decide +kernel⟩⟩

/-- An operation of the root of trust, its descriptor at 0x1000 and its buffer at 0x1100, on a page of the boot core. -/
def op0 (op : Nat) (l : List (Nat × Nat)) (tenants : SMap Tenant) : State :=
  { State.reset with
    cores := [((⟨.boot, 0⟩ : CoreId).key, { Core.bootReset with tlb := ⟨[⟨0x10, 0x1600, true, 100, none⟩], 0⟩ })]
    mem := ((0x1000, 0x1100) :: l).foldl (fun m x => Memory.store m x.1 8 x.2) []
    dev := { Dev.reset with ckptStat := BitVec.ofNat 64 (0x80000000 + op), ready := 0x40000000, ckptCtl := 0x1000, tenants := tenants } }
/-- The descriptor of such an operation, its words 1 and 2 as given. -/
def desc0 (d1 d2 : Dword) : List Dword := [0x1100, d1, d2, 0, 0, 0, 0, 0]
/-- A policy record with one firmware measurement, all 0. -/
def policy0 : List (Nat × Nat) := [(0x1100, 0x000100015054565A)]
def policyBytes : List Byte := [0x5A, 0x56, 0x54, 0x50, 1, 0, 1, 0] ++ List.replicate 64 0
def slots0 (t : Tenant) (n : Nat) : SMap Tenant := (List.range n).map fun i => (i, t)

theorem sha_policy : sha3 policyBytes ≠ [1] := by
  have h : (sha3 policyBytes).length ≠ 1 := by decide +kernel
  exact fun e => h (by rw [e]; rfl)
theorem no_slot (n : Nat) (s : State) (h : s.dev.tenants = slots0 ⟨[1], [], 0⟩ n) : slotWith s (sha3 policyBytes) = none := by
  have hf : (slots0 ⟨[1], [], 0⟩ n).find? (fun t => t.2.tm == sha3 policyBytes) = none := by
    rw [List.find?_eq_none]
    intro x hx
    obtain ⟨i, -, rfl⟩ := List.mem_map.mp hx
    simpa using fun e => sha_policy (Eq.symm e)
  unfold slotWith
  rw [h, hf]
  rfl

theorem witness_bind :
    (∃ (s : State) (d : List Dword), running s 3 = true ∧ ckptDesc s = some d ∧ descOk 3 d = false) ∧
    (∃ (s : State) (d : List Dword) (h : List Byte), running s 3 = true ∧ ckptDesc s = some d ∧ descOk 3 d = true ∧
      ckptRead s (BitVec.ofNat 64 (bits (d.getD 0 0).toNat 0 52)) 8 = some h ∧ policyOk h = false) ∧
    (∃ (s : State) (d : List Dword) (h r : List Byte), running s 3 = true ∧ ckptDesc s = some d ∧ descOk 3 d = true ∧
      ckptRead s (BitVec.ofNat 64 (bits (d.getD 0 0).toNat 0 52)) 8 = some h ∧ policyOk h = true ∧
      ckptRead s (BitVec.ofNat 64 (bits (d.getD 0 0).toNat 0 52)) (40 + 32 * (h.getD 6 0).toNat) = some r ∧ slotWith s (sha3 r) ≠ none) ∧
    ∀ n ∈ [63, 64], ∃ (s : State) (d : List Dword) (h r : List Byte), running s 3 = true ∧ ckptDesc s = some d ∧ descOk 3 d = true ∧
      ckptRead s (BitVec.ofNat 64 (bits (d.getD 0 0).toNat 0 52)) 8 = some h ∧ policyOk h = true ∧
      ckptRead s (BitVec.ofNat 64 (bits (d.getD 0 0).toNat 0 52)) (40 + 32 * (h.getD 6 0).toNat) = some r ∧ slotWith s (sha3 r) = none ∧
      ∀ i, i < 64 → SMap.has s.dev.tenants i = decide (i < n) := by
  refine ⟨⟨op0 3 [(0x1008, 1)] [], desc0 1 0, by decide +kernel⟩, ⟨op0 3 [] [], desc0 0 0, List.replicate 8 0, by decide +kernel⟩,
    ⟨op0 3 policy0 [(9, ⟨sha3 policyBytes, [], 0⟩)], desc0 0 0, policyBytes.take 8, policyBytes, by decide +kernel, by decide +kernel, by decide +kernel,
      by decide +kernel, by decide +kernel, by decide +kernel, by simp [slotWith, op0]⟩, fun n hn => ?_⟩
  rcases List.mem_pair.mp hn with rfl | rfl
  · exact ⟨op0 3 policy0 (slots0 ⟨[1], [], 0⟩ 63), desc0 0 0, policyBytes.take 8, policyBytes, by decide +kernel, by decide +kernel, by decide +kernel,
      by decide +kernel, by decide +kernel, by decide +kernel, no_slot 63 _ rfl, by decide +kernel⟩
  · exact ⟨op0 3 policy0 (slots0 ⟨[1], [], 0⟩ 64), desc0 0 0, policyBytes.take 8, policyBytes, by decide +kernel, by decide +kernel, by decide +kernel,
      by decide +kernel, by decide +kernel, by decide +kernel, no_slot 64 _ rfl, by decide +kernel⟩

theorem witness_quotes :
    (∃ (s : State) (d : List Dword), running s 4 = true ∧ ckptDesc s = some d ∧ slotOf s (bits (d.getD 2 0).toNat 0 6) = none) ∧
    (∃ (s : State) (d : List Dword) (tn : Tenant) (nonce : List Byte), running s 4 = true ∧ ckptDesc s = some d ∧ descOk 4 d = true ∧
      slotOf s (bits (d.getD 2 0).toNat 0 6) = some tn ∧ ckptRead s (d.getD 7 0) 32 = some nonce ∧ Memory.wf s.mem) ∧
    (∃ (tm : List Byte) (s : State), slotWith s tm = none) ∧ (∃ (tm : List Byte) (s : State) (i : Nat), slotWith s tm = some i) ∧
    (∃ (e : Nat) (s : State), e < 4 ∧ bitOf s.dev.ckptNeed (4 + e) = true) ∧ (∃ s : State, s.dev.ckptNeed ≠ 0) ∧
    (∀ op ∈ [1, 2, 3, 4], ∃ s : State, ckptDesc s = none ∧ running s op = true ∧ liveCards s = []) ∧
    ∀ there : Bool, ∃ s : State, ((span 0x1100 7456).mapM (ckptReach s 1)).isSome = there :=
  ⟨⟨op0 4 [] [], desc0 0 0, by decide +kernel⟩,
   ⟨op0 4 [(0x1038, 0x1200)] [(0, ⟨[1], [], 0⟩)], (desc0 0 0).set 7 0x1200, ⟨[1], [], 0⟩, List.replicate 32 0, by decide +kernel⟩,
   ⟨[1], op0 4 [] [], by decide⟩, ⟨[1], op0 4 [] [(5, ⟨[1], [], 0⟩)], 5, by decide⟩,
   ⟨3, { State.reset with dev := { Dev.reset with ckptNeed := 0x80 } }, by decide⟩, ⟨{ State.reset with dev := { Dev.reset with ckptNeed := 0x80 } }, by decide⟩,
   fun op h => ⟨{ op0 op [] [] with cores := [] }, by fin_cases h <;> decide +kernel⟩,
   fun there => ⟨{ op0 4 [] [] with cores := [((⟨.boot, 0⟩ : CoreId).key, { Core.bootReset with
      tlb := ⟨if there then [⟨0x15, 0x1600, true, 100, none⟩] else [], 0⟩ })] }, by cases there <;> decide +kernel⟩⟩

/-- A device whose root of trust runs a seal while card 7 has a context. -/
def busy0 (op : Nat) : State := { (op0 op [] []) with cores := (op0 op [] []).cores ++ [(1000, { Core.reset with ctxs := [(0, { Ctx.reset with status := .live, card := some 7 })] })] }

theorem witness_seals :
    (∃ s : State, running s 1 = true ∧ liveCards s ≠ []) ∧
    (∃ (s : State) (d : List Dword), running s 1 = true ∧ liveCards s = [] ∧ ckptDesc s = some d ∧ slotOf s (bits (d.getD 2 0).toNat 0 6) = none) ∧
    ∀ ctr ∈ [(0xFFFFFFFFFFFFFFFF : Dword), 0xFFFFFFFFFFFFFFFE], ∃ (s : State) (d : List Dword) (tn : Tenant) (nonce : List Byte) (qs : List (Nat × List Byte)),
      running s 1 = true ∧ liveCards s = [] ∧ ckptDesc s = some d ∧ descOk 1 d = true ∧ bitOf (d.getD 2 0).toNat 8 = true ∧
      slotOf s (bits (d.getD 2 0).toNat 0 6) = some tn ∧ ckptRead s (d.getD 7 0) 32 = some nonce ∧
      (((List.range 4).filter fun i => d.getD (3 + i) 0 != 0 && !(true && i == 0)).mapM fun i => (ckptRead s (d.getD (3 + i) 0) 7456).map fun q => (i, q)) = some qs ∧
      tn.ctr = ctr ∧ Memory.wf s.tier ∧ Memory.wf s.mem := by
  refine ⟨⟨busy0 1, by decide +kernel⟩, ⟨op0 1 [] [], desc0 0 0, by decide +kernel⟩, fun ctr h => ?_⟩
  rcases List.mem_pair.mp h with rfl | rfl
  · exact ⟨op0 1 [(0x1010, 0x100), (0x1038, 0x1200)] [(0, ⟨[1], [], 0xFFFFFFFFFFFFFFFF⟩)], (desc0 0 0x100).set 7 0x1200, _, List.replicate 32 0, [], by decide +kernel,
      by decide +kernel, by decide +kernel, by decide, by decide, rfl, by decide +kernel, by decide +kernel, rfl, by decide, by decide +kernel⟩
  · exact ⟨op0 1 [(0x1010, 0x100), (0x1038, 0x1200)] [(0, ⟨[1], [], 0xFFFFFFFFFFFFFFFE⟩)], (desc0 0 0x100).set 7 0x1200, _, List.replicate 32 0, [], by decide +kernel,
      by decide +kernel, by decide +kernel, by decide, by decide, rfl, by decide +kernel, by decide +kernel, rfl, by decide, by decide +kernel⟩

/-- An image without segments at the descriptor's address in the safe tier. -/
def tier0 : State := { (op0 2 [] []) with tier := [(0x1100, 0x000100014B43565A), (0x1150, 4096)].foldl (fun m x => Memory.store m x.1 8 x.2) [] }

theorem witness_restores :
    (∃ (s : State) (d : List Dword), running s 2 = true ∧ ckptDesc s = some d ∧ descOk 2 d = false) ∧
    (∃ (s : State) (d : List Dword), running s 2 = true ∧ ckptDesc s = some d ∧ descOk 2 d = true ∧ (liveCards s ≠ [] ∨ s.areas ≠ [])) ∧
    (∃ (s : State) (d : List Dword), running s 2 = true ∧ ckptDesc s = some d ∧ descOk 2 d = true ∧ liveCards s = [] ∧ s.areas = [] ∧
      readHead s (bits (d.getD 0 0).toNat 52 12 * 2 ^ 52 + bits (d.getD 0 0).toNat 0 52) = none) ∧
    ∃ (s : State) (d : List Dword), running s 2 = true ∧ ckptDesc s = some d ∧ descOk 2 d = true ∧ liveCards s = [] ∧ s.areas = [] ∧
      ∃ i, readHead s (bits (d.getD 0 0).toNat 52 12 * 2 ^ 52 + bits (d.getD 0 0).toNat 0 52) = some i :=
  ⟨⟨op0 2 [(0x1008, 1)] [], desc0 1 0, by decide +kernel⟩, ⟨busy0 2, desc0 0 0, by decide +kernel⟩, ⟨op0 2 [] [], desc0 0 0, by decide +kernel⟩,
   ⟨tier0, desc0 0 0, by decide +kernel, by decide +kernel, by decide, by decide +kernel, by decide +kernel, Option.isSome_iff_exists.mp (by decide +kernel)⟩⟩

theorem witness_time :
    (∃ (time : Dword) (s : State), ((time.toNat : Int) - s.dev.devTime.toNat).natAbs = 999999) ∧
    (∃ (time : Dword) (s : State), (time.toNat : Int) - s.dev.devTime.toNat = 1000000) ∧
    (∃ (time : Dword) (s : State), (time.toNat : Int) - s.dev.devTime.toNat = -1000000) ∧
    (∃ s : State, bits s.dev.ptpStat.toNat 30 2 = 1) ∧ (∃ s : State, bits s.dev.ptpStat.toNat 30 2 ≠ 1 ∧ s.dev.telRecord = none) ∧
    (∃ (s : State) (r : List Byte), s.dev.telRecord = some r) ∧ ∀ n ∈ [254, 255], ∃ s : State, s.dev.intervals = n :=
  ⟨⟨999999, State.reset, by decide⟩, ⟨1000000, State.reset, by decide⟩, ⟨0, { State.reset with dev := { Dev.reset with devTime := 1000000 } }, by decide⟩,
   ⟨{ State.reset with dev := { Dev.reset with ptpStat := 0x40000000 } }, by decide⟩, ⟨State.reset, by decide⟩,
   ⟨{ State.reset with dev := { Dev.reset with telRecord := some [1] } }, [1], rfl⟩, fun n _ => ⟨{ State.reset with dev := { Dev.reset with intervals := n } }, rfl⟩⟩

/-- Cluster 0 in a state of R356, selected. -/
def gate0 (g : Gate) (latched : Bool) : State :=
  { State.reset with clus := [(0, { Cluster.reset with gate := g, wakeLatched := latched, retained := (coresOf 0).map fun c => (c, Core.reset) })] }

theorem witness_gates : (∃ s : State, selCluster s = none) ∧ (∀ g latched, selCluster (gate0 g latched) = some 0 ∧ ((gate0 g latched).cluster 0).gate = g ∧
      ((gate0 g latched).cluster 0).wakeLatched = latched ∧ ((gate0 g latched).cluster 0).retained.map (·.1) = coresOf 0 ∧ Memory.wf (gate0 g latched).mem) ∧
    quiet (gate0 .quiescing false) 0 = true ∧
    quiet ((gate0 .quiescing false).modCore ⟨.service, 0⟩ fun c => { c with mailbox := ⟨[[1, 2, 3, 4]], []⟩ }) 0 = false :=
  ⟨⟨{ State.reset with dev := { Dev.reset with clSel := 36 } }, by decide⟩, fun g l => by cases g <;> cases l <;> decide +kernel, by decide +kernel, by decide +kernel⟩

theorem witness_readiness : (∀ x ∈ State.reset.cores, x.1 = CoreId.key ⟨.boot, 0⟩ → x.2.fenced = false) ∧ Memory.wf State.reset.mem ∧
    (∃ s : State, Memory.wf s.mem ∧ ∀ b, b ≤ 30 → isReady s b = true) ∧ (∀ b, b ≤ 30 → isReady State.reset b = false) ∧
    (∃ s : State, Memory.wf s.mem ∧ isReady s 17 = false ∧ SMap.read (0 : Dword) s.dev.readyCl 0 ≠ 0) ∧
    (∃ s : State, Memory.wf s.mem ∧ isReady s 27 = false ∧ isReady s 16 = true) ∧
    (∃ s : State, Memory.wf s.mem ∧ isReady s 25 = false ∧ ∀ d, d < 8 → isReady s (8 + d) = true) ∧
    ∃ s : State, Memory.wf s.mem ∧ bitOf (SMap.read (0 : Dword) s.dev.readyCl 7).toNat 35 = false ∧ isReady s 15 = true ∧ clusterLost s 287 = false :=
  ⟨by decide, by decide, ⟨{ State.reset with dev := { Dev.reset with ready := 0x7FFFFFFF } }, by decide, by decide⟩, by decide,
   ⟨{ State.reset with dev := { Dev.reset with readyCl := [(0, 1)] } }, by decide⟩, ⟨{ State.reset with dev := { Dev.reset with ready := 0x10000 } }, by decide⟩,
   ⟨{ State.reset with dev := { Dev.reset with ready := 0xFF00 } }, by decide⟩, ⟨{ State.reset with dev := { Dev.reset with ready := 0x8000 } }, by decide⟩⟩

/-! Ill-formed instructions: one for each check, refused. -/

theorem test_wf_chain_refused :
    (Instr.add { f0 with aux := 1 }).wf = false ∧ (Instr.movi { f0 with imm := [1, 2, 3, 4] }).wf = false ∧
    (Instr.add { f0 with mod := some ⟨15, 0, 0, false⟩ }).wf = false ∧ (Instr.fadd { f0 with mod := some ⟨0, 6, 0, false⟩ }).wf = false ∧
    (Instr.amoadd { f0 with mod := some ⟨0, 0, 7, false⟩ }).wf = false ∧
    (Instr.csrw { f0 with reg := some ⟨false, false, 0, false, 0⟩, mod := some ⟨0, 0, 0, false⟩, imm := [1, 2] }).wf = false ∧
    (Instr.mtmov { f0 with aux := 1 }).wf = false ∧ (Instr.restrPut { f0 with aux := 1 }).wf = false ∧ (Instr.prolgPut f0).wf = false ∧
    (Instr.vdot 20 f0).wf = false ∧ (Instr.vcvtn 0 f0).wf = false ∧ (Instr.vcvtw 19 f0).wf = false ∧ (Instr.mma 20 f0).wf = false := by
  decide +kernel

theorem test_wf_unit_refused :
    (Instr.matrixMul ⟨.l1, 0⟩ 0).wf = false ∧ (Instr.gather ⟨.l0, 4608⟩ 0).wf = false ∧ (Instr.engineCompletion ⟨.l0, 0⟩ 0 5).wf = false ∧
    (Instr.rotationBegin ⟨.l2, 0⟩).wf = false ∧ (Instr.copy 288 0).wf = false ∧ (Instr.fill 0 8).wf = false ∧
    (Instr.contextReady ⟨.boot, 0⟩ 4).wf = false ∧ (Instr.missMessage ⟨.l0, 0⟩ 0 256).wf = false ∧
    (Instr.queueEnable 4096 0).wf = false ∧ (Instr.triggerFire 4096).wf = false ∧ (Instr.triggerCounterWrite 4096 0).wf = false ∧
    (Instr.dealingRound 4).wf = false ∧ (Instr.cycleSectionStart 0 ⟨.l1, 576⟩).wf = false ∧ (Instr.uncorrectableError (.cluster 288)).wf = false ∧
    (Instr.leaseExpiry ⟨.l0, 0⟩ 64).wf = false ∧ (Instr.shootdownAck ⟨.boot, 1⟩).wf = false := by
  decide +kernel

theorem test_wf_device_refused :
    (Instr.fabricToken 36 0).wf = false ∧ (Instr.quekinFlit 0 0 0 (List.replicate 61 0)).wf = false ∧ (Instr.quekinLinkError 36).wf = false ∧
    (Instr.ttSendEntry ⟨.l0, 0⟩ 255).wf = false ∧ (Instr.ttReceiveEntry ⟨.l1, 0⟩ 0).wf = false ∧ (Instr.ttLostWord ⟨.l0, 0⟩ 5).wf = false ∧
    (Instr.mboxPop ⟨.l0, 0⟩).wf = false ∧ (Instr.ctxKill ⟨.l0, 0⟩ 0).wf = false ∧ (Instr.quiesceDone 288).wf = false ∧
    (Instr.clockRestart 288).wf = false ∧ (Instr.functionReady (.hbm 8)).wf = false ∧ (Instr.functionReady (.upper 4)).wf = false ∧
    (Instr.functionReady (.quekin 36)).wf = false ∧ (Instr.commitAcknowledgement 4).wf = false := by
  decide +kernel

/-! Words written out from the encodings of the spec, family by family. -/

/-- Integer (R39 to R45, and appendix A's example `(!p1) addi s20, s20, -1728`). -/
theorem test_decode_integer :
    decode [0xE830, 0xF581, 0x0090] = .instr (.add ⟨1, 2, 0, some ⟨false, false, 3, false, 0⟩, some ⟨11, 0, 0, true⟩, []⟩) 3 ∧
    decode [0xEE09, 0xFFFF, 0xF940, 0x1224] =
      .instr (.addi ⟨4, 4, 0, some ⟨true, true, 0, true, 1⟩, none, [0x7FF, 0x140]⟩) 4 ∧
    decode [0xF801, 0x3805] = .instr (.enter ⟨0, 0, 0, none, none, [1]⟩) 2 := by decide +kernel

/-- Scalar float (R112), vector (R155) and format-pair (R163, R164) instructions. -/
theorem test_decode_float :
    decode [0xE830, 0xF130, 0x4890] = .instr (.fadd ⟨1, 2, 0, some ⟨false, false, 3, false, 0⟩, some ⟨2, 3, 0, false⟩, []⟩) 3 ∧
    decode [0xE100, 0xE830, 0xF681, 0xD890] =
      .instr (.vadd ⟨1, 2, 0, some ⟨false, false, 3, false, 0⟩, some ⟨13, 0, 0, true⟩, []⟩) 4 ∧
    decode [0xE336, 0xDAB2] = .instr (.vcvtn 22 ⟨5, 6, 2, none, none, []⟩) 2 ∧
    decode [0xE314, 0xDAB2] = .reserved 0x314 2 := by decide +kernel

/-- Engines (R181) and memory (R45's longest chain). -/
theorem test_decode_memory :
    decode [0xE206, 0xDB80] = .instr (.rowprog ⟨7, 0, 0, none, none, []⟩) 2 ∧
    decode [0xE418, 0xEE9B, 0xF588, 0xFBE8, 0xD8A0] =
      .instr (.amoadd ⟨1, 4, 0, some ⟨true, true, 9, true, 3⟩, some ⟨11, 0, 4, false⟩, [1000]⟩) 5 := by decide +kernel

/-- Slices, control and privileged instructions (R73, R85, R123, R217, R226, R233, R264, R288). -/
theorem test_decode_control :
    decode [0xE523, 0xE850, 0xD9A0] = .instr (.jenq ⟨3, 4, 0, some ⟨false, false, 5, false, 0⟩, none, []⟩) 3 ∧
    decode [0xE524, 0xDCD2] = .instr (.workq ⟨9, 10, 2, none, none, []⟩) 2 ∧
    decode [0xE51E, 0xE860, 0xDA28] = .instr (.tlbw ⟨4, 5, 0, some ⟨false, false, 6, false, 0⟩, none, []⟩) 3 ∧
    decode [0xE51F, 0xE860, 0xD828] = .instr (.tlbinv ⟨0, 5, 0, some ⟨false, false, 6, false, 0⟩, none, []⟩) 3 ∧
    decode [0xE50C, 0xE860, 0xF801, 0xDC80] = .instr (.wait ⟨9, 0, 0, some ⟨false, false, 6, false, 0⟩, none, [1]⟩) 4 ∧
    decode [0xE510, 0xD860] = .instr (.ttld ⟨0, 12, 0, none, none, []⟩) 2 ∧
    decode [0xE51B, 0xFF10, 0xD820] = .instr (.csrw ⟨0, 4, 0, none, none, [0x710]⟩) 3 := by decide +kernel

theorem test_decode_slices :
    decode [0xE501, 0xE8F0, 0xF004, 0xDF30] = .instr (.cut ⟨14, 6, 0, some ⟨false, false, 15, false, 0⟩, some ⟨0, 0, 2, false⟩, []⟩) 4 ∧
    decode [0xE514, 0xD800] = .instr (.split ⟨0, 0, 0, none, none, []⟩) 2 ∧
    decode [0xE515, 0xD800] = .instr (.fuse ⟨0, 0, 0, none, none, []⟩) 2 ∧
    decode [0xE600, 0xE860, 0xDA2D] = .instr (.restrCollect ⟨4, 5, 5, some ⟨false, false, 6, false, 0⟩, none, []⟩) 3 ∧
    decode [0xE606, 0xF806, 0xD800] = .instr (.wsel ⟨0, 0, 0, none, none, [6]⟩) 3 := by decide +kernel

/-! One step of the spec's worked examples. -/

/-- The registers of the issuing context after an instruction. -/
noncomputable def regsAfter (i : Instr) (s : State) : RegState :=
  match exec i s with
  | .next t => (t.ctx s.holder).r
  | _ => RegState.zero

def l0f (l : List (Nat × Dword)) : State := oneCore ⟨.l0, 0⟩ (l.foldl (fun r x => r.wrF x.1 x.2) { RegState.zero with pc := 0x1000 })
def l0v (l : List (Nat × Vec)) : State := oneCore ⟨.l0, 0⟩ (l.foldl (fun r x => r.wrV x.1 x.2) { RegState.zero with pc := 0x1000 })

/-- R100: with .sat the sum is clipped and SAT (bit 5) is raised; without it the low 32 bits are sign-extended. -/
theorem test_add_sat :
    let s := oneCore ⟨.l0, 0⟩ (regs [(2, 0x7FFFFFF0), (3, 0x20)])
    let r := regsAfter (.add { f3 1 2 3 with mod := some ⟨11, 0, 0, true⟩ }) s
    r.rdS 1 = 0x7FFFFFFF ∧ r.pend = 0x20 ∧ r.pc = 0x1006 ∧
    (regsAfter (.add { f3 1 2 3 with mod := some ⟨11, 0, 0, false⟩ }) s).rdS 1 = 0xFFFFFFFF80000010 ∧
    (regsAfter (.add { f3 1 2 3 with mod := some ⟨11, 0, 0, false⟩ }) s).pend = 0 := by decide +kernel

/-- R102: movi of 0x7FFFFFFF and movhi of 8 make 0x87FFFFFFF; bfx of byte 2 is signed. -/
theorem test_constants :
    (regsAfter (.movi (fi 4 0 [0x1FF, 0x7FF, 0x7FF])) l0).rdS 4 = 0x7FFFFFFF ∧
    (regsAfter (.movhi (fi 4 0 [8])) (oneCore ⟨.l0, 0⟩ (regs [(4, 0x7FFFFFFF)]))).rdS 4 = 0x87FFFFFFF ∧
    (regsAfter (.bfx (fi 1 2 [464])) (oneCore ⟨.l0, 0⟩ (regs [(2, 0x12F03456)]))).rdS 1 = 0xFFFFFFFFFFFFFFF0 := by decide +kernel

/-- R112: 1.0 + 2^-24 is a tie to nearest, and goes up under RND 3; both raise NX (bit 0). -/
theorem test_fadd_tie :
    let s := l0f [(2, 0x3F800000), (3, 0x33800000)]
    let n := regsAfter (.fadd { f3 1 2 3 with mod := some ⟨2, 0, 0, false⟩ }) s
    let u := regsAfter (.fadd { f3 1 2 3 with mod := some ⟨2, 3, 0, false⟩ }) s
    n.rdF 1 = 0x3F800000 ∧ u.rdF 1 = 0x3F800001 ∧ n.pend = 1 ∧ u.pend = 1 := by decide +kernel

/-- R155: 112 + 32 saturates to 127 in an 8-bit element, and wraps to 0x90 without .sat. -/
theorem test_vadd_sat :
    let s := l0v [(2, 0x70), (3, 0x20)]
    let r := regsAfter (.vadd { f3 1 2 3 with mod := some ⟨13, 0, 0, true⟩ }) s
    let w := regsAfter (.vadd { f3 1 2 3 with mod := some ⟨13, 0, 0, false⟩ }) s
    r.rdV 1 = 0x7F ∧ r.pend = 0x20 ∧ w.rdV 1 = 0x90 ∧ w.pend = 0 := by decide +kernel

/-- R164: the eight lanes of the spec's example of vcvtn.f32.e4m3. -/
theorem test_vcvtn_e4m3 :
    let r := regsAfter (.vcvtn 22 ⟨5, 6, 2, none, none, []⟩)
      (l0v [(6, 0x3F8000004380000000000000_3A8000007FC00000C000000043FA000040533333)])
    r.rdV 5 = 0x387800007FC07E45 <<< 128 ∧ r.pend = 0x07 := by decide +kernel

/-- R109: a 48-byte frame with its map at 0x10400: s30 falls by 48, s31 and DESC 0x0060000000002080 are stored (the newest byte first). -/
theorem test_enter :
    let s := oneCore ⟨.l0, 0⟩ (regs [(2, 0x10400), (31, 0x1234), (30, tcm 0x40000)])
    let t := match exec (.enter (fi 0 2 [3])) s with | .next t => t | _ => s
    (t.ctx s.holder).r.rdS 30 = tcm (0x40000 - 48) ∧ (t.ctx s.holder).r.pc = 0x1004 ∧
    (t.ctx s.holder).chunk.stores.map (·.2) = [0x00, 0x60, 0, 0, 0, 0, 0x20, 0x80, 0, 0, 0, 0, 0, 0, 0x12, 0x34] := by decide +kernel

/-- R105: a call of -8 halfwords writes the next address to s31; brz takes its branch on zero alone. -/
theorem test_branches :
    let s := oneCore ⟨.l0, 0⟩ (regs [(2, 1)])
    (regsAfter (.call (fi 0 0 [0x7F8])) s).rdS 31 = 0x1004 ∧ (regsAfter (.call (fi 0 0 [0x7F8])) s).pc = 0xFF0 ∧
    (regsAfter (.brz (fi 0 3 [8])) s).pc = 0x1010 ∧ (regsAfter (.brz (fi 0 2 [8])) s).pc = 0x1004 := by decide +kernel

/-- R119, R120: a trap of 7 enters the handler at TRAP.VEC; rte comes back to EPC; a brk records code 4 and stops the context. -/
theorem test_traps :
    let s := oneCore ⟨.l0, 0⟩ ({ regs [] with tvec := 0x2000 })
    let t := regsAfter (.trap (fi 0 0 [7])) s
    let b := regsAfter (.brk (fi 0 0 [9])) s
    let e := regsAfter (.rte (f2 0 0)) (oneCore ⟨.l0, 0⟩ ({ regs [] with active := true, epc := 0x3000 }))
    t.pc = 0x2000 ∧ t.epc = 0x1006 ∧ t.active = true ∧ t.code = 3 ∧ t.info = 7 ∧ t.faddr = 0x1000 ∧
    b.code = 4 ∧ b.info = 9 ∧ b.epc = 0x1000 ∧ b.active = false ∧ e.pc = 0x3000 ∧ e.active = false := by decide +kernel

/-- R3: a 64-bit store holds its bytes with the low byte at the lowest address. -/
theorem test_store_order :
    let s := oneCore ⟨.l0, 0⟩ (regs [(1, 0x0807060504030201), (2, tcm 64)])
    let t := match exec (.st64 (f2 1 2)) s with | .next t => t | _ => s
    (t.ctx s.holder).chunk.stores = ((List.range 8).map fun i => (tcmLoc ⟨.l0, 0⟩ (64 + i), BitVec.ofNat 8 (i + 1))).reverse := by decide +kernel

/-- R17: L0 core 1,234 is core 82 of die 2, and position 2 of cluster 5 there. -/
theorem test_core_place : dieOf ⟨.l0, 1234⟩ = 2 ∧ localOf ⟨.l0, 1234⟩ = 82 ∧ clusterOf ⟨.l0, 1234⟩ = some (2 * 36 + 5) := by decide

/-- R350: the spec's table: with 3 permits cluster 5 is granted 2; then with 1, cluster 6 is granted 1; at the next boundary with none, cluster
5 falls to step 1, and after its fall is granted nothing. -/
theorem test_boost_walk : boostStep 0 false false 2 3 = (2, false, 2) ∧ boostStep 0 false false 2 1 = (1, false, 1) ∧
    boostStep 2 false false 2 0 = (1, true, 0) ∧ boostStep 1 false false 2 0 = (0, false, 0) ∧ boostStep 1 true false 2 1 = (0, false, 0) := by
  decide

end Sys2Proof.Tests
end

section
/-! PROOFS. What an instruction that issues satisfies by its form (R49), and what the instruction of a register row leaves. -/

namespace Sys2Proof.Machine

/-! What the form of an instruction that issues says of its fields (R49). -/

section
variable {fm : Form} {ok : CoreId → Fields → Bool} {f : Fields} {s : State}

theorem Issues.fieldsOk (h : Issues fm ok f s) : fm.fieldsOk f = true := by
  have hlegal := h.free.legal
  simp only [Form.legal, Bool.and_eq_true] at hlegal
  obtain ⟨⟨-, hfields⟩, -⟩ := hlegal
  exact hfields

theorem Issues.fmt_mem (h : Issues fm ok f s) : f.fmt ∈ fm.fmts := by
  have hfields := h.fieldsOk
  simp only [Form.fieldsOk, Bool.and_eq_true, and_assoc] at hfields
  obtain ⟨-, -, -, -, -, -, -, -, hfmt, -⟩ := hfields
  exact List.contains_iff_mem.mp hfmt

theorem Issues.dst_ok (h : Issues fm ok f s) : fm.dst.ok f.dstN = true := by
  have hfields := h.fieldsOk
  simp only [Form.fieldsOk, Bool.and_eq_true, and_assoc] at hfields
  obtain ⟨hdst, -⟩ := hfields
  exact hdst

theorem Issues.tsrc_ok (h : Issues fm ok f s) (hs : fm.short = false) : fm.tsrc.ok f.tsrcN = true := by
  have hfields := h.fieldsOk
  simp only [Form.fieldsOk, Bool.and_eq_true, and_assoc, hs] at hfields
  obtain ⟨-, -, htsrc, -⟩ := hfields
  simpa using htsrc

end

/-! What the instruction of a register row leaves. -/

theorem RegRow.completes {i : Instr} {x : RegRow} {s : State} (hexec : exec i = issueIf x.fm x.f x.ok (regBody x.regs))
    (hends : x.fm.ends.isHolding = false) (h : Issues x.fm x.ok x.f s) :
    Completes i s (RegStep x.fm x.f s (x.regs (envOf x.fm x.f s)) (s.after x.fm x.f) false) := by
  rw [Completes, hexec]
  exact issueIf_regs_completes x.regs h hends

end Sys2Proof.Machine
end

section
/-! PROOFS. Facts about 64-bit words: what the model's integer operations compute, with exact integers (R99, R100, R102). -/

namespace Sys2Proof.Machine

/-! Readings of a number's low bits. -/

theorem sintOf_succ (w n : Nat) : sintOf (w + 1) n = (n : Int).bmod (2 ^ (w + 1)) := by
  have hhalf : ((2 : Int) ^ (w + 1) + 1) / 2 = 2 ^ w := by rw [pow_succ]; omega
  unfold sintOf
  rw [Int.bmod_def]
  push_cast
  rw [hhalf]
  split <;> rename_i h
  · rw [if_pos (by exact_mod_cast h)]
  · rw [if_neg (by exact_mod_cast h)]

theorem sintOf_mod (w n : Nat) : sintOf w (n % 2 ^ w) = sintOf w n := by simp [sintOf]

theorem sintOf_64_toNat (a : Dword) : sintOf 64 a.toNat = a.toInt := by
  rw [sintOf_succ, BitVec.toInt_eq_toNat_bmod]

theorem sintOf_32_toNat (a : Dword) : sintOf 32 a.toNat = (a.setWidth 32).toInt := by
  rw [sintOf_succ, BitVec.toInt_setWidth]

theorem intRead_64 (a : Dword) : intRead 0 a.toNat = a.toInt := sintOf_64_toNat a
theorem intRead_i32 (a : Dword) : intRead 11 a.toNat = (a.setWidth 32).toInt := sintOf_32_toNat a
theorem intRead_n32 (a : Dword) : intRead 12 a.toNat = ((a.setWidth 32).toNat : Int) := by
  simp [intRead, BitVec.toNat_setWidth]

theorem clampInt_eq (sat : Bool) (lo hi x : Int) :
    clampInt sat lo hi x = (if sat ∧ x < lo then lo else if sat ∧ hi < x then hi else x,
      if sat && (decide (x < lo) || decide (hi < x)) then 32 else 0) := by
  unfold clampInt
  cases sat with
  | false => simp
  | true =>
    by_cases hlo : x < lo
    · simp [hlo, flagSAT]
    · by_cases hhi : hi < x <;> simp [hlo, hhi, flagSAT]

/-- The integer formats of a scalar instruction: 64-bit signed, .i32 and .n32 (R100). -/
theorem scalarFormat_cases {t : Nat} (h : t ∈ [0, 11, 12]) : t = 0 ∨ t = 11 ∨ t = 12 := by simpa using h

/-- The model's integer arithmetic is that of R100, for each of the three formats a scalar instruction takes. -/
theorem arith100_eq_rule100 (op : Int → Int → Int) {f : Fields} (a b : Dword) (h : f.fmt ∈ [0, 11, 12]) :
    arith100 op f.fmt f.sat a b = ((rule100 op f a b).1, if (rule100 op f a b).2 then 32 else 0) := by
  unfold arith100 rule100
  rw [clampInt_eq]
  rcases scalarFormat_cases h with h | h | h <;> rw [h]
  · simp [intRead_64, intLo, intHi, intPlace]
  · simp [intRead_i32, intLo, intHi, intPlace]
  · simp [intRead_n32, intLo, intHi, intPlace]

/-! Shifts. -/

theorem shiftLeft_eq_ofNat (a : Dword) (n : Nat) : a <<< n = BitVec.ofNat 64 (a.toNat * 2 ^ n) := by
  apply BitVec.eq_of_toNat_eq
  rw [BitVec.toNat_shiftLeft, Nat.shiftLeft_eq, BitVec.toNat_ofNat]

theorem ushiftRight_eq_ofNat (a : Dword) (n : Nat) : a >>> n = BitVec.ofNat 64 (a.toNat / 2 ^ n) := by
  rw [← Nat.shiftRight_eq_div_pow, ← BitVec.toNat_ushiftRight, BitVec.ofNat_toNat, BitVec.setWidth_eq]

theorem sshiftRight_eq_ofInt (a : Dword) (n : Nat) : a.sshiftRight n = BitVec.ofInt 64 (a.toInt / 2 ^ n) := by
  rw [BitVec.sshiftRight, Int.shiftRight_eq_div_pow, Nat.cast_pow, Nat.cast_ofNat]

theorem add_shiftLeft_eq_ofNat (a b : Dword) (n : Nat) : a + b <<< n = BitVec.ofNat 64 (a.toNat + b.toNat * 2 ^ n) := by
  rw [shiftLeft_eq_ofNat, BitVec.ofNat_add, BitVec.ofNat_toNat, BitVec.setWidth_eq]

/-! Minimum and maximum. -/

theorem min_signed (a b : Dword) : (if a.slt b then a else b) = BitVec.ofInt 64 (min a.toInt b.toInt) := by
  simp only [BitVec.slt, decide_eq_true_eq]
  split <;> rename_i h
  · rw [min_eq_left h.le, BitVec.ofInt_toInt]
  · rw [min_eq_right (not_lt.mp h), BitVec.ofInt_toInt]

theorem max_signed (a b : Dword) : (if a.slt b then b else a) = BitVec.ofInt 64 (max a.toInt b.toInt) := by
  simp only [BitVec.slt, decide_eq_true_eq]
  split <;> rename_i h
  · rw [max_eq_right h.le, BitVec.ofInt_toInt]
  · rw [max_eq_left (not_lt.mp h), BitVec.ofInt_toInt]

theorem min_unsigned (a b : Dword) : (if a < b then a else b) = BitVec.ofNat 64 (min a.toNat b.toNat) := by
  simp only [BitVec.lt_def]
  split <;> rename_i h
  · rw [min_eq_left h.le, BitVec.ofNat_toNat, BitVec.setWidth_eq]
  · rw [min_eq_right (not_lt.mp h), BitVec.ofNat_toNat, BitVec.setWidth_eq]

theorem max_unsigned (a b : Dword) : (if a < b then b else a) = BitVec.ofNat 64 (max a.toNat b.toNat) := by
  simp only [BitVec.lt_def]
  split <;> rename_i h
  · rw [max_eq_right h.le, BitVec.ofNat_toNat, BitVec.setWidth_eq]
  · rw [max_eq_left (not_lt.mp h), BitVec.ofNat_toNat, BitVec.setWidth_eq]

/-! Division: the overflow that the model singles out gives what the exact quotient, reduced to 64 bits, gives (R99). -/

theorem divS_eq (a b : Dword) : divS a b = if b = 0 then -1 else BitVec.ofInt 64 (a.toInt.tdiv b.toInt) := by
  unfold divS
  by_cases hb : b = 0
  · rw [if_pos hb, if_pos hb]; rfl
  · rw [if_neg hb, if_neg hb]
    split <;> rename_i h
    · obtain ⟨rfl, rfl⟩ := h; decide
    · rfl

theorem remS_eq (a b : Dword) : remS a b = if b = 0 then a else BitVec.ofInt 64 (a.toInt - b.toInt * a.toInt.tdiv b.toInt) := by
  unfold remS
  by_cases hb : b = 0
  · rw [if_pos hb, if_pos hb]
  · rw [if_neg hb, if_neg hb]
    split <;> rename_i h
    · obtain ⟨rfl, rfl⟩ := h; decide
    · rfl

/-! Constants and bit fields. -/

theorem movhi_eq (n d : Nat) :
    BitVec.ofNat 64 (n % 2 ^ 32 * 2 ^ 32 + d % 2 ^ 32) = BitVec.ofNat 64 (n * 2 ^ 32 + d % 2 ^ 32) := by
  apply BitVec.eq_of_toNat_eq
  simp only [BitVec.toNat_ofNat]
  omega

theorem sintOf_bits_succ (n pos w : Nat) : sintOf (w + 1) (bits n pos (w + 1)) = (n / 2 ^ pos : Int).bmod (2 ^ (w + 1)) := by
  rw [bits, sintOf_mod, sintOf_succ]; push_cast; rfl

theorem bitOf_toNat {w : Nat} (a : BitVec w) (i : Nat) : bitOf a.toNat i = a.getLsbD i := by
  rw [← BitVec.testBit_toNat, Nat.testBit_eq_decide_div_mod_eq]; rfl

/-- The bits of a number whose `len` bits from `pos` on are those of another one. -/
theorem testBit_insertedField (d a pos len i : Nat) :
    (d % 2 ^ pos + a % 2 ^ len * 2 ^ pos + d / 2 ^ (pos + len) * 2 ^ (pos + len)).testBit i =
      if i < pos then d.testBit i else if i < pos + len then a.testBit (i - pos) else d.testBit i := by
  have hlow : d % 2 ^ pos < 2 ^ pos := Nat.mod_lt _ (by positivity)
  have hmid : 2 ^ pos * (a % 2 ^ len) + d % 2 ^ pos < 2 ^ (pos + len) := by
    have := Nat.mul_le_mul_left (2 ^ pos) (Nat.mod_lt a (show 2 ^ len > 0 by positivity))
    rw [Nat.succ_eq_add_one, Nat.mul_add_one] at this
    rw [pow_add]
    omega
  have hsum : d % 2 ^ pos + a % 2 ^ len * 2 ^ pos + d / 2 ^ (pos + len) * 2 ^ (pos + len) =
      2 ^ (pos + len) * (d / 2 ^ (pos + len)) + (2 ^ pos * (a % 2 ^ len) + d % 2 ^ pos) := by ring
  rw [hsum, Nat.testBit_two_pow_mul_add _ hmid, Nat.testBit_two_pow_mul_add _ hlow, Nat.testBit_mod_two_pow,
    Nat.testBit_mod_two_pow, Nat.testBit_div_two_pow]
  by_cases hpos : i < pos
  · simp [hpos, show i < pos + len by omega]
  · by_cases hend : i < pos + len
    · simp [hpos, hend, show i - pos < len by omega]
    · simp [hpos, hend, show i - (pos + len) + (pos + len) = i by omega]

theorem insertField_eq (d a : Dword) (pos len : Nat) :
    insertField d a pos len = BitVec.ofNat 64
      (d.toNat % 2 ^ pos + a.toNat % 2 ^ len * 2 ^ pos + d.toNat / 2 ^ (pos + len) * 2 ^ (pos + len)) := by
  apply BitVec.eq_of_getLsbD_eq
  intro i hi
  simp only [insertField, BitVec.getLsbD_or, BitVec.getLsbD_and, BitVec.getLsbD_not, BitVec.getLsbD_ofNat,
    testBit_insertedField, Nat.testBit_mul_two_pow, Nat.testBit_two_pow_sub_one, BitVec.testBit_toNat, hi]
  by_cases hpos : i < pos
  · simp [hpos, show ¬ pos ≤ i by omega]
  · by_cases hend : i < pos + len
    · simp [hpos, hend, show pos ≤ i by omega, show i - pos < len by omega]
    · simp [hpos, hend, show ¬ i - pos < len by omega]

/-! Counting bits. -/

theorem length_takeWhile_range {p : Nat → Bool} {n k : Nat} (hk : k ≤ n) (hall : ∀ i < k, p i = true) (hstop : k < n → p k = false) :
    ((List.range n).takeWhile p).length = k := by
  obtain ⟨m, rfl⟩ := Nat.exists_eq_add_of_le hk
  rw [List.range_add, List.takeWhile_append_of_pos (by simpa using hall)]
  cases m with
  | zero => simp
  | succ m => simp [List.range_succ_eq_map, hstop (by omega)]

theorem clzOf_eq (a : Dword) : clzOf a = ((List.range 64).takeWhile fun i => !a.getLsbD (63 - i)).length := by
  symm
  unfold clzOf
  by_cases ha : a = 0
  · rw [if_pos ha]
    exact length_takeWhile_range le_rfl (by simp [ha]) (by simp)
  · rw [if_neg ha]
    have hne : a.toNat ≠ 0 := by simpa [BitVec.toNat_eq] using ha
    have htop : a.toNat.log2 < 64 := (Nat.log2_lt hne).mpr a.isLt
    refine length_takeWhile_range (by omega) (fun i hi => ?_) fun _ => ?_
    · have : a.toNat < 2 ^ (63 - i) := (Nat.log2_lt hne).mp (by omega)
      simp [← BitVec.testBit_toNat, Nat.testBit_lt_two_pow this]
    · rw [show 63 - (63 - a.toNat.log2) = a.toNat.log2 by omega]
      simp [← BitVec.testBit_toNat, Nat.testBit_log2 hne]

theorem ctzFrom_eq (n m k : Nat) : ctzFrom n m k = k + ((List.range' k m).takeWhile fun i => !bitOf n i).length := by
  induction m generalizing k with
  | zero => rfl
  | succ m ih =>
    rw [ctzFrom, List.range'_succ, List.takeWhile_cons]
    by_cases h : bitOf n k = true
    · simp [h]
    · simp [h, ih]; omega

theorem ctzOf_eq (a : Dword) : ctzOf a = ((List.range 64).takeWhile fun i => !a.getLsbD i).length := by
  simp [ctzOf, ctzFrom_eq, List.range_eq_range', bitOf_toNat]

theorem popOf_eq (a : Dword) : popOf a = ((List.range 64).filter fun i => a.getLsbD i).length := by
  simp only [popOf, bitOf_toNat, List.countP_eq_length_filter]

end Sys2Proof.Machine
end

section
/-! PROOFS. Integer instructions give the results of their rules (R99, R100, R102, R104). -/

namespace Sys2Proof.Machine

/-- The instruction of a row issues with the row's form, limits and registers, and does not end its chunk. -/
theorem integerRow_exec {i : Instr} {x : RegRow} (h : integerRow i = some x) :
    exec i = issueIf x.fm x.f x.ok (regBody x.regs) ∧ x.fm.ends.isHolding = false := by
  cases i with cases h
  | _ => exact ⟨rfl, rfl⟩

theorem integerRow_completes {i : Instr} {x : RegRow} {s : State} (hx : integerRow i = some x) (h : Issues x.fm x.ok x.f s) :
    Completes i s (RegStep x.fm x.f s (x.regs (envOf x.fm x.f s)) (s.after x.fm x.f) false) := by
  obtain ⟨hexec, hends⟩ := integerRow_exec hx
  exact x.completes hexec hends h

theorem withResult_unclipped (e : Env) {x y : Dword} (h : x = y) : e.putS e.r x = withResult e (y, false) := by rw [h]; rfl

theorem raise_flag (r : RegState) (b : Bool) :
    r.raise (if b then 32 else 0) = if b then { r with pend := r.pend ||| 32 } else r := by
  cases b <;> simp [RegState.raise]

theorem putS_arith100 (op : Int → Int → Int) (e : Env) (a b : Dword) (h : e.f.fmt ∈ [0, 11, 12]) :
    (e.putS e.r (arith100 op e.f.fmt e.f.sat a b).1).raise (arith100 op e.f.fmt e.f.sat a b).2 =
      withResult e (rule100 op e.f a b) := by
  rw [arith100_eq_rule100 op a b h, raise_flag]; rfl

theorem integerRow_regs_eq_withResult {i : Instr} {x : RegRow} {v : Env → Dword × Bool} {s : State} (hx : integerRow i = some x)
    (hv : integerResult i = some v) (h : Issues x.fm x.ok x.f s) :
    x.regs (envOf x.fm x.f s) = withResult (envOf x.fm x.f s) (v (envOf x.fm x.f s)) := by
  cases i with cases hx <;> cases hv
  | add f => exact putS_arith100 _ (envOf Forms.aluFmt f s) _ _ h.fmt_mem
  | sub f => exact putS_arith100 _ (envOf Forms.aluFmt f s) _ _ h.fmt_mem
  | mul f => exact putS_arith100 _ (envOf Forms.aluFmt f s) _ _ h.fmt_mem
  | addi f => exact putS_arith100 _ (envOf Forms.aluImmFmt f s) _ _ h.fmt_mem
  | muli f => exact putS_arith100 _ (envOf Forms.aluImmFmt f s) _ _ h.fmt_mem
  | shl => exact withResult_unclipped _ (shiftLeft_eq_ofNat _ _)
  | shli => exact withResult_unclipped _ (shiftLeft_eq_ofNat _ _)
  | shr => exact withResult_unclipped _ (ushiftRight_eq_ofNat _ _)
  | shri => exact withResult_unclipped _ (ushiftRight_eq_ofNat _ _)
  | sra => exact withResult_unclipped _ (sshiftRight_eq_ofInt _ _)
  | srai => exact withResult_unclipped _ (sshiftRight_eq_ofInt _ _)
  | min => exact withResult_unclipped _ (min_signed _ _)
  | max => exact withResult_unclipped _ (max_signed _ _)
  | minn => exact withResult_unclipped _ (min_unsigned _ _)
  | maxn => exact withResult_unclipped _ (max_unsigned _ _)
  | divs => exact withResult_unclipped _ (divS_eq _ _)
  | rems => exact withResult_unclipped _ (remS_eq _ _)
  | movhi => exact withResult_unclipped _ (movhi_eq _ _)
  | lea => exact withResult_unclipped _ (add_shiftLeft_eq_ofNat _ _ _)
  | sext => exact withResult_unclipped _ (congrArg _ (sintOf_succ _ _))
  | bfx => exact withResult_unclipped _ (congrArg _ (sintOf_bits_succ _ _ _))
  | bfi => exact withResult_unclipped _ (insertField_eq _ _ _ _)
  | clz => exact withResult_unclipped _ (congrArg _ (clzOf_eq _))
  | ctz => exact withResult_unclipped _ (congrArg _ (ctzOf_eq _))
  | popc => exact withResult_unclipped _ (congrArg _ (popOf_eq _))
  -- the others compute what the rule says as the rule says it
  | _ => rfl

/-- Settles O6: each row's registers are the rule's result, and a row's instruction completes with its registers. -/
theorem integerInstructionsGiveRuleResults : Obligations.IntegerInstructionsGiveRuleResults := by
  intro i x v s hx hv h
  rw [← integerRow_regs_eq_withResult hx hv h]
  exact integerRow_completes hx h

end Sys2Proof.Machine
end

section
/-! PROOFS. Compares and predicate instructions write the bits of their rules (R61, R103). -/

namespace Sys2Proof.Machine

theorem pwidth_le (k : CoreKind) : k.pwidth ≤ 64 := by cases k <;> decide

@[simp] theorem getLsbD_pOnes (k : CoreKind) (i : Nat) : (pOnes k).getLsbD i = decide (i < k.pwidth) := by
  have := pwidth_le k
  rw [pOnes, BitVec.getLsbD_ofNat, Nat.testBit_two_pow_sub_one, ← Bool.decide_and]
  exact decide_eq_decide.mpr (by omega)

@[simp] theorem getLsbD_predOf (k : CoreKind) (b : Bool) (i : Nat) : (predOf k b).getLsbD i = (decide (i < k.pwidth) && b) := by
  cases b <;> simp [predOf]

theorem getLsbD_not_of_lt_pwidth {k : CoreKind} {i : Nat} {a : Dword} (hi : i < k.pwidth) : (~~~a).getLsbD i = !a.getLsbD i := by
  rw [BitVec.getLsbD_not, decide_eq_true (hi.trans_le (pwidth_le k)), Bool.true_and]

/-- Writing a predicate changes that predicate alone, and leaves in it the bits written that its width holds (R61). -/
theorem putP_writes {e : Env} {bit : Nat → Bool} {x : Dword} (hd : e.f.dstN < 8)
    (hx : ∀ i, i < e.kind.pwidth → x.getLsbD i = bit i) : WritesPredicate e bit (e.putP e.r x) where
  rest := by unfold Env.putP RegState.wrP; split <;> rfl
  others n hn := by
    rw [Env.putP, RegState.rdP_wrP _ _ _ _ _ hd, if_neg hn]
    split <;> rename_i h
    · rw [h, RegState.rdP_zero]
    · rfl
  zero h := by rw [Env.putP, RegState.wrP, if_pos h]
  written h i := by
    rw [Env.putP, RegState.rdP_wrP _ _ _ _ _ hd, if_neg h, if_pos rfl, BitVec.getLsbD_and, getLsbD_pOnes, Bool.and_comm]
    by_cases hi : i < e.kind.pwidth
    · rw [hx i hi]
    · simp [hi]

/-- A compare writes its condition to every bit of its predicate (R103). -/
theorem putP_predOf_writes {e : Env} {b c : Bool} (hd : e.f.dstN < 8) (h : b = c) :
    WritesPredicate e (fun _ => c) (e.putP e.r (predOf e.kind b)) :=
  putP_writes hd fun i hi => by rw [getLsbD_predOf, h, decide_eq_true hi, Bool.true_and]

theorem beq_eq_decide_toNat (a b : Dword) : (a == b) = decide (a.toNat = b.toNat) := by
  rw [beq_eq_decide]; exact decide_eq_decide.mpr BitVec.toNat_eq

theorem bne_eq_decide_toNat (a b : Dword) : (a != b) = decide (a.toNat ≠ b.toNat) := by
  rw [bne, beq_eq_decide_toNat, decide_not]

theorem bne_zero_eq_decide (a : Dword) : (a != 0) = decide (a ≠ 0) := by rw [bne, beq_eq_decide, decide_not]

theorem integerRow_writesPredicate {i : Instr} {x : RegRow} {bit : Env → Nat → Bool} {s : State} (hx : integerRow i = some x)
    (hbit : predicateBit i = some bit) (h : Issues x.fm x.ok x.f s) :
    WritesPredicate (envOf x.fm x.f s) (bit (envOf x.fm x.f s)) (x.regs (envOf x.fm x.f s)) := by
  have hd := h.dst_ok
  cases i with cases hx <;> cases hbit <;> replace hd := of_decide_eq_true hd
  | cmpeq => exact putP_predOf_writes hd (beq_eq_decide_toNat _ _)
  | cmpne => exact putP_predOf_writes hd (bne_eq_decide_toNat _ _)
  | tst => exact putP_predOf_writes hd (bne_zero_eq_decide _)
  | cmplt => exact putP_predOf_writes hd rfl
  | cmple => exact putP_predOf_writes hd rfl
  | cmpltn => exact putP_predOf_writes hd rfl
  | cmplen => exact putP_predOf_writes hd rfl
  | pand => exact putP_writes hd fun i _ => BitVec.getLsbD_and
  | por => exact putP_writes hd fun i _ => BitVec.getLsbD_or
  | pxor => exact putP_writes hd fun i _ => BitVec.getLsbD_xor
  | pandn => exact putP_writes hd fun i hi => BitVec.getLsbD_and.trans (congrArg _ (getLsbD_not_of_lt_pwidth hi))
  | pnot => exact putP_writes hd fun i hi => getLsbD_not_of_lt_pwidth hi
  | pmov => exact putP_writes hd fun i _ => rfl
  | pset => exact putP_writes hd fun i hi => by rw [getLsbD_pOnes, decide_eq_true hi]
  | pclr => exact putP_writes hd fun i _ => BitVec.getLsbD_zero

/-- Settles O7: each row's registers are those with the rule's bits written, and a row's instruction completes with its registers. -/
theorem predicateInstructionsGiveRuleBits : Obligations.PredicateInstructionsGiveRuleBits := by
  intro i x bit s hx hbit h
  exact ⟨_, integerRow_writesPredicate hx hbit h, integerRow_completes hx h⟩

end Sys2Proof.Machine
end

section
/-! PROOFS. Scalar float instructions give the results of their rules (R111 to R115). -/

namespace Sys2Proof

/-! The order of values, and the width of a code. -/

/-- Infinities compare by their signs, finite values at their common exponent. -/
theorem Val.lt_asymm {x y : Val} (h : Val.lt x y = true) : Val.lt y x = false := by
  cases x <;> cases y <;> simp_all [Val.lt, min_comm] <;> omega

theorem Val.eq_comm (x y : Val) : Val.eq x y = Val.eq y x := by
  unfold Val.eq
  rw [Bool.and_comm (!x.isNan), Bool.and_right_comm]

theorem Val.lt_or_lt_of_not_eq {x y : Val} (hx : x.isNan = false) (hy : y.isNan = false) (h : Val.eq x y = false) :
    Val.lt x y = true ∨ Val.lt y x = true := by
  by_contra hno
  simp_all [Val.eq]

theorem Val.not_lt_of_eq {x y : Val} (h : Val.eq x y = true) : Val.lt x y = false := by
  simp only [Val.eq, Bool.and_eq_true, Bool.not_eq_true'] at h
  obtain ⟨⟨-, hlt⟩, -⟩ := h
  exact hlt

theorem FloatFmt.width_eq (F : FloatFmt) : F.width = F.e + F.m + 1 := by unfold FloatFmt.width; omega

end Sys2Proof

namespace Sys2Proof.Machine

/-! The rounding mode (R101, R111). -/

theorem rdefMode_eq_ruleMode {f : Fields} (arith : Byte) (h : f.rnd = 0) : rdefMode arith = ruleMode f arith := by
  have hbits : bits arith.toNat 6 2 = arith.toNat / 64 := by have := arith.isLt; unfold bits; omega
  have hlt : arith.toNat / 64 < 4 := by have := arith.isLt; omega
  unfold rdefMode ruleMode
  rw [hbits, h]
  generalize arith.toNat / 64 = n at hlt
  interval_cases n <;> rfl

theorem modeOf_eq_ruleMode {f : Fields} (dflt : RMode) (arith : Byte) (h : f.rnd ≠ 0) : modeOf f.rnd dflt 0 = ruleMode f arith := by
  unfold ruleMode
  generalize f.rnd = n at h
  match n with
  | 0 => exact absurd rfl h
  | 1 | 2 | 3 | 4 => rfl
  | n + 5 => simp [modeOf]

theorem mode_eq_ruleMode (e : Env) : e.mode = ruleMode e.f e.r.arith := by
  by_cases h : e.f.rnd = 0
  · rw [← rdefMode_eq_ruleMode _ h, Env.mode, h]; rfl
  · exact modeOf_eq_ruleMode _ _ h

theorem modeOf_toZero_eq (f : Fields) (arith : Byte) : modeOf f.rnd .toZero 0 = if f.rnd = 0 then .toZero else ruleMode f arith := by
  split <;> rename_i h
  · rw [h]; rfl
  · exact modeOf_eq_ruleMode _ _ h

/-! The lesser and the greater value, and the flag of a signalling NaN (R111, R112). -/

theorem lesser_eq (x y : Val) : lesser x y = if Val.eq x y then x.sgn && !y.sgn else Val.lt x y := by
  unfold lesser
  split <;> rename_i h
  · rw [Val.not_lt_of_eq h, h, Bool.false_or, Bool.true_and]
  · simp [h]

/-- Of two operands that are not NaN the model and R112 pick the same. -/
theorem pick_eq {x y : Val} (hx : x.isNan = false) (hy : y.isNan = false) (max : Bool) (a b : Nat) :
    (if (if Val.eq x y then x.sgn && !y.sgn else Val.lt x y) != max then a else if Val.eq x y && x.sgn == y.sgn then a else b) =
      if (if max then lesser x y else lesser y x) then b else a := by
  rw [lesser_eq, lesser_eq, Val.eq_comm y x]
  cases h : Val.eq x y
  · rcases Val.lt_or_lt_of_not_eq hx hy h with hlt | hlt <;> cases max <;> simp [hlt, Val.lt_asymm hlt]
  · cases max <;> cases x.sgn <;> cases y.sgn <;> rfl

theorem nvOf_eq_nanFlag (l : List Val) : nvOf l = nanFlag l := by
  have hiff : l.any Val.isSnan = true ↔ ∃ x ∈ l, x = .nan true := by
    rw [List.any_eq_true]
    refine exists_congr fun x => and_congr_right fun _ => ?_
    cases x <;> simp [Val.isSnan]
  exact if_congr hiff rfl rfl

theorem nanFlag_of_not_nan {x y : Val} (hx : x.isNan = false) (hy : y.isNan = false) : nanFlag [x, y] = 0 := by
  rw [← nvOf_eq_nanFlag]
  cases x <;> cases y <;> simp_all [Val.isNan, nvOf, Val.isSnan]

theorem pickOf_eq (F : FloatFmt) (max : Bool) (a b : Nat) :
    pickOf F max a b =
      ⟨if (F.decode a).isNan && (F.decode b).isNan then F.nanCode else if (F.decode a).isNan then b else if (F.decode b).isNan then a
        else if (if max then lesser (F.decode a) (F.decode b) else lesser (F.decode b) (F.decode a)) then b else a,
       nanFlag [F.decode a, F.decode b]⟩ := by
  unfold pickOf
  cases F.decode a <;> cases F.decode b <;> rfl

theorem minmax_eq_pickOf {F : FloatFmt} {a b : Nat} (max : Bool) (ha : a < 2 ^ F.width) (hb : b < 2 ^ F.width) :
    F.minmax max a b = pickOf F max a b := by
  rw [pickOf_eq]
  simp only [FloatFmt.minmax, Nat.mod_eq_of_lt ha, Nat.mod_eq_of_lt hb, nvOf_eq_nanFlag]
  cases hx : (F.decode a).isNan <;> cases hy : (F.decode b).isNan
  case false.false => simp only [pick_eq hx hy, nanFlag_of_not_nan hx hy]; rfl
  all_goals rfl

theorem roundInt_eq_integralOf {F : FloatFmt} {a : Nat} (mode : RMode) (ha : a < 2 ^ F.width) :
    F.roundInt mode a = integralOf F mode a := by
  unfold FloatFmt.roundInt integralOf
  rw [Nat.mod_eq_of_lt ha]
  cases F.decode a <;> rfl

/-! Compares (R113). -/

theorem fcompare_eq (F : FloatFmt) (f : Fields) (a b : Nat) : fcompare F false Val.eq a b = compareOf F (.fcmpeq f) a b := by
  simp only [fcompare, compareOf, ← nvOf_eq_nanFlag]
  cases hx : (F.decode a).isNan <;> cases hy : (F.decode b).isNan
  case false.false => simp [nvOf_eq_nanFlag, nanFlag_of_not_nan hx hy]
  all_goals simp [nvOf]

theorem fcompare_lt (F : FloatFmt) (f : Fields) (a b : Nat) : fcompare F true Val.lt a b = compareOf F (.fcmplt f) a b := by
  simp only [fcompare, compareOf, Bool.true_or, if_true]
  cases (F.decode a).isNan || (F.decode b).isNan <;> rfl

theorem fcompare_le (F : FloatFmt) (f : Fields) (a b : Nat) :
    fcompare F true (fun x y => !Val.lt y x) a b = compareOf F (.fcmple f) a b := by
  simp only [fcompare, compareOf, Bool.true_or, if_true]
  cases (F.decode a).isNan || (F.decode b).isNan <;> rfl

/-! Conversions between integers and floats (R114). -/

theorem convertInt_mem {lo hi : Int} (mode : RMode) (v : Val) (hlo : lo ≤ 0) (hhi : 0 ≤ hi) :
    lo ≤ (convertInt lo hi mode v).1 ∧ (convertInt lo hi mode v).1 ≤ hi := by
  cases v with
  | nan => exact ⟨hlo, hhi⟩
  | zero => exact ⟨hlo, hhi⟩
  | inf neg =>
    cases neg with
    | false => exact ⟨hlo.trans hhi, le_rfl⟩
    | true => exact ⟨le_rfl, hlo.trans hhi⟩
  | fin neg m x =>
    simp only [convertInt]
    generalize (if neg = true then -((roundTo mode neg m x 0).1 : Int) else (roundTo mode neg m x 0).1) = y
    split
    · exact ⟨le_rfl, hlo.trans hhi⟩
    · split
      · exact ⟨hlo.trans hhi, le_rfl⟩
      · exact ⟨not_lt.mp ‹_›, not_lt.mp ‹_›⟩

theorem intLo_eq {t : Nat} (ht : t ∈ [0, 11, 12]) : intLo t = if t = 0 then -2 ^ 63 else if t = 11 then -2 ^ 31 else 0 := by
  rcases scalarFormat_cases ht with rfl | rfl | rfl <;> rfl

theorem intHi_eq {t : Nat} (ht : t ∈ [0, 11, 12]) :
    intHi t = if t = 0 then 2 ^ 63 - 1 else if t = 11 then 2 ^ 31 - 1 else 2 ^ 32 - 1 := by
  rcases scalarFormat_cases ht with rfl | rfl | rfl <;> rfl

theorem intLo_nonpos {t : Nat} (ht : t ∈ [0, 11, 12]) : intLo t ≤ 0 := by rw [intLo_eq ht]; split_ifs <;> decide

theorem intHi_nonneg {t : Nat} (ht : t ∈ [0, 11, 12]) : 0 ≤ intHi t := by rw [intHi_eq ht]; split_ifs <;> decide

theorem intPlace_eq_ofInt {t : Nat} {y : Int} (ht : t ∈ [0, 11, 12]) (hlo : intLo t ≤ y) (hhi : y ≤ intHi t) :
    intPlace t y = BitVec.ofInt 64 y := by
  rcases scalarFormat_cases ht with rfl | rfl | rfl
  · rfl
  · simp only [intLo, intHi] at hlo hhi
    apply BitVec.eq_of_toInt_eq
    rw [intPlace, BitVec.toInt_signExtend_of_le (by decide), BitVec.toInt_ofInt, BitVec.toInt_ofInt,
      Int.bmod_eq_of_le (by omega) (by omega), Int.bmod_eq_of_le (by omega) (by omega)]
  · simp only [intLo, intHi] at hlo hhi
    apply BitVec.eq_of_toNat_eq
    simp only [intPlace, BitVec.toNat_setWidth, BitVec.toNat_ofInt]
    omega

theorem intRead_eq {t : Nat} (a : Dword) (ht : t ∈ [0, 11, 12]) :
    intRead t a.toNat = if t = 0 then a.toInt else if t = 11 then (a.setWidth 32).toInt else (a.toNat % 2 ^ 32 : Nat) := by
  rcases scalarFormat_cases ht with rfl | rfl | rfl
  · exact intRead_64 a
  · exact intRead_i32 a
  · rfl

/-! Sign operations on codes (R115). -/

theorem mod_xor_two_pow (x w : Nat) : x % 2 ^ (w + 1) ^^^ 2 ^ w = (x + 2 ^ w) % 2 ^ (w + 1) := by
  apply Nat.eq_of_testBit_eq
  intro i
  rw [Nat.testBit_xor, Nat.testBit_mod_two_pow, Nat.testBit_mod_two_pow, Nat.testBit_two_pow, Nat.add_comm x]
  rcases Nat.lt_trichotomy i w with h | rfl | h
  · simp [Nat.testBit_two_pow_add_gt h, h.ne', h.trans (Nat.lt_succ_self w)]
  · simp [Nat.testBit_two_pow_add_eq]
  · simp [show ¬ i < w + 1 by omega, h.ne]

theorem mod_mod_two_pow_succ (x w : Nat) : x % 2 ^ (w + 1) % 2 ^ w = x % 2 ^ w :=
  Nat.mod_mod_of_dvd x (pow_dvd_pow 2 (Nat.le_succ w))

theorem topBit_weight (x w : Nat) : (if bitOf (x % 2 ^ (w + 1)) w then 2 ^ w else 0) = x / 2 ^ w % 2 * 2 ^ w := by
  unfold bitOf
  rw [pow_succ, Nat.mod_mul_right_div_self, Nat.mod_mod]
  rcases Nat.mod_two_eq_zero_or_one (x / 2 ^ w) with h | h <;> simp [h]

theorem lowBits_lt (F : FloatFmt) (x : Dword) : lowBits F x < 2 ^ F.width := Nat.mod_lt _ (by positivity)

theorem lowBits_xor_signBit (F : FloatFmt) (x : Dword) :
    lowBits F x ^^^ F.signBit = (x.toNat + 2 ^ (F.width - 1)) % 2 ^ F.width := by
  rw [lowBits, FloatFmt.width_eq]; exact mod_xor_two_pow _ _

theorem lowBits_mod_signBit (F : FloatFmt) (x : Dword) : lowBits F x % F.signBit = x.toNat % 2 ^ (F.width - 1) := by
  rw [lowBits, FloatFmt.width_eq]; exact mod_mod_two_pow_succ _ _

theorem lowBits_signWeight (F : FloatFmt) (x : Dword) :
    (if bitOf (lowBits F x) (F.width - 1) then F.signBit else 0) = x.toNat / 2 ^ (F.width - 1) % 2 * 2 ^ (F.width - 1) := by
  rw [lowBits, FloatFmt.width_eq]; exact topBit_weight _ _

/-! The rows. -/

/-- The instruction of a row issues with the row's form, limits and registers, and does not end its chunk. -/
theorem floatRow_exec {i : Instr} {x : RegRow} (h : floatRow i = some x) :
    exec i = issueIf x.fm x.f x.ok (regBody x.regs) ∧ x.fm.ends.isHolding = false := by
  cases i with cases h
  | _ => exact ⟨rfl, rfl⟩

theorem floatRow_completes {i : Instr} {x : RegRow} {s : State} (hx : floatRow i = some x) (h : Issues x.fm x.ok x.f s) :
    Completes i s (RegStep x.fm x.f s (x.regs (envOf x.fm x.f s)) (s.after x.fm x.f) false) := by
  obtain ⟨hexec, hends⟩ := floatRow_exec hx
  exact x.completes hexec hends h

theorem putCoded_eq_withFloat (e : Env) {c d : Coded} (h : c = d) : e.putCoded c = withFloat e d := by rw [h]; rfl

theorem floatRow_regs_eq_withFloat {i : Instr} {x : RegRow} {c : Env → Coded} {s : State} (hx : floatRow i = some x) (hc : floatResult i = some c)
    (h : Issues x.fm x.ok x.f s) : x.regs (envOf x.fm x.f s) = withFloat (envOf x.fm x.f s) (c (envOf x.fm x.f s)) := by
  have hmode := mode_eq_ruleMode (envOf x.fm x.f s)
  cases i with cases hx <;> cases hc
  | fadd => exact putCoded_eq_withFloat _ (congrArg (FloatFmt.add _ · _ _) hmode)
  | fsub => exact putCoded_eq_withFloat _ (congrArg (FloatFmt.sub _ · _ _) hmode)
  | fmul => exact putCoded_eq_withFloat _ (congrArg (FloatFmt.mul _ · _ _) hmode)
  | fdiv => exact putCoded_eq_withFloat _ (congrArg (FloatFmt.div _ · _ _) hmode)
  | fsqrt => exact putCoded_eq_withFloat _ (congrArg (FloatFmt.sqrt _ · _) hmode)
  | fma => exact putCoded_eq_withFloat _ (congrArg (FloatFmt.fma _ · _ _ _) hmode)
  | fmin => exact putCoded_eq_withFloat _ (minmax_eq_pickOf false (lowBits_lt _ _) (lowBits_lt _ _))
  | fmax => exact putCoded_eq_withFloat _ (minmax_eq_pickOf true (lowBits_lt _ _) (lowBits_lt _ _))
  | frnd => exact putCoded_eq_withFloat _ ((congrArg (FloatFmt.roundInt _ · _) hmode).trans (roundInt_eq_integralOf _ (lowBits_lt _ _)))
  | fcvt => exact putCoded_eq_withFloat _ (congrArg (FloatFmt.convert _ · false _) hmode)
  | icvtf f =>
    have ht : f.tsrcN ∈ [0, 11, 12] := List.contains_iff_mem.mp (h.tsrc_ok rfl)
    exact putCoded_eq_withFloat _ (congrArg₂ (fun m i => FloatFmt.convert _ m false (Val.ofInt i 0 false)) hmode (intRead_eq _ ht))

theorem putCompare_eq (e : Env) {c d : Bool × Nat} (h : c = d) :
    e.putCompare c = withFlags (e.r.wrP e.kind e.f.dstN (if d.1 then pOnes e.kind else 0)) d.2 := by rw [h]; rfl

theorem fclass_regs {v : Env → RegState} {f : Fields} (e : Env) (hv : floatOutside (.fclass f) = some v) : fclassRegs e = v e := by
  cases hv
  simp only [fclassRegs, FloatFmt.classOf]
  cases e.ff.decode e.fsrc with
  | nan s => cases s <;> rfl
  | inf s => cases s <;> rfl
  | zero s => cases s <;> rfl
  | fin s m x =>
    rcases Nat.lt_or_ge m (2 ^ e.ff.m) with h | h
    · cases s <;> simp [h, h.not_ge]
    · cases s <;> simp [h, h.not_gt]

theorem fcvti_regs {v : Env → RegState} {f : Fields} {e : Env} (hv : floatOutside (.fcvti f) = some v) (hf : e.f = f)
    (ht : f.tsrcN ∈ [0, 11, 12]) : fcvtiRegs e = v e := by
  subst hf
  cases hv
  obtain ⟨hlo, hhi⟩ := convertInt_mem (modeOf e.f.rnd .toZero 0) (e.ff.decode e.fsrc) (intLo_nonpos ht) (intHi_nonneg ht)
  simp only [fcvtiRegs, intPlace_eq_ofInt ht hlo hhi]
  rw [intLo_eq ht, intHi_eq ht, modeOf_toZero_eq e.f e.r.arith]
  cases e.ff.decode e.fsrc <;> rfl

theorem floatRow_regs_eq_floatOutside {i : Instr} {x : RegRow} {v : Env → RegState} {s : State} (hx : floatRow i = some x)
    (hv : floatOutside i = some v) (h : Issues x.fm x.ok x.f s) : x.regs (envOf x.fm x.f s) = v (envOf x.fm x.f s) := by
  cases i with cases hx
  | fcmpeq f => cases hv; exact putCompare_eq _ (fcompare_eq _ f _ _)
  | fcmplt f => cases hv; exact putCompare_eq _ (fcompare_lt _ f _ _)
  | fcmple f => cases hv; exact putCompare_eq _ (fcompare_le _ f _ _)
  | fclass => exact fclass_regs _ hv
  | fcvti => exact fcvti_regs hv rfl (List.contains_iff_mem.mp (h.tsrc_ok rfl))
  | _ => cases hv

theorem floatRow_regs_eq_moveResult {i : Instr} {x : RegRow} {v : Env → RegState} {s : State} (hx : floatRow i = some x)
    (hv : moveResult i = some v) : x.regs (envOf x.fm x.f s) = v (envOf x.fm x.f s) := by
  cases i with cases hx <;> cases hv
  | fneg => exact congrArg (fun n => RegState.wrF _ _ (BitVec.ofNat 64 n)) (lowBits_xor_signBit _ _)
  | fabs => exact congrArg (fun n => RegState.wrF _ _ (BitVec.ofNat 64 n)) (lowBits_mod_signBit _ _)
  | fsgn =>
    exact congrArg₂ (fun m n => RegState.wrF _ _ (BitVec.ofNat 64 (m + n))) (lowBits_mod_signBit _ _) (lowBits_signWeight _ _)
  | fsel => exact congrArg (fun n => RegState.wrF _ _ (BitVec.ofNat 64 n)) (apply_ite (lowBits _) _ _ _).symm
  | fmov => rfl
  | fmvfs => rfl
  | fmvsf => rfl

/-- Settles O8: each row's registers are the rule's, be it a rounded result, a compare, a class, an integer or a move, and a row's
instruction completes with its registers. -/
theorem scalarFloatInstructionsGiveRuleResults : Obligations.ScalarFloatInstructionsGiveRuleResults := by
  refine ⟨fun i x c s hx hc h => ?_, fun i x v s hx hv h => ?_, fun i x v s hx hv h => ?_⟩
  · rw [← floatRow_regs_eq_withFloat hx hc h]; exact floatRow_completes hx h
  · rw [← floatRow_regs_eq_floatOutside hx hv h]; exact floatRow_completes hx h
  · rw [← floatRow_regs_eq_moveResult hx hv]; exact floatRow_completes hx h

end Sys2Proof.Machine
end
